-- ==== Sys2Proof/Word.lean ====
section
/-! DEFINITION. The word types of the Gorgar (spec/00_scope.md, R4 to R8) and the sparse table that every indexed group of state is kept in. -/

namespace Sys2Proof

/-- A word is 32 bits (R8). -/
abbrev Word := BitVec 32

/-- A byte. -/
abbrev Byte := BitVec 8

/-- A sparse table: what an unlisted index holds is named where the table is read. -/
abbrev Table (α : Type) := List (Nat × α)

end Sys2Proof
end

