-- ==== Sys2Proof/Syntax.lean ====
section
/-! DEFINITION. The commands of the block: one constructor per row of spec/opcode_table.json, with the operands of the row.
A context is named by its context number 4 * core + context, with S as 64 to 67 (R250, R469). The operand `f` of a basic op is
bits [11:8] of its instruction word: bit 0 is EXIT, the others must be 0 (R89, R90). What the outside world supplies at a step
(the data of a read, a received packet, a measurement, an upset found by a check) is an operand of that step. -/

namespace Sys2Proof

/-- What a check-bit or parity test finds in the word that a step reads, beyond what the state already holds (R191, R192, R185). -/
inductive Upset where
  | none
  | single
  | double
deriving DecidableEq, Repr

/-- What a read of host memory answers: its words, or the error status of HB_ERR (Table 8.7: 1 timeout, 2 Unsupported
Request, 3 Completer Abort, 4 poisoned, 5 link down or Bus Master Enable 0). -/
inductive RdResult where
  | data (ws : List Word)
  | err (status : Nat)
deriving DecidableEq, Repr

/-- What one policy tick measures (R29, R31): the sensors, each adaptive island's frequency in kHz, its busy and all issue
slots, and the clocks of FE_A and FE_B in kHz. -/
structure TickIn where
  temps : List (BitVec 16)
  khz : List Nat
  busy : List Nat
  slots : List Nat
  feKhz : List Nat
deriving DecidableEq, Repr

/-- The straps (R447, Table 19.1). -/
structure Straps where
  bootSrc : BitVec 2
  twinPrio : BitVec 2
  provEn : Bool
  testMode : Bool
deriving DecidableEq, Repr

/-- What bring-up finds outside the part at the end of a phase: VBAT in mV (phase 1), the PLL (phase 2), whether the
calibration page and the map-store slots still pass their CRC (phases 3 and 5), measured frequencies in kHz (phase 4), and
the flash: whether it answers, and the words of slots A and B (phases 6 and 7). -/
structure BringUpIn where
  vbatMv : Nat
  pllOk : Bool
  calOk : Bool
  khz : List Nat
  mapOk0 : Bool
  mapOk1 : Bool
  flashOk : Bool
  slotA : List Word
  slotB : List Word
deriving DecidableEq, Repr

/-- One claim (Table 14.2, TYPE 0x01). -/
structure Claim where
  prio : BitVec 2
  incumbent : Bool
  heard : Bool
  serial : BitVec 64
  rand : BitVec 16
  gen : BitVec 16
deriving DecidableEq, Repr

/-- The sequence number and the transaction tag of a packet (Table 14.1). -/
structure Hdr where
  seq : BitVec 12
  tag : BitVec 16
deriving DecidableEq, Repr

/-- The record of a SHADOW packet (Table 14.5), and the ring record that a snapshot image holds besides (R350). A submission
entry is its sixteen words; a completion entry its four. -/
inductive ShadowRec where
  | admin (e : List Word)
  | core (e : List Word)
  | doorbell (ring : Nat) (cq : Bool) (v : Nat)
  | completion (ring slot : Nat) (e : List Word)
  | started (ring slot : Nat) (cmd : BitVec 16) (idemp : Bool)
  | pass (e : List Word) (isOpen : Bool) (ring : Nat)
  | detach
  | ringRec (ring : Nat) (create : List Word) (epoch : BitVec 8) (sqHead sqTail cqHead cqTail : Nat) (phase : Bool)
deriving DecidableEq, Repr

/-- An NMEA RMC sentence as received (R412): its checksum and status, position in 10^-7 degree, speed in 10^-3 knot, course in
2^-16 turn, day since 2000-01-01 and ms of the day. -/
structure Rmc where
  checksumOk : Bool
  statusA : Bool
  lat : Int
  lon : Int
  speedMkn : Nat
  course : BitVec 16
  day : Nat
  ms : Nat
deriving DecidableEq, Repr

/-- A CAN frame (Table 21.7): the header word of CAN_TX_HDR, DLC and sixteen data words. -/
structure CanFrame where
  hdr : Word
  dlc : BitVec 4
  data : List Word
deriving DecidableEq, Repr

/-- Who writes a register (R10, R273): a context with OUT or OUTX, or the host. A write of BAR 0 has a size in bytes and, when it has eight, an
upper word; one of BAR 2 has a size and the words that follow the first. -/
inductive RegSpace where
  | port (c : Nat)
  | bar0 (size : Nat) (hi : Word)
  | bar2 (size : Nat) (more : List Word)
deriving DecidableEq, Repr

/-- The host's configuration writes that change what the bridge may send (R199, R204, R271, R272). -/
inductive CfgField where
  | busMaster
  | extTag
  | atomicEn
  | maxPayload
  | maxReadReq
  | cplTimeout
  | d3hot
  | msixEnable
  | msixFuncMask
deriving DecidableEq, Repr

/-- The second instruction of a pair of Table 3.7, with its operands (R74). -/
inductive Second where
  | add (f : BitVec 4)
  | sub (f : BitVec 4)
  | and (f : BitVec 4)
  | or (f : BitVec 4)
  | xor (f : BitVec 4)
  | shl (f : BitVec 4)
  | shr (f : BitVec 4)
  | eq (f : BitVec 4)
  | ldw (f : BitVec 4) (u : Upset)
  | stw (f : BitVec 4)
  | bz (rel : BitVec 12)
deriving DecidableEq, Repr

/-- The commands, one constructor per row of the table. -/
inductive Instr where
  -- stack and arithmetic instructions, chapter 4; nx is the instruction that follows, where it may be fused with this one (R74); stop is the
  -- number of microwords after which the step leaves a divide or user op, 0 for its end (R54, R107)
  | lit (c : Nat) (payload : BitVec 14) (nx : Option Second := none)
  | litc (c : Nat) (payload : BitVec 14)
  | nop (c : Nat) (f : BitVec 4)
  | dup (c : Nat) (f : BitVec 4) (nx : Option Second := none)
  | drop (c : Nat) (f : BitVec 4)
  | swap (c : Nat) (f : BitVec 4)
  | over (c : Nat) (f : BitVec 4) (nx : Option Second := none)
  | rot (c : Nat) (f : BitVec 4)
  | nip (c : Nat) (f : BitVec 4)
  | tuck (c : Nat) (f : BitVec 4)
  | pick (c : Nat) (f : BitVec 4)
  | depth (c : Nat) (f : BitVec 4)
  | toR (c : Nat) (f : BitVec 4)
  | rFrom (c : Nat) (f : BitVec 4)
  | rFetch (c : Nat) (f : BitVec 4)
  | rdrop (c : Nat) (f : BitVec 4)
  | add (c : Nat) (f : BitVec 4)
  | sub (c : Nat) (f : BitVec 4)
  | addc (c : Nat) (f : BitVec 4)
  | subc (c : Nat) (f : BitVec 4)
  | and (c : Nat) (f : BitVec 4)
  | or (c : Nat) (f : BitVec 4)
  | xor (c : Nat) (f : BitVec 4)
  | not (c : Nat) (f : BitVec 4)
  | neg (c : Nat) (f : BitVec 4)
  | shl (c : Nat) (f : BitVec 4)
  | shr (c : Nat) (f : BitVec 4)
  | sar (c : Nat) (f : BitVec 4)
  | rol (c : Nat) (f : BitVec 4)
  | ror (c : Nat) (f : BitVec 4)
  | mul (c : Nat) (f : BitVec 4)
  | mulh (c : Nat) (f : BitVec 4)
  | mulhu (c : Nat) (f : BitVec 4)
  | div (c : Nat) (f : BitVec 4) (stop : Nat := 0)
  | divu (c : Nat) (f : BitVec 4) (stop : Nat := 0)
  | mod (c : Nat) (f : BitVec 4) (stop : Nat := 0)
  | modu (c : Nat) (f : BitVec 4) (stop : Nat := 0)
  | eq (c : Nat) (f : BitVec 4) (nx : Option Second := none)
  | ne (c : Nat) (f : BitVec 4)
  | lt (c : Nat) (f : BitVec 4) (nx : Option Second := none)
  | ltu (c : Nat) (f : BitVec 4) (nx : Option Second := none)
  | zeq (c : Nat) (f : BitVec 4) (nx : Option Second := none)
  | min (c : Nat) (f : BitVec 4)
  | max (c : Nat) (f : BitVec 4)
  | sexb (c : Nat) (f : BitVec 4)
  | sexh (c : Nat) (f : BitVec 4)
  | zexb (c : Nat) (f : BitVec 4)
  | zexh (c : Nat) (f : BitVec 4)
  | clz (c : Nat) (f : BitVec 4)
  | popc (c : Nat) (f : BitVec 4)
  -- memory instructions, chapter 5; u is what the parity of D-local memory shows (R185 of the core's memories)
  | ldb (c : Nat) (f : BitVec 4) (u : Upset)
  | ldbu (c : Nat) (f : BitVec 4) (u : Upset)
  | ldh (c : Nat) (f : BitVec 4) (u : Upset)
  | ldhu (c : Nat) (f : BitVec 4) (u : Upset)
  | ldw (c : Nat) (f : BitVec 4) (u : Upset)
  | stb (c : Nat) (f : BitVec 4)
  | sth (c : Nat) (f : BitVec 4)
  | stw (c : Nat) (f : BitVec 4)
  | lds (c : Nat) (off : BitVec 12) (u : Upset)
  | sts (c : Nat) (off : BitVec 12)
  | ldtry (c : Nat) (f : BitVec 4) (u : Upset)
  | afadd (c : Nat) (f : BitVec 4) (u : Upset)
  | acas (c : Nat) (f : BitVec 4) (u : Upset)
  | lock (c : Nat) (f : BitVec 4)
  | unlock (c : Nat) (f : BitVec 4)
  | fence (c : Nat) (f : BitVec 4)
  | dflush (c : Nat) (f : BitVec 4)
  | dinval (c : Nat) (f : BitVec 4)
  | iflush (c : Nat) (f : BitVec 4)
  | setdb (c : Nat) (f : BitVec 4)
  | getdb (c : Nat) (f : BitVec 4)
  | setib (c : Nat) (f : BitVec 4)
  | getib (c : Nat) (f : BitVec 4)
  -- control, I/O and thread instructions, chapter 5
  | bz (c : Nat) (rel : BitVec 12)
  | bra (c : Nat) (rel : BitVec 12)
  | call (c : Nat) (rel : BitVec 12)
  | jmpx (c : Nat) (f : BitVec 4)
  | callx (c : Nat) (f : BitVec 4)
  | ret (c : Nat) (f : BitVec 4)
  | iret (c : Nat) (f : BitVec 4)
  | trap (c : Nat) (f : BitVec 4)
  | brk (c : Nat) (f : BitVec 4)
  | inP (c : Nat) (port : BitVec 12)
  | outP (c : Nat) (port : BitVec 12)
  | inx (c : Nat) (f : BitVec 4)
  | outx (c : Nat) (f : BitVec 4)
  | wait (c : Nat) (f : BitVec 4)
  | send (c : Nat) (f : BitVec 4)
  | yield (c : Nat) (f : BitVec 4)
  | timer (c : Nat) (f : BitVec 4)
  | cswrd (c : Nat) (f : BitVec 4)
  | cswwr (c : Nat) (f : BitVec 4)
  -- user and supervisor instructions, chapters 7 and 5; parity: a read of the Spindle stores by this opcode, whichever basic op it is, shows a
  -- parity error (R185)
  | userOp (c : Nat) (op : BitVec 8) (f : BitVec 4) (parity : Bool) (stop : Nat := 0)
  | ucwr (c : Nat) (f : BitVec 4)
  | ucwrDispatch (c : Nat) (f : BitVec 4)
  | ncwr (c : Nat) (f : BitVec 4)
  | modesetEnter (c : Nat) (f : BitVec 4)
  | modesetLeave (c : Nat) (f : BitVec 4)
  | ctxctlHalt (c : Nat) (f : BitVec 4)
  | ctxctlStart (c : Nat) (f : BitVec 4)
  | ctxctlResume (c : Nat) (f : BitVec 4)
  | ctxctlSetAcct (c : Nat) (f : BitVec 4)
  | ctxctlSetReg (c : Nat) (f : BitVec 4)
  -- core events; late: a padded load was not served in 24 ic (R86); vpar: the vector read shows a parity error (chapter 6); until the selection
  -- step of the entry, newer are lines whose events arrive, raised those that a context of the core raises, cleared the PEND bits that software clears
  | resultLand (c : Nat) (i : Nat)
  | branchResolve (c : Nat)
  | longLoadArrival (c : Nat) (u : Upset) (late : Bool)
  | farLineArrival (c : Nat)
  | storeBufferDrain (core : Nat) (u : Upset)
  | lockGrant (c : Nat)
  | lockBreak (bank : Nat)
  | trapEntry (c : Nat) (delay : Nat) (vpar : Bool)
  | interruptEntry (c : Nat) (newer : BitVec 16) (delay : Nat) (vpar : Bool) (raised cleared : BitVec 16 := 0)
  | intLineEvent (core : Nat) (line : Nat)
  | intRaise (c : Nat) (core : Nat) (mask : BitVec 16)
  | svDoorbell (core : Nat) (w : Word)
  | svDbRead (core : Nat)
  -- clocks and crossings, chapter 2; ch none is the queue's oldest value, some i the i-th event channel of the direction
  | xingDeliver (x : Nat) (toD2 : Bool) (ch : Option Nat := none)
  | xingResync (x : Nat)
  | xingPointerError (x : Nat)
  | islandAutoGate (d : Nat)
  | fabricIslandState
  | islandWake (d : Nat)
  | islCtlWrite (d : Nat) (w : Word)
  | policyTick (t : TickIn)
  | lockLoopWindow (d : Nat) (errPpm : Int)
  | utilityPllUnlock
  | utilityPllRelock
  | coreCtlBpFlush (core : Nat)
  -- events and the Thornhedge, chapter 10
  | evSet (c : Nat) (w : Word)
  | evClr (c : Nat) (w : Word)
  | eventPostDeliver (c : Nat) (flag : BitVec 5)
  | timerExpiry (c : Nat)
  | hedgeFire (g : Nat)
  | hgCtlWrite (g : Nat) (w : Word)
  | hgSnapDataRead
  -- the Miller, chapter 11
  | millTurn
  | midTurnGrant
  | meterZero (a : Nat) (res : Nat) (d : Nat)
  | millerRegisterWrite (port : BitVec 16) (w : Word)
  -- the Cauldron, chapter 9: the named op with this tag acts; ups are upsets found at word addresses
  | cmac (tag : Nat) (ups : List (Nat × Upset))
  | corr (tag : Nat) (ups : List (Nat × Upset))
  | fir (tag : Nat) (ups : List (Nat × Upset))
  | mag (tag : Nat) (ups : List (Nat × Upset))
  | phase (tag : Nat)
  | norm (tag : Nat)
  | accrd (tag : Nat)
  | accclr (tag : Nat)
  | cxOpStart (tag : Nat)
  | cxOpComplete (tag : Nat) (waits : Nat) (late : Bool)
  | cxTake (c : Nat)
  | cxCancel (c : Nat) (tag : BitVec 5)
  | cxLaneWrite (lane : Nat) (w : Word)
  -- fabric, mailboxes, front-end streams, bridges, chapter 8
  | scrubRead (bank : Nat) (u : Upset)
  | mbPush (c : Nat) (core : Nat) (m : Nat) (w : Word)
  | mbPop (c : Nat) (core : Nat) (m : Nat)
  | feStreamEnable (p : Nat) (tx : Bool) (w : Word)
  | feRxSample (p : Nat) (i q : BitVec 12) (frameOk : Bool := true)
  | feTxSample (p : Nat)
  | feClockLoss (p : Nat) (mid : Bool := false)
  | feClockReturn (p : Nat)
  | feTxStall (p : Nat)
  | hostReadCompletion (tag : Nat) (r : RdResult) (parity : Bool)
  | farReadTimeout (tag : Nat)
  | cplTimeout (tag : Nat)
  | ldtryLineExpire (c : Nat)
  | twinRequestTimeout (tag : BitVec 16)
  | juniorRetry (tag : BitVec 16)
  -- the twin bridge and the twin, chapters 8 and 14
  | twinPollTimer
  | poll (sb : BitVec 16) (cnt : List Byte)
  | pollrsp (sb : BitVec 16) (cnt : List Byte)
  | sbStale
  | twIrqRaise (m : BitVec 8)
  | memrd (h : Hdr) (off : Word) (ups : List (Nat × Upset))
  | memwr (h : Hdr) (off : Word) (be : BitVec 4) (code : BitVec 2) (d e : Word) (u : Upset)
  | memrdcpl (h : Hdr) (ok : Bool) (line : List Word)
  | twinLock (h : Hdr) (bank : BitVec 4)
  | twinUnlock (h : Hdr) (bank : BitVec 4)
  | ack (h : Hdr) (linkv : Bool) (ackseq : BitVec 12) (txnv : Bool) (code : BitVec 8)
  | nak (h : Hdr) (linkv : Bool) (ackseq : BitVec 12) (txnv : Bool) (code : BitVec 8)
  | linkAckTimer
  | replayTimeout
  | lanesUp
  | lanesDown
  | claimTimer
  | claim (cl : Claim) (echo : Option Claim)
  | claimSettleTimeout
  | claimingTimeout
  | standbyQuiesced
  | heartbeatTimer
  | heartbeat (st : BitVec 3) (feOwn : Bool) (gen : BitVec 16) (count : Word) (epochLo : Word)
  | heartbeatLoss
  | takeoverPermit (w : Word)
  | takeover
  | shadow (h : Hdr) (r : ShadowRec)
  | snapshot (h : Hdr) (off len : Nat) (bytes : Nat) (recs : List ShadowRec)
  | snapshotTimeout
  | relinquish (h : Hdr) (gen : BitVec 16)
  | consentFwd (h : Hdr) (p : BitVec 64) (party : Byte) (ws : List Word) (digest : List Word) (cs : RdResult)
  | feOwnCollision
  | feOwnBackoffEnd
  -- host rings, chapter 12; parity: the engine's state, or above the bridge's tag table, shows a parity error (Table 20.3, INTERNAL)
  | adminEnable (w : Word)
  | adminDisable (w : Word)
  | sqTail (n : Nat) (v : Word)
  | cqHead (n : Nat) (v : Word)
  | resyncDb (w : Word) (bad : List Nat := [])
  | ringFetchVisit (parity : Bool)
  | descriptorArrival (tag : Nat) (r : RdResult)
  | commandTimeout (n : Nat) (cmd : BitVec 16)
  | msixCoalesceTimeout (n : Nat)
  | jobRun (n : Nat)
  | jobDispatch (c : Nat)
  | jobDone (c : Nat)
  | jobTrap (c : Nat)
  | dmCopyIn (n : Nat)
  | dmCopyOut (n : Nat)
  | dmFill (n : Nat)
  | dmaSegmentDone (n : Nat) (cmd : BitVec 16) (r : RdResult) (ups : List (Nat × Upset))
  -- admin commands, chapters 13 to 15; bad are entries of the Breadcrumbs (of the log alone for a resync) found with wrong parity (R520); r is
  -- what the host buffer held, flash words are what the flash holds
  | identify
  | ringCreate
  | ringDelete
  | ringReset
  | accountSet
  | imageLoad (r r2 : RdResult) (ok late : Bool)
  | coreStart (flashOk : Bool) (slot : List Word)
  | coreStop
  | modeSet
  | clockPolicySet
  | hedgeConfig
  | protectPropose (r : RdResult)
  | protectConsent
  | protectionSwap
  | lockoutEnd
  | keyProvision (ok late : Bool)
  | calRead
  | calWrite (r : RdResult) (ok late : Bool)
  | ledgerAttach
  | twinControlDetach
  | twinControlAttach
  | twinControlRelinquish
  | logFetch (bad : List (Nat × Nat) := [])
  | resyncSummary (bad : List Nat := [])
  | resyncResume
  -- session commands, the air protocol and the Planner, chapters 16 and 17
  | passBegin (n : Nat)
  | passUpdate (n : Nat)
  | passEnd (n : Nat)
  | stakeQuery (n : Nat) (r : RdResult)
  | wakePlace (idxs : List Nat) (recs : List (List Word)) (ch : Nat) (startUs : Nat)
  | wakeStart (x : Nat) (noCarrier : Bool)
  | replyFrame (x : Nat) (bytes : List Byte) (snrDb : Int) (atUs : Nat)
  | ackSend (x : Nat)
  | exchangeEnd (x : Nat) (i : Nat) (syncSeen : Bool) (wbOk : Bool) (found : List (Nat × List Word) := [])
  | ledgerReread (idx : Nat) (rec : List Word)
  | beaconSend (ch : Nat)
  | foreignReaderFrame (ch : Nat) (rid : BitVec 16) (beacon : Option (BitVec 8 × BitVec 8 × BitVec 16))
  | coexQuietTimeout (ch : Nat)
  | rmcSentence (m : Rmc)
  | ppsEdge
  | ppsAbsent
  -- the Hearth, the watchdog and the resets, chapter 18
  | mainFall (vbatMv : Nat)
  | mainGoodCount
  | vbatFall (mainMv : Nat)
  | vbatMeasure (mv : Nat)
  | xtalFail
  | hearthWake
  | hearthWakeRelease
  | hwakeClr
  | hrtSet (w : Word)
  | hrtLoRead
  | hjDataAccess (w : Option Word)
  | wdtKick (key : Word)
  | wdtWarn
  | wdtTimeout
  | islReset (mask : Word)
  | powerOnReset (hearthLost : Bool)
  | resetN
  | perstN
  | deviceResetRelease (st : Straps)
  -- bring-up and the service port, chapter 19
  | bringUpPhaseComplete (b : BringUpIn)
  | status (seq : Byte)
  | stage (seq : Byte) (off : Nat) (data : List Byte)
  | commit (seq : Byte) (slot : Byte) (len : Nat) (ok : Bool)
  | reboot (seq : Byte)
  | protQuery (seq : Byte)
  | protConsent (seq : Byte) (ws : List Word)
  -- utility interfaces, chapter 21, and the rest
  | uartRxByte (u : Nat) (b : Byte) (stop : Bool)
  | uartRxRead (u : Nat)
  | uartTxWrite (u : Nat) (b : Byte)
  | canTxGo
  | canTxAbort (won : Bool)
  | canTxDone
  | canRxFrame (fr : CanFrame)
  | canRxPop
  | canBusOffRecover
  | gpioEdge (i : Nat) (level : Bool)
  | feIrqEdge (p : Nat) (level : Bool := true)
  | feSpiGo (p : Nat)
  | feSpiDone (p : Nat) (w : Word)
  | pcieLinkUp
  | pcieLinkDown
  | bcDataRead (c : Nat) (parity : Bool)
  | bcFreeze (c : Nat) (w : Word)
  | registerWrite (sp : RegSpace) (addr : Nat) (w : Word)
  | pcieConfigWrite (fieldName : CfgField) (v : Nat)
  | feOwnSenseRelease
  | twinPacketDrop
  | canBusError (tx : Bool) (n : Nat)
  | uartTxByteSent (u : Nat)
  | tapTckEdge (rising tms tdi : Bool)
  | journalHourlyEntry
  | crystalRestart
  | ppsLockLapse
deriving DecidableEq, Repr

end Sys2Proof
end

