-- ==== Sys2Proof/WellFormed.lean ====
section
/-! DEFINITION. Which commands are well formed: their indices name things that the Gorgar has (R7, R250, Tables 2.1, 8.5, 9.2,
10.3, 11.2, 12.1), and what a step supplies has the length that the step takes. Senders send only
well-formed commands (assumption log 10). -/

namespace Sys2Proof

/-- The measurements of a policy tick: eight sensors, nineteen adaptive islands, two converter clocks (R29, Table 2.9). -/
def TickIn.wf (t : TickIn) : Bool :=
  t.temps.length == 8 && t.khz.length == 19 && t.busy.length == 19 && t.slots.length == 19 && t.feKhz.length == 2

/-- A shadowed entry has its sixteen or four words (Table 14.5). -/
def ShadowRec.wf : ShadowRec → Bool
  | .admin e => e.length == 16
  | .core e => e.length == 16
  | .doorbell ring _ _ => ring < 1024
  | .completion ring _ e => ring < 1024 && e.length == 4
  | .started ring _ _ _ => ring < 1024
  | .pass e _ ring => e.length == 16 && ring < 1024
  | .detach => true
  | .ringRec ring create _ _ _ _ _ _ => ring < 1024 && create.length == 16

/-- Well-formed commands. -/
def Instr.wf : Instr → Bool
  | .lit c _ _ => c < 68
  | .litc c _ => c < 68
  | .nop c _ => c < 68
  | .dup c _ _ => c < 68
  | .drop c _ => c < 68
  | .swap c _ => c < 68
  | .over c _ _ => c < 68
  | .rot c _ => c < 68
  | .nip c _ => c < 68
  | .tuck c _ => c < 68
  | .pick c _ => c < 68
  | .depth c _ => c < 68
  | .toR c _ => c < 68
  | .rFrom c _ => c < 68
  | .rFetch c _ => c < 68
  | .rdrop c _ => c < 68
  | .add c _ => c < 68
  | .sub c _ => c < 68
  | .addc c _ => c < 68
  | .subc c _ => c < 68
  | .and c _ => c < 68
  | .or c _ => c < 68
  | .xor c _ => c < 68
  | .not c _ => c < 68
  | .neg c _ => c < 68
  | .shl c _ => c < 68
  | .shr c _ => c < 68
  | .sar c _ => c < 68
  | .rol c _ => c < 68
  | .ror c _ => c < 68
  | .mul c _ => c < 68
  | .mulh c _ => c < 68
  | .mulhu c _ => c < 68
  | .div c _ _ => c < 68
  | .divu c _ _ => c < 68
  | .mod c _ _ => c < 68
  | .modu c _ _ => c < 68
  | .eq c _ _ => c < 68
  | .ne c _ => c < 68
  | .lt c _ _ => c < 68
  | .ltu c _ _ => c < 68
  | .zeq c _ _ => c < 68
  | .min c _ => c < 68
  | .max c _ => c < 68
  | .sexb c _ => c < 68
  | .sexh c _ => c < 68
  | .zexb c _ => c < 68
  | .zexh c _ => c < 68
  | .clz c _ => c < 68
  | .popc c _ => c < 68
  | .ldb c _ _ => c < 68
  | .ldbu c _ _ => c < 68
  | .ldh c _ _ => c < 68
  | .ldhu c _ _ => c < 68
  | .ldw c _ _ => c < 68
  | .stb c _ => c < 68
  | .sth c _ => c < 68
  | .stw c _ => c < 68
  | .lds c _ _ => c < 68
  | .sts c _ => c < 68
  | .ldtry c _ _ => c < 68
  | .afadd c _ _ => c < 68
  | .acas c _ _ => c < 68
  | .lock c _ => c < 68
  | .unlock c _ => c < 68
  | .fence c _ => c < 68
  | .dflush c _ => c < 68
  | .dinval c _ => c < 68
  | .iflush c _ => c < 68
  | .setdb c _ => c < 68
  | .getdb c _ => c < 68
  | .setib c _ => c < 68
  | .getib c _ => c < 68
  | .bz c _ => c < 68
  | .bra c _ => c < 68
  | .call c _ => c < 68
  | .jmpx c _ => c < 68
  | .callx c _ => c < 68
  | .ret c _ => c < 68
  | .iret c _ => c < 68
  | .trap c _ => c < 68
  | .brk c _ => c < 68
  | .inP c _ => c < 68
  | .outP c _ => c < 68
  | .inx c _ => c < 68
  | .outx c _ => c < 68
  | .wait c _ => c < 68
  | .send c _ => c < 68
  | .yield c _ => c < 68
  | .timer c _ => c < 68
  | .cswrd c _ => c < 68
  | .cswwr c _ => c < 68
  | .userOp c _ _ _ _ => c < 68
  | .ucwr c _ => c < 68
  | .ucwrDispatch c _ => c < 68
  | .ncwr c _ => c < 68
  | .modesetEnter c _ => c < 68
  | .modesetLeave c _ => c < 68
  | .ctxctlHalt c _ => c < 68
  | .ctxctlStart c _ => c < 68
  | .ctxctlResume c _ => c < 68
  | .ctxctlSetAcct c _ => c < 68
  | .ctxctlSetReg c _ => c < 68
  | .resultLand c _ => c < 68
  | .branchResolve c => c < 68
  | .longLoadArrival c _ _ => c < 68
  | .farLineArrival c => c < 68
  | .storeBufferDrain core _ => core < 17
  | .lockGrant c => c < 68
  | .lockBreak bank => bank < 16
  | .trapEntry c _ _ => c < 68
  | .interruptEntry c _ _ _ _ _ => c < 68
  | .intLineEvent core line => core < 17 && line < 16
  | .intRaise c core _ => c < 68 && core < 17
  | .svDoorbell core _ => core < 17
  | .svDbRead core => core < 17
  | .xingDeliver x _ _ => x < 25 ∧ x ≠ 2
  | .xingResync x => x < 25
  | .xingPointerError x => x < 25
  | .islandAutoGate d => d < 25
  | .fabricIslandState => true
  | .islandWake d => d < 25
  | .islCtlWrite d _ => d < 25
  | .policyTick t => t.wf
  | .lockLoopWindow d _ => d < 25
  | .utilityPllUnlock => true
  | .utilityPllRelock => true
  | .coreCtlBpFlush core => core < 17
  | .evSet c _ => c < 68
  | .evClr c _ => c < 68
  | .eventPostDeliver c _ => c < 68
  | .timerExpiry c => c < 68
  | .hedgeFire g => g < 8
  | .hgCtlWrite g _ => g < 8
  | .hgSnapDataRead => true
  | .millTurn => true
  | .midTurnGrant => true
  | .meterZero a res d => a < 64 && res < 4 && d < 25
  | .millerRegisterWrite _ _ => true
  | .cmac tag _ => tag < 32
  | .corr tag _ => tag < 32
  | .fir tag _ => tag < 32
  | .mag tag _ => tag < 32
  | .phase tag => tag < 32
  | .norm tag => tag < 32
  | .accrd tag => tag < 32
  | .accclr tag => tag < 32
  | .cxOpStart tag => tag < 32
  | .cxOpComplete tag _ _ => tag < 32
  | .cxTake c => c < 68
  | .cxCancel c _ => c < 68
  | .cxLaneWrite lane _ => lane < 2
  | .scrubRead bank _ => bank < 16
  | .mbPush c core m _ => c < 68 && core < 16 && m < 4
  | .mbPop c core m => c < 68 && core < 16 && m < 4
  | .feStreamEnable p _ _ => p < 2
  | .feRxSample p _ _ _ => p < 2
  | .feTxSample p => p < 2
  | .feClockLoss p _ => p < 2
  | .feClockReturn p => p < 2
  | .feTxStall p => p < 2
  | .hostReadCompletion tag _ _ => tag < 64
  | .farReadTimeout tag => tag < 64
  | .cplTimeout tag => tag < 64
  | .ldtryLineExpire c => c < 68
  | .twinRequestTimeout _ => true
  | .juniorRetry _ => true
  | .twinPollTimer => true
  | .poll _ cnt => cnt.length == 8
  | .pollrsp _ cnt => cnt.length == 8
  | .sbStale => true
  | .twIrqRaise _ => true
  | .memrd _ _ _ => true
  | .memwr _ _ _ _ _ _ _ => true
  | .memrdcpl _ _ line => line.length == 8
  | .twinLock _ _ => true
  | .twinUnlock _ _ => true
  | .ack _ _ _ _ _ => true
  | .nak _ _ _ _ _ => true
  | .linkAckTimer => true
  | .replayTimeout => true
  | .lanesUp => true
  | .lanesDown => true
  | .claimTimer => true
  | .claim _ _ => true
  | .claimSettleTimeout => true
  | .claimingTimeout => true
  | .standbyQuiesced => true
  | .heartbeatTimer => true
  | .heartbeat _ _ _ _ _ => true
  | .heartbeatLoss => true
  | .takeoverPermit _ => true
  | .takeover => true
  | .shadow _ r => r.wf
  | .snapshot _ _ _ _ recs => recs.all ShadowRec.wf
  | .snapshotTimeout => true
  | .relinquish _ _ => true
  | .consentFwd _ _ _ _ _ _ => true
  | .feOwnCollision => true
  | .feOwnBackoffEnd => true
  | .adminEnable _ => true
  | .adminDisable _ => true
  | .sqTail n _ => n < 1024
  | .cqHead n _ => n < 1024
  | .resyncDb _ _ => true
  | .ringFetchVisit _ => true
  | .descriptorArrival tag _ => tag < 64
  | .commandTimeout n _ => n < 1024
  | .msixCoalesceTimeout n => n < 1024
  | .jobRun n => n < 1024
  | .jobDispatch c => c < 68
  | .jobDone c => c < 68
  | .jobTrap c => c < 68
  | .dmCopyIn n => n < 1024
  | .dmCopyOut n => n < 1024
  | .dmFill n => n < 1024
  | .dmaSegmentDone n _ _ _ => n < 1024
  | .identify => true
  | .ringCreate => true
  | .ringDelete => true
  | .ringReset => true
  | .accountSet => true
  | .imageLoad _ _ _ _ => true
  | .coreStart _ _ => true
  | .coreStop => true
  | .modeSet => true
  | .clockPolicySet => true
  | .hedgeConfig => true
  | .protectPropose _ => true
  | .protectConsent => true
  | .protectionSwap => true
  | .lockoutEnd => true
  | .keyProvision _ _ => true
  | .calRead => true
  | .calWrite _ _ _ => true
  | .ledgerAttach => true
  | .twinControlDetach => true
  | .twinControlAttach => true
  | .twinControlRelinquish => true
  | .logFetch _ => true
  | .resyncSummary _ => true
  | .resyncResume => true
  | .passBegin n => n < 1024
  | .passUpdate n => n < 1024
  | .passEnd n => n < 1024
  | .stakeQuery n _ => n < 1024
  | .wakePlace _ _ ch _ => ch < 4
  | .wakeStart _ _ => true
  | .replyFrame _ _ _ _ => true
  | .ackSend _ => true
  | .exchangeEnd _ _ _ _ _ => true
  | .ledgerReread _ _ => true
  | .beaconSend ch => ch < 4
  | .foreignReaderFrame ch _ _ => ch < 4
  | .coexQuietTimeout ch => ch < 4
  | .rmcSentence _ => true
  | .ppsEdge => true
  | .ppsAbsent => true
  | .mainFall _ => true
  | .mainGoodCount => true
  | .vbatFall _ => true
  | .vbatMeasure _ => true
  | .xtalFail => true
  | .hearthWake => true
  | .hearthWakeRelease => true
  | .hwakeClr => true
  | .hrtSet _ => true
  | .hrtLoRead => true
  | .hjDataAccess _ => true
  | .wdtKick _ => true
  | .wdtWarn => true
  | .wdtTimeout => true
  | .islReset _ => true
  | .powerOnReset _ => true
  | .resetN => true
  | .perstN => true
  | .deviceResetRelease _ => true
  | .bringUpPhaseComplete _ => true
  | .status _ => true
  | .stage _ _ _ => true
  | .commit _ _ _ _ => true
  | .reboot _ => true
  | .protQuery _ => true
  | .protConsent _ _ => true
  | .uartRxByte u _ _ => u < 2
  | .uartRxRead u => u < 2
  | .uartTxWrite u _ => u < 2
  | .canTxGo => true
  | .canTxAbort _ => true
  | .canTxDone => true
  | .canRxFrame fr => fr.data.length == 16
  | .canRxPop => true
  | .canBusOffRecover => true
  | .gpioEdge i _ => i < 16
  | .feIrqEdge p _ => p < 2
  | .feSpiGo p => p < 2
  | .feSpiDone p _ => p < 2
  | .pcieLinkUp => true
  | .pcieLinkDown => true
  | .bcDataRead c _ => c < 68
  | .bcFreeze c _ => c < 68
  | .registerWrite _ _ _ => true
  | .pcieConfigWrite _ _ => true
  | .feOwnSenseRelease => true
  | .twinPacketDrop => true
  | .canBusError _ _ => true
  | .uartTxByteSent u => u < 2
  | .tapTckEdge _ _ _ => true
  | .journalHourlyEntry => true
  | .crystalRestart => true
  | .ppsLockLapse => true

end Sys2Proof
end

