-- ==== Sys2Proof/Decode.lean ====
section
/-! DEFINITION. An instruction word as the Gorgar decodes it (R89 to R92, Tables 4.1 and 4.2), and the commands as words of the opcode table: no row
of the table gives a bit to anything, so no word of it spells a command (assumption log 18). -/

namespace Sys2Proof

/-- The command that a basic op of context c spells, by its opcode and the field [11:8] (Tables 4.2 to 4.6, 5.1 to 5.9); an opcode that no chapter
allocates, and a user opcode, is USER_OP, which says what becomes of it (R91, R92). What the operands of MODESET and CTXCTL ask for is
in a data cell, so either of their commands stands for the word. -/
def decodeBasic (c : Nat) (f : BitVec 4) (op : BitVec 8) : Instr :=
  match op.toNat with
  | 0x00 => .nop c f
  | 0x01 => .dup c f none
  | 0x02 => .drop c f
  | 0x03 => .swap c f
  | 0x04 => .over c f none
  | 0x05 => .rot c f
  | 0x06 => .nip c f
  | 0x07 => .tuck c f
  | 0x08 => .pick c f
  | 0x09 => .depth c f
  | 0x0A => .toR c f
  | 0x0B => .rFrom c f
  | 0x0C => .rFetch c f
  | 0x0D => .rdrop c f
  | 0x10 => .add c f
  | 0x11 => .sub c f
  | 0x12 => .addc c f
  | 0x13 => .subc c f
  | 0x14 => .and c f
  | 0x15 => .or c f
  | 0x16 => .xor c f
  | 0x17 => .not c f
  | 0x18 => .neg c f
  | 0x19 => .shl c f
  | 0x1A => .shr c f
  | 0x1B => .sar c f
  | 0x1C => .rol c f
  | 0x1D => .ror c f
  | 0x20 => .mul c f
  | 0x21 => .mulh c f
  | 0x22 => .mulhu c f
  | 0x23 => .div c f 0
  | 0x24 => .divu c f 0
  | 0x25 => .mod c f 0
  | 0x26 => .modu c f 0
  | 0x28 => .eq c f none
  | 0x29 => .ne c f
  | 0x2A => .lt c f none
  | 0x2B => .ltu c f none
  | 0x2C => .zeq c f none
  | 0x2D => .min c f
  | 0x2E => .max c f
  | 0x30 => .sexb c f
  | 0x31 => .sexh c f
  | 0x32 => .zexb c f
  | 0x33 => .zexh c f
  | 0x34 => .clz c f
  | 0x35 => .popc c f
  | 0x40 => .ldb c f .none
  | 0x41 => .ldbu c f .none
  | 0x42 => .ldh c f .none
  | 0x43 => .ldhu c f .none
  | 0x44 => .ldw c f .none
  | 0x45 => .stb c f
  | 0x46 => .sth c f
  | 0x47 => .stw c f
  | 0x48 => .ldtry c f .none
  | 0x49 => .afadd c f .none
  | 0x4A => .acas c f .none
  | 0x4B => .lock c f
  | 0x4C => .unlock c f
  | 0x4D => .fence c f
  | 0x4E => .dflush c f
  | 0x4F => .dinval c f
  | 0x50 => .iflush c f
  | 0x51 => .setdb c f
  | 0x52 => .getdb c f
  | 0x53 => .setib c f
  | 0x54 => .getib c f
  | 0x60 => .jmpx c f
  | 0x61 => .callx c f
  | 0x62 => .ret c f
  | 0x63 => .iret c f
  | 0x64 => .trap c f
  | 0x65 => .brk c f
  | 0x70 => .inx c f
  | 0x71 => .outx c f
  | 0x72 => .wait c f
  | 0x73 => .send c f
  | 0x74 => .yield c f
  | 0x75 => .timer c f
  | 0x76 => .cswrd c f
  | 0x77 => .cswwr c f
  | 0xF0 => .ucwr c f
  | 0xF1 => .ncwr c f
  | 0xF2 => .modesetEnter c f
  | 0xF3 => .ctxctlHalt c f
  | _ => .userOp c op f false 0

/-- The command that a 16-bit instruction word of context c spells, by the classes of Table 4.1 (R89). -/
def decodeInstr (c : Nat) (w : BitVec 16) : Instr :=
  if w.getLsbD 15 then (if w.getLsbD 14 then .litc c (w.extractLsb' 0 14) else .lit c (w.extractLsb' 0 14) none)
  else match (w.extractLsb' 12 3).toNat with
    | 0 => decodeBasic c (w.extractLsb' 8 4) (w.extractLsb' 0 8)
    | 1 => .bz c (w.extractLsb' 0 12)
    | 2 => .bra c (w.extractLsb' 0 12)
    | 3 => .call c (w.extractLsb' 0 12)
    | 4 => .lds c (w.extractLsb' 0 12) .none
    | 5 => .sts c (w.extractLsb' 0 12)
    | 6 => .inP c (w.extractLsb' 0 12)
    | _ => .outP c (w.extractLsb' 0 12)

/-- The command that a word of the table spells: none. -/
def decodeTableWord (_nbits _w : Nat) : Option Instr := none

end Sys2Proof
end

