-- ==== Sys2Proof/Config.lean ====
section
/-! DEFINITION. What an implementation or a unit fixes, and the free values: constants WITHOUT a body, so that no proof can see one. Each is named in
an entry of the assumption log. -/

namespace Sys2Proof.Config

/-- The unit's 64-bit serial (Table 7.11, "unit"): log 7. -/
opaque serial : BitVec 64

/-- The factory's calibration page, one word per index below 1,024 (R462): log 7. -/
opaque calPage : Nat → Word

/-- The mask-ROM default of a core's vendor regions (R182): dispatch entries, microwords and nanowords. Log 2. -/
opaque romDispatch : Nat → BitVec 24
opaque romMicro : Nat → BitVec 24
opaque romNano : Nat → BitVec 96

/-- Ed25519 verification (R451, R452): key, message bytes as words, signature. Log 11. -/
opaque ed25519 : List Word → List Word → List Word → Bool

/-- Swetia's key, held in mask ROM (R452). Log 11. -/
opaque swetiaKey : List Word

/-- The on-chip power estimate in mW at the codes of D_2 to D_20 (R31). Log 12. -/
opaque estPower : List Nat → Nat

/-- Where the lock loop moves trim and code (R35): a free value named by the counter. Log 13. -/
opaque loopStep : Nat → (BitVec 6 × Int)

/-- The fine trim that bring-up phase 4 sets for an island (Table 19.2): log 13. -/
opaque phase4Trim : Nat → Int

/-- A free value of the width asked for: named by the counter of the state. Log 4. -/
opaque freeWord : Nat → Word

/-- Which of two cached lines of a set is replaced (R76 gives no rule). Log 14. -/
opaque evict : Nat → Bool

/-- The cosine of a latitude in 10^-7 degree, in units of 10^-9 (R412). Log 15. -/
opaque cosE9 : Int → Int

/-- Cosine and sine of a heading in 2^-16 turn, in units of 10^-9 (R412, R414). Log 15. -/
opaque headCosE9 : BitVec 16 → Int
opaque headSinE9 : BitVec 16 → Int

/-- The rounding of a learned quantity whose rounding the manual does not state (R424): adds 0 or 1. Log 16. -/
opaque roundUp : Nat → Bool

/-- Drawn values: the FE_OWN backoff in ms (R348) and a receive error count that ISO 11898-1 leaves in a range (R497). Log 4. -/
opaque draw : Nat → Nat

/-- The shape of the transmitted carrier amplitude at a power (R376) in half dB below full scale. Log 15. -/
opaque amplitude : Int → Nat

/-- The boundary-scan register's length, the instruction register's length beyond 2, and the instruction codes other than BYPASS (R502): log 8. -/
opaque tapCells : Nat
opaque tapIrExtra : Nat
opaque tapCode : List Bool → Nat

/-- The boundary-scan cells of the four balls that R502 names: FE_A_OWN, FE_B_OWN, FE_A_PA_EN, FE_B_PA_EN. Log 8. -/
opaque ballCell : Nat → Nat

/-- A crossing's queue holds one entry and this many more (R42 gives no depth). Log 24. -/
opaque xingExtra : Nat → Nat

/-- The grade of the unit: -E when true (R2, R508). Log 7. -/
opaque gradeE : Bool

end Sys2Proof.Config
end

