-- ==== Sys2Proof/Machine/State.lean ====
section
/-! DEFINITION. The state of the block as plain data, unit by unit, and the state at reset. Indexed groups are sparse tables
(Sys2Proof.Table): an index that a table does not list holds the group's reset value, named beside the group. -/

namespace Sys2Proof.Machine

open Sys2Proof

/-- Why a step could stop the model. No command raises one: every fault of the manual is a state of the block (Table 20.1),
so the constructor is there for the interface alone; safe. -/
inductive Fault where
  /-- Raised by no command. -/
  | unused
deriving DecidableEq, Repr

/-- Why a command could be refused. -/
inductive Refusal where
  /-- Raised by exec for a command that has no meaning yet; safe. -/
  | notModelled (mnemonic : String)
deriving DecidableEq, Repr

/-! ## Contexts (chapters 3 to 7, 9, 10) -/

/-- Context states (R50, Table 3.1). -/
inductive CtxState where
  | halted
  | run
  | wait
  | long
  | parked
deriving DecidableEq, Repr

/-- Where a late result lands: a data or return cell, a temporary or the counter of the Spindle, the flags alone, or the outcome of a CX_GO
that port 0x205 shows (R64, R176, R220). -/
inductive LandAt where
  | data
  | ret
  | t0
  | t1
  | ucnt
  | flags
  | issue
deriving DecidableEq, Repr

/-- A late fixed-latency result (R63, R64): its name, the stack position counted from the bottom, its value, and the flags
that land with it (R98, R109, R176). -/
structure Land where
  id : Nat
  pos : Nat
  val : Word
  vf : Option Bool
  dst : LandAt := .data
  cf : Option Bool := none
deriving DecidableEq, Repr

/-- What a squash restores (R71): the context as it stood when the BZ issued, its two targets and what was predicted; `undo`
lists spill-region words written since, newest first; `due` the trail entries of younger instructions that have not retired yet;
`cxTags` the ops issued speculatively and `starved` that one was refused for its budget (R232); `cycles`, `t0` and `t1` are CTX_CYCLES and the
Spindle's temporaries. -/
structure Snap where
  ds : List Word
  rs : List Word
  dspPtr : BitVec 16
  rspPtr : BitVec 16
  cf : Bool
  vf : Bool
  lands : List Land
  bzPc : BitVec 24
  target : BitVec 24
  taken : Bool
  predicted : Bool
  undo : List (Nat × Word)
  due : List (Word × Word)
  cxIssue : Word
  cxTags : List Nat
  cycles : Word
  t0 : Word
  t1 : Word
  starved : Bool
deriving DecidableEq, Repr

/-- A trap raised and not yet entered (R147 to R149): cause, TRAP_ADDR, argument, the data cells the instruction has popped at
entry (R148), and whether the saved address is the next instruction. -/
structure TrapReq where
  cause : BitVec 8
  addr : Word
  arg : BitVec 8
  pops : Nat
  after : Bool
deriving DecidableEq, Repr

/-- Atomic operations (R118). -/
inductive Atomic where
  | fadd (n : Word)
  | cas (expected new : Word)
deriving DecidableEq, Repr

/-- What a context in LONG waits for (R66, R67, R119, R120, R135, R143). `two` marks LDTRY, which pushes its flag as well; `pops`
counts the operand cells that stay on the stack until the instruction ends. -/
inductive LongOp where
  | load (addr : Word) (size pops : Nat) (signed two : Bool)
  | far (addr : Word) (size pops : Nat) (signed : Bool)
  | atomic (addr : Word) (op : Atomic)
  | farAtomic (addr : Word) (op : Atomic) (done : Option RdResult)
  | lock (addr : Word)
  | unlock
  | io (port : BitVec 16) (pops : Nat)
  | value (w : Word) (pops : Nat)
deriving DecidableEq, Repr

/-- A result of a microword that lands once `due` island cycles of its op have passed (R176); `pos` counts from the bottom of the cells on
chip. -/
structure ULand where
  due : Nat
  dst : LandAt
  pos : Nat
  val : Word
  cf : Option Bool
  vf : Option Bool
deriving DecidableEq, Repr

/-- The working copy of R179 with the micro address and the micro-stack. `time` counts the island cycles of its microwords and `words` the microwords,
`paid` and `seen` those charged already; `datum` is the loaded value for the microword that waited for it, `y` and `b` its ALU result and operand B;
`fr` names the free value of a cell that the entry did not make present; `ibw` marks a write of IBANK. -/
structure UWork where
  ds : List Word
  rs : List Word
  cf : Bool
  vf : Bool
  ie : Bool
  dbank : BitVec 20
  ibank : BitVec 8
  t0 : Word
  t1 : Word
  ucnt : BitVec 8
  z : Bool
  n : Bool
  c : Bool
  v : Bool
  stack : List (BitVec 10)
  upc : BitVec 10
  time : Nat
  paid : Nat
  words : Nat
  seen : Nat
  datum : Option Word
  y : Word
  b : Word
  lands : List ULand
  npc : Option (BitVec 24)
  ibw : Bool
  fr : Nat
deriving DecidableEq, Repr

/-- A microcoded instruction between two of its microwords (R54, R106, R107, R179): a divide with the number of its microwords that have issued
and its operands, or a user op with its working copy. -/
inductive Mid where
  | divide (op : Nat) (f : BitVec 4) (issued : Nat) (a b : Word)
  | user (op : BitVec 8) (f : BitVec 4) (w : UWork)
deriving DecidableEq, Repr

/-- A wait that the last microword of a user op enters after another: an input from a long port, or WAIT (R138, R174, R177). -/
inductive UWait where
  | io (port : BitVec 16)
  | wait (mask : Word)
deriving DecidableEq, Repr

/-- What is left of a user op whose last microword waits in LONG or WAIT (R176, R177, R179): the working copy that becomes architectural, where
its value goes (Table 7.7, DST, 0 for none), whether the two cells of LDTRY are due, how many of its actions supply DST, the value and the flag
obtained so far, and a further wait. -/
structure UFin where
  w : UWork
  dst : Nat
  two : Bool
  reads : Nat
  got : Option Word
  flag : Option Word
  next : Option UWait
deriving DecidableEq, Repr

/-- What a line holder has: a fetch under way, the words of the line, or the error of its fetch (R116, R198). -/
inductive LineState where
  | fetching
  | held (ws : List Word)
  | error
deriving DecidableEq, Repr

/-- A context's line holder (R117, R196): the 32-byte line address in D-space, whether LDTRY asked for it, what is held, and the context's own stores to
the line since the fetch began, oldest first, each with its address and size (R81). -/
structure Line where
  addr : Word
  ltry : Bool
  st : LineState
  own : List (Nat × Nat × Word) := []
deriving DecidableEq, Repr

/-- A bank that a context has locked: local, or the twin's (R120). -/
structure Bank where
  twin : Bool
  n : Nat
deriving DecidableEq, Repr

/-- A takeable record of the Cauldron (Table 9.5), its RESULT, and the GO word and account of its op; `tag` is the tag that is in flight until the
record is taken, none once a reset of D_4 has freed it (R223, R235). -/
structure CxRec where
  word : Word
  result : Word
  tag : Option Nat
  go : Word
  acct : BitVec 6
deriving DecidableEq, Repr

/-- One hardware context. Context number 4 * core + t (R250); S is 64 to 67. `entered` marks a handler whose first instruction has not
issued (R163); `stopDue` marks a job whose context a CORE_STOP halts (R309); `job` is the job in progress: its ring, CMD_ID and the
address of its job block (R298). -/
structure Ctx where
  st : CtxState := .halted
  pc : BitVec 24 := 0
  ds : List Word := []
  rs : List Word := []
  dspBase : BitVec 16 := 0
  dspLimit : BitVec 16 := 0
  dspPtr : BitVec 16 := 0
  rspBase : BitVec 16 := 0
  rspLimit : BitVec 16 := 0
  rspPtr : BitVec 16 := 0
  cf : Bool := false
  vf : Bool := false
  ie : Bool := false
  inh : Bool := false
  pri : BitVec 2 := 0
  ibank : BitVec 8 := 0
  dbank : BitVec 20 := 0
  cycles : Word := 0
  acct : BitVec 6 := 0
  vecBase : BitVec 16 := 0
  trapCause : BitVec 8 := 0
  trapArg : BitVec 8 := 0
  trapAddr : Word := 0
  trapPc : BitVec 24 := 0
  entryCyc : BitVec 8 := 0
  entered : Bool := false
  evPend : Word := 0
  evDup : BitVec 16 := 0
  evWmask : Word := 0
  tmrLeft : Word := 0
  tmrArmed : Bool := false
  tmrEv : BitVec 5 := 0
  lands : List Land := []
  nextLand : Nat := 0
  snaps : List Snap := []
  trap : Option TrapReq := none
  long : Option LongOp := none
  longExit : Bool := false
  mid : Option Mid := none
  ufin : Option UFin := none
  t0 : Word := 0
  t1 : Word := 0
  hold : Option Bank := none
  brk : Option Bank := none
  line : Option Line := none
  cxArg0 : Word := 0
  cxArg1 : Word := 0
  cxArg2 : Word := 0
  cxArg3 : Word := 0
  cxIssue : Word := 0
  cxResult : Word := 0
  recs : List CxRec := []
  parkDue : Bool := false
  haltDue : Bool := false
  haltFor : Option Nat := none
  stopDue : Bool := false
  job : Option (Nat × BitVec 16 × Nat) := none
  fbuf : Bool := false
deriving DecidableEq, Repr

/-! ## Cores (chapters 3, 5, 6, 7, 20) -/

/-- A posted store in a core's store buffer (R111, R135): the storing context, and where it goes. -/
inductive StoreOp where
  | mem (addr : Word) (size : Nat) (w : Word)
  | port (p : BitVec 16) (w : Word)
deriving DecidableEq, Repr

/-- An entry of a store buffer (R111): the context that stored, and what it stores. -/
structure StoreEnt where
  c : Nat
  op : StoreOp
deriving DecidableEq, Repr

/-- A D-cache line: its D-space line address and its eight words (R77, R78). -/
structure DLine where
  addr : Nat
  ws : List Word
deriving DecidableEq, Repr

/-- An I-cache line: its I-space line address and the IBANK it was filled under, 0 for the shared-SRAM window (R130). -/
structure ILine where
  addr : Nat
  ibank : Nat
  ws : List Word
deriving DecidableEq, Repr

/-- A trail entry (Table 20.6) and its bad mark (R520). -/
structure TrailEnt where
  w0 : Word
  w1 : Word
  bad : Bool
deriving DecidableEq, Repr

/-- A core: the Spindle stores list what has been written since power-on; an unlisted entry is the mask-ROM default in a vendor region
and 0 in a user region (R182). -/
structure Core where
  det : Bool := false
  icEn : Bool := true
  dcEn : Bool := true
  bpEn : Bool := true
  fuseEn : Bool := true
  dcRegion : BitVec 16 := 0
  icMiss : Word := 0
  dcMiss : Word := 0
  bpMiss : Word := 0
  pred : Table (Option (BitVec 2)) := []
  icache : List ILine := []
  dcache : List DLine := []
  sbuf : List StoreEnt := []
  pend : BitVec 16 := 0
  en : BitVec 16 := 0
  ovr : BitVec 16 := 0
  lpri : Word := 0
  route : Word := 0
  svDb : Word := 0
  code : Table Byte := []
  dlocal : Table Byte := []
  dispatch : Table (BitVec 24) := []
  micro : Table (BitVec 24) := []
  nano : Table (BitVec 96) := []
  storesValid : Bool := false
  uimageId : BitVec 16 := 0
  warned : List Nat := []
  trail : List TrailEnt := []
  bcSel : BitVec 5 := 0
  bcIndex : BitVec 13 := 0
  drawn : Option Nat := none
deriving DecidableEq, Repr

/-! ## Clock domains and crossings (chapter 2) -/

/-- Run states (Table 2.2), encoded as STATE_REQ. -/
inductive RunState where
  | run
  | gated
  | stopped
  | off
deriving DecidableEq, Repr

/-- A value that waits in a crossing's dual-clock queue (R41): a supervisor doorbell word (R153), the arming of a timer (R141) or a received sample
(R213). -/
inductive XItem where
  | svdb (core : Nat) (w : Word)
  | timerArm (c : Nat) (n : Word) (ev : BitVec 5)
  | rxSample (port : Nat) (w : Word)
deriving DecidableEq, Repr

/-- What one event channel of a crossing carries (R44): events on an interrupt line of a core, or posts of a flag from one source to a
context (R237); `send` marks the posts of SEND and of woodcutters (R46). -/
inductive XEvent where
  | line (core l : Nat)
  | post (src : Option Nat) (dst : Nat) (flag : BitVec 5) (send : Bool)
deriving DecidableEq, Repr

/-- An event channel (R44, R45): the sender's counter, the value that the receiver has consumed last and returned, and the events that
the sender holds at its own side. -/
structure EvChan where
  ev : XEvent
  sent : BitVec 8 := 0
  taken : BitVec 8 := 0
  held : Nat := 0
deriving DecidableEq, Repr

/-- One direction of a crossing: its queue, oldest first, and its event channels; a channel that is not listed has counters of 0. -/
structure XDir where
  items : List XItem := []
  chans : List EvChan := []
deriving DecidableEq, Repr

/-- A crossing (R40): `toD2` leads towards D_2, and for crossing 0 towards D_1 (Table 2.9). -/
structure Xing where
  up : Bool := false
  toD2 : XDir := {}
  fromD2 : XDir := {}
deriving DecidableEq, Repr

/-- A clock domain (R24): the fields of ISL_CTL (Table 2.5) and ISL_STAT (Table 2.6), a FLOOR_MHZ that waits for the turn boundary (R261), and what the
clock policy and the lock loop keep (R29, R34, R35, R518). -/
structure Dom where
  codeCap : BitVec 6 := 63
  refLock : Bool := false
  lockMhz : BitVec 9 := 100
  floorMhz : BitVec 9 := 100
  floorNext : Option (BitVec 9) := none
  stateReq : RunState := .stopped
  code : BitVec 6 := 0
  locked : Bool := false
  lockLost : Bool := false
  state : RunState := .stopped
  atFloor : Bool := false
  autoGated : Bool := false
  freqMhz : BitVec 9 := 0
  trim : Int := 0
  agePpm : Int := 0
  goodWins : Nat := 0
  floorBad : Bool := false
  feFast : Bool := false
  clockOn : Bool := false
  inRst : Bool := false
deriving DecidableEq, Repr

/-- The clock policy, the crossings and the registers of Tables 2.7 to 2.9. -/
structure Clk where
  doms : Table Dom := []
  xings : Table Xing := []
  capMw : BitVec 16 := 0
  policyEn : Bool := true
  capUnmet : Bool := false
  capSeen : Bool := false
  thermal : Bool := false
  cfgRefused : Bool := false
  calDefaults : Bool := false
  floorUnmet : Bool := false
  refUnlock : Bool := false
  estMw : BitVec 16 := 0
  temps : Table (BitVec 16) := []
  xingSel : BitVec 6 := 0
  itemsDisc : BitVec 16 := 0
  eventsDisc : BitVec 16 := 0
  pllLocked : Bool := false
  policyOn : Bool := false
  x3Timer : Option Nat := none
  x3Err : Bool := false
deriving DecidableEq, Repr

/-! ## Fabric and bridges (chapter 8) -/

/-- The check bits of a shared-SRAM word: one bit wrong, or uncorrectable and whether that has been logged (R191, R192, R479). -/
inductive Ecc where
  | single
  | bad (logged : Option (BitVec 16))
deriving DecidableEq, Repr

/-- Who holds a bank (R120, R205). -/
inductive Holder where
  | ctx (c : Nat)
  | twin (tag : BitVec 16)
deriving DecidableEq, Repr

/-- Who asked for a host-bridge tag (R197): a context's line or atomic, a descriptor read of a ring from a slot on, or a segment that the DMA
engine reads for a command; a count of 0 is the read of one entry that a takeover runs again (R341). -/
inductive TagUse where
  | line (c : Nat) (host : Nat) (d : Word)
  | atomic (c : Nat) (host : Nat)
  | desc (ring : Nat) (idx cnt : Nat)
  | dma (ring : Nat) (cmd : BitVec 16) (host : Nat)
deriving DecidableEq, Repr

/-- A request that waits for a tag (R197): a context's line or atomic at a D-space address, or the DMA engine's next read for a command. -/
inductive HbWaiter where
  | core (c : Nat) (d : Word)
  | dma (ring : Nat) (cmd : BitVec 16)
deriving DecidableEq, Repr

/-- An outstanding tag; `dead` once its request has ended in error (R198); `log` the entry it carries (R470). -/
structure HbTag where
  use : TagUse
  sharers : List (Nat × Word)
  dead : Bool
  log : Option (BitVec 16)
deriving DecidableEq, Repr

/-- A twin-window request awaiting its reply (R205, R206). -/
inductive TwinUse where
  | line (c : Nat) (d : Word)
  | atomic (c : Nat) (addr : Word) (op : Atomic)
  | store (c : Nat) (addr : Word) (size : Nat) (w : Word)
  | lock (c : Nat) (bank : Nat)
  | unlock (c : Nat) (bank : Nat)
deriving DecidableEq, Repr

/-- A request to the twin that has no answer yet (R205, R206): its tag, what it is for, whether it answers a refusal (R208), and the log entry of its
failure. -/
structure TwinReq where
  tag : BitVec 16
  use : TwinUse
  retry : Bool
  log : Option (BitVec 16)
deriving DecidableEq, Repr

/-- A mailbox (R211): its words, oldest first, and the count of words lost (Table 8.5). -/
structure Mailbox where
  ws : List Word := []
  lost : BitVec 8 := 0
deriving DecidableEq, Repr

/-- Buffer registers, control balls and SPI of one front-end port (Tables 8.6 and 21.7). -/
structure Fe where
  rxEn : Bool := false
  rxNotify : BitVec 16 := 0
  rxBase : Word := 0
  rxLog2 : BitVec 5 := 10
  rxWr : BitVec 20 := 0
  rxRd : BitVec 20 := 0
  rxThresh : BitVec 20 := 0
  overrun : BitVec 16 := 0
  stalled : Bool := true
  txEn : Bool := false
  txNotify : BitVec 16 := 0
  txBase : Word := 0
  txLog2 : BitVec 5 := 10
  txRd : BitVec 20 := 0
  txWr : BitVec 20 := 0
  txThresh : BitVec 20 := 0
  underrun : BitVec 16 := 0
  sentSamples : List Word := []
  paReq : Bool := false
  lna : BitVec 2 := 0
  irqLevel : Bool := false
  irqSeen : Bool := false
  frameErrs : BitVec 8 := 0
  spiLen : BitVec 6 := 8
  spiBusy : Bool := false
  spiDiv : BitVec 8 := 4
  spiData : Word := 0
  spiSent : List (Nat × Word) := []
deriving DecidableEq, Repr

/-- The fabric (chapter 8): shared SRAM with its check bits and bank locks, the host bridge with its tags, the twin bridge, the side-band wires, the
scrubber, the mailboxes and the front-end ports. -/
structure Fab where
  sram : List Host.Cell := []
  ecc : Table (Option Ecc) := []
  banks : Table (Option Holder) := []
  lockWait : List Nat := []
  tags : Table (Option HbTag) := []
  hbWait : List HbWaiter := []
  hbErr : BitVec 16 := 0
  hbErrCnt : BitVec 16 := 0
  hbErrAddr : BitVec 64 := 0
  treqs : List TwinReq := []
  twinHold : List TwinUse := []
  twinBroken : List Nat := []
  twinLocks : List (BitVec 16 × Nat) := []
  nextTag : BitVec 16 := 0
  tbErr : BitVec 16 := 0
  tbErrCnt : BitVec 16 := 0
  tbErrAddr : Word := 0
  twSbOut : BitVec 16 := 0
  twSbIn : BitVec 16 := 0
  sbStale : Bool := false
  irqOut : Table Byte := []
  irqSeen : Table Byte := []
  twIrqPend : BitVec 8 := 0
  corr : BitVec 16 := 0
  uncorr : BitVec 16 := 0
  scrubEn : Bool := true
  scrubAt : Table Nat := []
  mboxes : Table Mailbox := []
  hostFails : Table (BitVec 16) := []
  twinFails : Table (BitVec 16) := []
  fes : Table Fe := []
deriving DecidableEq, Repr

/-! ## The Cauldron (chapter 9) -/

structure Acc where
  re : BitVec 48 := 0
  im : BitVec 48 := 0
  preRe : BitVec 48 := 0
  preIm : BitVec 48 := 0
  gw : Bool := false
  ovg : Bool := false
  frozen : Bool := false
deriving DecidableEq, Repr

/-- An accepted op (R220, R223): its tag, context, GO word and arguments, its account, and how far it has run; `gw` and `ovg` are the flags of its
accumulator when it had acted (Table 9.5). -/
structure CxOp where
  tag : Nat
  c : Nat
  go : Word
  arg0 : Word
  arg1 : Word
  arg2 : Word
  arg3 : Word
  acct : BitVec 6
  started : Bool
  done : Bool
  status : BitVec 4
  index : BitVec 16
  result : Word
  cyc : Nat
  cancelled : Bool
  gw : Bool
  ovg : Bool
deriving DecidableEq, Repr

/-- A reserved lane of the Cauldron (R224): its core, and whether it is enabled. -/
structure Lane where
  core : BitVec 4 := 0
  en : Bool := false
deriving DecidableEq, Repr

/-- The Cauldron (chapter 9): its accumulators, its accepted ops, oldest first, its lanes and its counters. -/
structure Cx where
  accs : Table Acc := []
  ops : List CxOp := []
  lane0 : Lane := {}
  lane1 : Lane := {}
  laneRefused : Bool := false
  removed : BitVec 16 := 0
  discarded : BitVec 16 := 0
deriving DecidableEq, Repr

/-! ## The Thornhedge (chapter 10) -/

structure Group where
  en : Bool := false
  wood : Bool := false
  supv : Bool := false
  wcore : BitVec 5 := 0
  wctx : BitVec 2 := 0
  cfgErr : Bool := false
  intrude : Bool := false
  mem0 : Word := 0
  mem1 : Word := 0
  mem2 : BitVec 4 := 0
  internal : Word := 0
  settled : Bool := false
  fired : Bool := false
  fires : BitVec 8 := 0
  snap : List Word := []
deriving DecidableEq, Repr

/-- The Thornhedge (chapter 10): its wait groups and its common registers. -/
structure Thorn where
  groups : Table Group := []
  settle : BitVec 16 := 1024
  snapSel : BitVec 3 := 0
  snapIdx : BitVec 8 := 0
deriving DecidableEq, Repr

/-! ## The Miller (chapter 11) -/

/-- One value for each of the four resources: core, Cauldron, DMA, twin (R252). -/
structure Quad where
  core : Nat := 0
  cx : Nat := 0
  dma : Nat := 0
  twin : Nat := 0
deriving DecidableEq, Repr

/-- What ACCOUNT_SET has accepted for the next turn boundary (R261). -/
structure AcctNext where
  ctl : Option Word := none
  g : List (Option Nat) := []
  limits : Option Word := none
deriving DecidableEq, Repr

/-- What the Miller records of a turn (R263): per resource, starved and charged. -/
structure TurnRec where
  starved : List Bool
  charged : List Nat
deriving DecidableEq, Repr

/-- A Miller account: its settings, its meters and slack, and what a turn records (Tables 11.3 and 11.4, R263). -/
structure Acct where
  adapt : Bool := true
  lend : Bool := true
  borrowW : BitVec 4 := 1
  warnPct : BitVec 7 := 0
  guar : Quad := {}
  floorPct : BitVec 8 := 100
  ceilPct : BitVec 8 := 100
  eff : Quad := {}
  coreMeters : Table Int := []
  cxMeter : Int := 0
  dmaMeter : Int := 0
  twinMeter : Int := 0
  coreSlack : Table Nat := []
  cxSlack : Nat := 0
  dmaSlack : Nat := 0
  twinSlack : Nat := 0
  overrun : BitVec 8 := 0
  parks : BitVec 16 := 0
  parkedNow : Bool := false
  starvedNow : List Nat := []
  chargedCore : Table Nat := []
  chargedCx : Nat := 0
  chargedDma : Nat := 0
  chargedTwin : Nat := 0
  history : List TurnRec := []
  restLeft : List Nat := []
  streamBytes : Word := 0
  next : Option AcctNext := none
deriving DecidableEq, Repr

/-- The Miller (chapter 11): the accounts, the turn and its staged changes, and the registers that select. -/
structure Mill where
  accts : Table Acct := []
  turnUs : BitVec 14 := 1000
  adaptEn : Bool := true
  turnNext : Option (BitVec 14 × Bool) := none
  shiftNext : List (Nat × Nat × Nat × Nat) := []
  admitRefused : Bool := false
  shifts : BitVec 8 := 0
  turn : BitVec 16 := 0
  turns : Nat := 0
  sel : BitVec 5 := 3
  bindA : BitVec 6 := 1
  bindB : BitVec 6 := 1
  bindNext : Option Word := none
  turnPos : Nat := 0
  midDone : Bool := false
deriving DecidableEq, Repr

/-! ## The host port (chapters 12 and 13) -/

/-- What the host bridge has put on the link, in order (R200, R292). A write's data are its words, least address first; a store has 1, 2 or 4
bytes; `ns` is the No Snoop attribute, which the window's NS sets (Table 8.3). -/
inductive Tlp where
  | write (addr : Nat) (ws : List Word) (ns : Bool := false)
  | store (addr : Nat) (size : Nat) (w : Word) (ns : Bool := false)
  | read (tag addr bytes : Nat) (ns : Bool := false)
  | atomic (tag addr : Nat) (op : Atomic) (ns : Bool := false)
  | msix (vector : Nat) (addr : Nat) (data : Word)
deriving DecidableEq, Repr

/-- Ring states (Table 12.6). -/
inductive RingState where
  | absent
  | active
  | stopped
  | failed
deriving DecidableEq, Repr

/-- A fetched entry: its sixteen words, its slot and the epoch it was fetched in (R285, R287); `rerun` marks a command that a
takeover runs again (R341). -/
structure SqEnt where
  ws : List Word
  slot : Nat
  epoch : BitVec 8
  rerun : Bool
deriving DecidableEq, Repr

/-- A command started and not completed. -/
structure Started where
  cmd : BitVec 16
  ent : SqEnt
  log : Option (BitVec 16)
deriving DecidableEq, Repr

/-- A completion entry that cannot be written now (R474); `place` is the slot and the words of one whose record the standby has. -/
structure HeldCpl where
  place : Option (Nat × List Word)
  cmd : BitVec 16
  status : BitVec 16
  r0 : Word
  r1 : Word
  epoch : BitVec 8
  noint : Bool
deriving DecidableEq, Repr

/-- A host ring: its settings (R283, Table 12.5), its indexes, and its commands from the fetch to the completion (R287 to R294);
`late` are entries of a takeover that wait for CQ_HEAD (R282, R341). -/
structure Ring where
  st : RingState := .absent
  log2n : Nat := 4
  order : Bool := false
  maxout : Nat := 1
  sqBase : Nat := 0
  cqBase : Nat := 0
  acct : BitVec 6 := 0
  vector : BitVec 8 := 0
  coalN : Nat := 1
  coalUs : Nat := 0
  tmoMs : Nat := 1000
  epoch : BitVec 8 := 0
  sqHead : Nat := 0
  sqTail : Nat := 0
  cqHead : Nat := 0
  cqTail : Nat := 0
  phase : Bool := true
  fetched : List SqEnt := []
  started : List Started := []
  latchSq : Option Nat := none
  latchCq : Option Nat := none
  latched : Bool := false
  held : List HeldCpl := []
  late : List HeldCpl := []
  unsig : Nat := 0
  resetting : Bool := false
  fenced : Option Nat := none
  fencePut : Bool := false
  reruns : List Nat := []
deriving DecidableEq, Repr

/-- A completion record waiting for the standby's acknowledgement (R343): ring, slot, entry, the sequence number of its packet, and the FENCE flag
of its command (R291). -/
structure WahRec where
  ring : Nat
  slot : Nat
  ws : List Word
  seq : BitVec 12
  status : BitVec 16
  noint : Bool
  fence : Bool
  atUs : Nat
deriving DecidableEq, Repr

/-- A DMA transfer of a data-movement command (R301, R201): `ns` is its window's attribute, `tag` the tag and the bytes of the read under way. -/
structure Dma where
  ring : Nat
  cmd : BitVec 16
  kind : BitVec 2
  host : Nat
  sram : Nat
  len : Nat
  moved : Nat
  fill : Word
  ns : Bool
  tag : Option (Nat × Nat)
deriving DecidableEq, Repr

/-- A job entry point (Table 19.5, ENTRY). -/
structure EntryPt where
  start : BitVec 24
  dspBase : BitVec 16
  dspLimit : BitVec 16
  rspBase : BitVec 16
  rspLimit : BitVec 16
  vecBase : BitVec 16
  jobBlk : Word
deriving DecidableEq, Repr

/-- A vector of the MSI-X table (R278). -/
structure MsixVec where
  addr : Nat := 0
  data : Word := 0
  mask : Bool := true
deriving DecidableEq, Repr

/-- The host port: configuration space, BAR 0 and the rings (chapter 12), and the admin services with the resync (chapter 13). -/
structure HostP where
  linkUp : Bool := false
  busMaster : Bool := false
  extTag : Bool := false
  atomicEn : Bool := false
  mps : Nat := 128
  mrrs : Nat := 512
  cplTimeoutUs : Nat := 50000
  d3hot : Bool := false
  msixEn : Bool := false
  msixMask : Bool := false
  resyncLo : Word := 0
  resyncHi : Word := 0
  adminSqLo : Word := 0
  adminSqHi : Word := 0
  adminCqLo : Word := 0
  adminCqHi : Word := 0
  adminLog2 : BitVec 4 := 4
  adminEn : Bool := false
  tmoMs : BitVec 16 := 1000
  admCfgErr : Bool := false
  evLost : Bool := false
  msix : Table MsixVec := []
  pba : BitVec 64 := 0
  rings : Table Ring := []
  unsol : List (BitVec 16 × Word × Word) := []
  fatal : Bool := false
  fatalCode : BitVec 16 := 0
  resyncBusy : Bool := false
  resyncSeq : BitVec 16 := 0
  resyncAddr : Nat := 0
  resyncSrc : Nat := 0
  resyncUs : Nat := 0
  captured : Bool := false
  sent : List Tlp := []
  rfePos : Nat := 0
  dmas : List Dma := []
  jobs : List (Nat × BitVec 16) := []
  entries : Table (Option EntryPt) := []
  sessionCores : BitVec 16 := 0x00FF
  vendorVer : Word := 0
  customerVer : Word := 0
  ledger : Option (Nat × Nat × Nat) := none
  calPosted : Bool := false
deriving DecidableEq, Repr

/-! ## The twin (chapter 14) -/

/-- Twin states (Table 14.3). -/
inductive TwinState where
  | alone
  | claiming
  | primary
  | standby
  | catchup
  | conflict
  | taking
deriving DecidableEq, Repr

/-- A packet sent on Twinlink, by its TYPE (Table 14.2): whether it is sequenced, its sequence number and tag, and its payload. -/
structure Pkt where
  type : BitVec 8
  rel : Bool
  seq : BitVec 12
  tag : BitVec 16
  ws : List Word
  srec : Option ShadowRec
deriving DecidableEq, Repr

/-- What a standby keeps of the primary (R343, R350). -/
structure Shadow where
  cpls : List (Nat × Nat × List Word) := []
  started : List (Nat × Nat × BitVec 16 × Bool) := []
  cores : List (List Word) := []
  pass : Option (List Word × Bool × Nat) := none
deriving DecidableEq, Repr

/-- The twin's link, roles and shadow (chapter 14). `localOnly` marks a claim entered from STANDBY or CATCHUP, whose RING_0 serves local commands only
(Table 14.3), and `takeoverDue` the results of a TAKEOVER that waits for the entries before it. -/
structure Twin where
  st : TwinState := .alone
  lanesUp : Bool := false
  detached : Bool := false
  hbLost : Bool := false
  permit : Bool := false
  witFe : Bool := false
  relinq : Option (BitVec 16) := none
  gen : BitVec 16 := 0
  peerGen : BitVec 16 := 0
  rand : BitVec 16 := 0
  incumbent : Bool := false
  theirs : Option Claim := none
  peerSerial : BitVec 64 := 0
  peerSt : BitVec 3 := 0
  hbCount : Word := 0
  settling : Bool := false
  replays : BitVec 8 := 0
  crcErrs : BitVec 8 := 0
  downs : BitVec 8 := 0
  maxUs : BitVec 16 := 0
  wah : List WahRec := []
  feOwn : Bool := false
  senseA : Bool := false
  senseB : Bool := false
  collision : Bool := false
  backoff : Option Nat := none
  txSeq : BitVec 12 := 0
  rxSeq : BitVec 12 := 0xFFF
  unackedRx : Nat := 0
  wasDetached : Bool := false
  replayBuf : List Pkt := []
  heldPkts : List Pkt := []
  recentReplays : List Nat := []
  snapping : Bool := false
  stoodDown : Bool := false
  localOnly : Bool := false
  takeoverDue : Option (Word × Word) := none
  snapIn : Option (Nat × Nat × List ShadowRec) := none
  snapQueue : List ShadowRec := []
  attaching : Bool := false
  shadow : Shadow := {}
  rerun : Nat := 0
  aborted : Nat := 0
  tsent : List Pkt := []
deriving DecidableEq, Repr

/-! ## Protection (chapter 15) -/

/-- A host window table entry (Table 8.3). -/
structure Win where
  hbase : Nat := 0
  size : Nat := 12
  v : Bool := false
  rd : Bool := false
  wr : Bool := false
  ex : Bool := false
  at_ : Bool := false
  cc : Bool := false
  ns : Bool := false
deriving DecidableEq, Repr

/-- A core's rights (Table 15.1). -/
structure CoreRights where
  win : List Nat := []
  io : BitVec 7 := 0x7F
  cx : Bool := true
  lock : Bool := true
  mcw : Bool := true
deriving DecidableEq, Repr

/-- A ring's rights (Table 15.1). -/
structure RingRights where
  acct : BitVec 6 := 0
  acctAny : Bool := true
  cores : BitVec 16 := 0xFFFF
  win : List Nat := []
deriving DecidableEq, Repr

/-- The protection map (R354); the default map lists nothing (R357). -/
structure PMap where
  wins : Table Win := []
  cores : Table CoreRights := []
  rings : Table RingRights := []
deriving DecidableEq, Repr

/-- The pending proposal (R363): its number, digest, resulting map, which parties have signed, and when it completed. -/
structure Proposal where
  p : BitVec 64
  digest : List Word
  map : PMap
  h : Bool
  f : Bool
  atUs : Nat
deriving DecidableEq, Repr

/-- Where the answer to a consent goes: a PROTECT_CONSENT on RING_0, the service port with its frame's SEQ, or the twin (R365, R370). -/
inductive ConsentPath where
  | ring (cmd : BitVec 16)
  | service (seq : Byte)
  | twin
deriving DecidableEq, Repr

/-- What a primary waits for from its standby (R370): the answer to ANNOUNCE for a PROTECT_PROPOSE with its change set's address and length,
or the answer to a SIGN. -/
inductive ProtWait where
  | announce (cmd : BitVec 16) (prop : Proposal) (addr len : Nat) (again : Bool)
  | sign (path : ConsentPath) (party : Byte)
deriving DecidableEq, Repr

/-- A swap under way (R366, R370): the map and epoch, the proposal, where SUCCESS goes, and whether the store already has it. -/
structure Swap where
  epoch : BitVec 64
  map : PMap
  p : BitVec 64
  digest : List Word
  path : ConsentPath
  written : Bool
deriving DecidableEq, Repr

/-- The protection map in force, the map store, the pending proposal and the keys (chapter 15). -/
structure Prot where
  map : PMap := {}
  epoch : BitVec 64 := 0
  isDefault : Bool := true
  mismatch : Bool := false
  store0 : Option (BitVec 64 × PMap) := none
  store1 : Option (BitVec 64 × PMap) := none
  nextStore : Bool := false
  pNum : BitVec 64 := 0
  pCount : Nat := 0
  pend : Option Proposal := none
  wait : Option ProtWait := none
  swap : Option Swap := none
  peerEpoch : BitVec 64 := 0
  fails : Nat := 0
  lockout : Option Nat := none
  keyH : Option (List Word) := none
  keyF : Option (List Word) := none
  keyI : Option (List Word) := none
deriving DecidableEq, Repr

/-! ## Air protocol and Planner (chapters 16 and 17) -/

/-- Coexistence states (Table 16.9). -/
inductive Coex where
  | alone
  | contend
  | sharing
deriving DecidableEq, Repr

/-- One channel's coexistence (R398, R401): the foreign readers heard, each with when it was heard last and whether its last beacon shows PPS locked;
who has asked for the next second, who holds this second and the next, and whether a cold wake waits for a long second. -/
structure Chan where
  coex : Coex := .alone
  foreign : List (BitVec 16 × Nat × Bool) := []
  ownAsked : Bool := false
  peerAsked : Bool := false
  ownLong : Bool := false
  peerLong : Bool := false
  ownNext : Bool := false
  peerNext : Bool := false
  coldWanted : Bool := false
deriving DecidableEq, Repr

/-- What a transmission carries: a wake's lead-in in µs and its wake word, or the bytes of a frame from Length to CRC. -/
inductive AirItem where
  | wake (leadUs : Nat) (w : Word)
  | ack (bytes : List Byte)
  | beacon (bytes : List Byte)
deriving DecidableEq, Repr

/-- A transmission on air (R376, R381, R386): its channel, port, start, power in half dBm, carrier amplitude and content. -/
structure AirTx where
  ch : Nat
  port : Nat
  startUs : Nat
  power : Int
  amplitude : Nat
  item : AirItem
deriving DecidableEq, Repr

/-- A reply accepted in an exchange: the stake's place among those addressed, the frame from Length to CRC, SNR in dB, and when its
first preamble bit came. -/
structure Reply where
  who : Nat
  bytes : List Byte
  snr : Int
  atUs : Nat
deriving DecidableEq, Repr

/-- A stake's exchange (R392, R397, R422): the stakes it addresses (record index and record words), wake kind 0 targeted, 1
cold, 2 GROUP, 3 DISCOVER, power in half dBm, channel, when its lead-in starts, the reader time in µs of its wake end, and what it has
yielded; `enrolled` names the places whose ACK carried ENROLL, and `ackUs` is the air time in µs of the ACKs already sent. -/
structure Exch where
  idxs : List Nat
  recs : List (List Word)
  kind : Nat
  power : Int
  ch : Nat
  port : Nat
  startUs : Nat
  endTime : Nat
  onAir : Bool
  replies : List Reply
  ackDue : Option Reply
  enrolled : List Nat
  ended : List Nat
  ackUs : Nat := 0
deriving DecidableEq, Repr

/-- Reader time as a day and a ms of it (R409). -/
structure RTime where
  day : Nat
  ms : Nat
deriving DecidableEq, Repr

/-- The pass, its parameters and what the Planner keeps (chapter 17). Positions and times carry the µs at which they held; `slot` is the next reading
slot, `rdgCount` the slots written and not freed, and `held` the reading records that wait for a free slot; `reread` and `torn` are the records not
whole at a first and at a second reading; `txLog` holds each transmission's centre in kHz, start and duration in µs. -/
structure Pass where
  isOpen : Bool := false
  ending : Bool := false
  ring : Nat := 0
  cmd : BitVec 16 := 0
  dws : List Word := []
  port : Nat := 0
  beginUs : Nat := 0
  posHost : Option (Int × Int × Nat) := none
  posGnss : Option (Int × Int × Nat) := none
  speed : Nat := 0
  heading : BitVec 16 := 0
  hostTime : Option (RTime × Nat) := none
  gnssTime : Option (RTime × Nat) := none
  exchs : List Exch := []
  cands : List Nat := []
  skipped : List Nat := []
  full : Bool := false
  slot : Nat := 0
  slots : Nat := 0
  phase : Bool := true
  rdgHead : Nat := 0
  rdgCount : Nat := 0
  held : List (List Word) := []
  discNo : Nat := 0
  travelMm : Nat := 0
  stats : Table Word := []
  chans : Table Chan := []
  recorded : List (Word × Byte) := []
  unanswered : List Nat := []
  reread : List Nat := []
  torn : List Nat := []
  txLog : List (Nat × Nat × Nat) := []
  air : List AirTx := []
deriving DecidableEq, Repr

/-! ## The Hearth and the watchdog (chapter 18) -/

structure Hearth where
  rtc : BitVec 48 := 0
  rtcValid : Bool := false
  rtcSub : Nat := 0
  trimCnt : Nat := 0
  hrtHi : BitVec 16 := 0
  setHi : BitVec 16 := 0
  onVbat : Bool := false
  switched : Bool := false
  early : Bool := false
  vbatLow : Bool := false
  xtalFail : Bool := false
  xtalStopped : Bool := false
  lastSlot : Bool := false
  hstate : BitVec 2 := 0
  vbatMv : BitVec 12 := 0
  trim : BitVec 16 := 0
  lossLatch : Bool := true
  hjAddr : BitVec 11 := 0
  journal : List Host.Cell := []
  jnlDue : List (BitVec 8) := []
  jnlRest : List Word := []
  jnlAt : Nat := 0
  jnlNext : Bool := false
  setDue : Bool := false
  setLo : Word := 0
  wakeAt : BitVec 48 := 0
  wakeEn : Bool := false
  wakeLow : Bool := false
  wdtMs : BitVec 16 := 1000
  wdtEn : Bool := false
  wdtWarn : Bool := false
  wdtHalf : Bool := false
  wdtUs : Nat := 0
  resetCause : BitVec 8 := 1
  wdtResets : BitVec 8 := 0
deriving DecidableEq, Repr

/-! ## Bring-up (chapter 19) -/

/-- The trims of the calibration page that act outside the oscillators and the sensors (R462, R464): the front-end delay taps, the presets of the
Twinlink lanes, and the monitor trims in mV; the values here are the defaults of R465. -/
structure Trims where
  taps : List (BitVec 5) := List.replicate 16 16
  laneTx : List Byte := List.replicate 4 0x48
  laneRx : List Byte := List.replicate 4 0x08
  monitors : List (BitVec 8) := List.replicate 7 0
deriving DecidableEq, Repr

/-- The device reset and the bring-up (chapters 18 and 19): straps, phase, and what the image and the calibration page gave. -/
structure Boot where
  straps : Straps := ⟨0, 0, false, false⟩
  inReset : Bool := true
  porPending : Bool := true
  phase : BitVec 4 := 0
  ready : Bool := false
  bootFail : Bool := false
  slot : BitVec 2 := 0
  elapsedUs : Nat := 0
  bringUps : BitVec 16 := 0
  calPage : Option (List Word) := none
  calLive : Option (List Word) := none
  calValid : Bool := false
  calBad : Bool := false
  trims : Trims := {}
  eraseCount : Nat := 0
  image : List Word := []
  custKey : Bool := false
  flashed : List (Nat × List Word) := []
deriving DecidableEq, Repr

/-! ## Faults (chapter 20) -/

/-- A fabric error log entry (Table 20.2): its eight words and its bad mark (R520). -/
structure LogEnt where
  ws : List Word
  bad : Bool
deriving DecidableEq, Repr

/-- The fabric error log (R469, R482). -/
structure Faults where
  log : List LogEnt := []
  seq : BitVec 16 := 0
  frozen : Bool := false
  lostLog : BitVec 8 := 0
deriving DecidableEq, Repr

/-! ## Utility interfaces (chapter 21) -/

structure Uart where
  rx : List Byte := []
  tx : List Byte := []
  sentBytes : List Byte := []
  div : BitVec 16 := 53
  overrun : Bool := false
  framing : Bool := false
deriving DecidableEq, Repr

/-- The CAN FD controller (R497). -/
structure Can where
  en : Bool := false
  fdEn : Bool := false
  listen : Bool := false
  loop : Bool := false
  nbt : Word := 0
  dbt : Word := 0
  txHdr : Word := 0
  txDlc : BitVec 4 := 0
  busy : Bool := false
  txData : Table Word := []
  rx : List CanFrame := []
  sentFrames : List CanFrame := []
  txErr : Nat := 0
  rxErr : Nat := 0
  busOff : Bool := false
  rxLost : Bool := false
  irq : BitVec 4 := 0
  irqEn : BitVec 4 := 0
deriving DecidableEq, Repr

/-- States of the IEEE 1149.1 controller (R502). -/
inductive TapState where
  | testLogicReset
  | runTestIdle
  | selectDr
  | captureDr
  | shiftDr
  | exit1Dr
  | pauseDr
  | exit2Dr
  | updateDr
  | selectIr
  | captureIr
  | shiftIr
  | exit1Ir
  | pauseIr
  | exit2Ir
  | updateIr
deriving DecidableEq, Repr

/-- TAP instructions (R502). -/
inductive TapInstr where
  | bypass
  | sample
  | extest
  | idcode
deriving DecidableEq, Repr

/-- The test access port (R502). -/
structure Tap where
  st : TapState := .testLogicReset
  instr : TapInstr := .idcode
  ir : List Bool := []
  dr : List Bool := []
  cells : List Bool := []
  tdo : Bool := false
deriving DecidableEq, Repr

/-- The utility interfaces (Table 21.7). -/
structure Util where
  gnss : Uart := { div := 650 }
  svc : Uart := {}
  ppsTime : Word := 0
  edges : BitVec 16 := 0
  present : Bool := false
  d1Now : Word := 0
  gpioDir : BitVec 16 := 0
  gpioOut : BitVec 16 := 0
  gpioPins : BitVec 16 := 0
  rise : BitVec 16 := 0
  fall : BitVec 16 := 0
  gpioPend : BitVec 16 := 0
  can : Can := {}
  tap : Tap := {}
deriving DecidableEq, Repr

/-! ## The whole block -/

/-- The state. `pending` is the queue of waiting commands, first in, first out; `nowUs`, `free` and `rdata` (the value the last
read command returned) are the model's own fields. -/
structure State where
  ctxs : Table Ctx := []
  cores : Table Core := []
  clk : Clk := {}
  fab : Fab := {}
  cx : Cx := {}
  thorn : Thorn := {}
  mill : Mill := {}
  host : HostP := {}
  twin : Twin := {}
  prot : Prot := {}
  pass : Pass := {}
  hearth : Hearth := {}
  boot : Boot := {}
  faults : Faults := {}
  util : Util := {}
  pending : List Instr := []
  nowUs : Nat := 0
  free : Nat := 0
  rdata : Word := 0
deriving DecidableEq, Repr

/-- Domain d at reset, before any write (Tables 2.1, 2.5, 2.6): D_0 to D_3 run, D_2 and D_3 under reference lock at 100 MHz. Table 2.1
has them "locked" and Table 2.6 gives LOCKED the reset value 0: the model takes Table 2.6 (log 101). -/
def Dom.initial (d : Nat) : Dom :=
  if d = 2 ∨ d = 3 then
    { refLock := true, stateReq := .run, state := .run, clockOn := true, inRst := true }
  else if d = 0 ∨ d = 1 then { stateReq := .run, state := .run, clockOn := true, inRst := true }
  else { inRst := true }

/-- 10 % of the capacity of each resource at the reset settings: the reset guarantees of ACCT_0 (R257, Table 11.3): D_3 at
FLOOR_MHZ 100, the Cauldron at 100, TURN_US 1,000. -/
def acct0Quad : Quad := { core := 10000, cx := 20000, dma := 150000, twin := 100000 }

/-- The block right after power-on reset has been asserted and its cause has ended: the reset is held until its release 32 ht
later (R428, R442); every field has its reset value. -/
def State.reset : State :=
  { clk := { doms := [(0, Dom.initial 0), (1, Dom.initial 1), (2, Dom.initial 2), (3, Dom.initial 3)] }
    mill := { accts := [(0, { guar := acct0Quad, eff := acct0Quad })] } }

end Sys2Proof.Machine
end

