-- ==== Sys2Proof/Machine/Table.lean ====
section
/-! DEFINITION. Bits and bytes, and the sparse tables in which the state is held (R6, R7). -/

namespace Sys2Proof

/-- One bit as a Bool (R6). -/
def bit {w : Nat} (x : BitVec w) (i : Nat) : Bool := x.getLsbD i

/-- The field [hi:lo] as a number (R6). -/
def fld {w : Nat} (x : BitVec w) (hi lo : Nat) : Nat := (x.toNat >>> lo) % 2 ^ (hi + 1 - lo)

/-- A Bool as a number. -/
def b2n (b : Bool) : Nat := if b then 1 else 0

/-- A flag result: all ones for true, zero for false (spec/04_isa_encoding_and_arithmetic.md). -/
def flagWord (b : Bool) : Word := if b then 0xFFFFFFFF#32 else 0#32

/-- A number as a word. -/
def wd (n : Nat) : Word := BitVec.ofNat 32 n

/-- x with bit i set to b. -/
def putBit {w : Nat} (x : BitVec w) (i : Nat) (b : Bool) : BitVec w :=
  if b then x ||| (1#w <<< i) else x &&& ~~~(1#w <<< i)

/-- x with the field of `n` bits at `lo` replaced by v. -/
def putFld {w : Nat} (x : BitVec w) (lo n v : Nat) : BitVec w :=
  (x &&& ~~~(BitVec.ofNat w (2 ^ n - 1) <<< lo)) ||| (BitVec.ofNat w (v % 2 ^ n) <<< lo)

/-- Saturating increment of a counter of width w. -/
def satInc {w : Nat} (x : BitVec w) : BitVec w := if x = BitVec.allOnes w then x else x + 1

/-- Saturating addition of a number to a counter of width w. -/
def satAdd {w : Nat} (x : BitVec w) (n : Nat) : BitVec w := BitVec.ofNat w (min (x.toNat + n) (2 ^ w - 1))

/-- The value at an index; `d` is what an unlisted index holds. -/
def tget {α : Type} (d : α) : Table α → Nat → α
  | [], _ => d
  | (k, v) :: t, i => if k = i then v else tget d t i

/-- The table with the value at an index replaced, in rising order of index. -/
def tput {α : Type} (i : Nat) (v : α) : Table α → Table α
  | [] => [(i, v)]
  | (k, w) :: t => if i < k then (i, v) :: (k, w) :: t else if i = k then (i, v) :: t else (k, w) :: tput i v t

/-- The table without an index. -/
def tdel {α : Type} (i : Nat) (t : Table α) : Table α := t.filter fun e => e.1 != i

/-- The table with the value at an index replaced, keeping the canonical form: no index holds the value `d` of the unlisted. -/
def tset {α : Type} [DecidableEq α] (d : α) (i : Nat) (v : α) (t : Table α) : Table α :=
  if v = d then tdel i t else tput i v t

/-- Canonical form from a lower bound on: indices strictly rise and no value is that of the unlisted. -/
def tableWfFrom {α : Type} [DecidableEq α] (d : α) : Nat → Table α → Bool
  | _, [] => true
  | n, (k, v) :: t => decide (n ≤ k) && decide (v ≠ d) && tableWfFrom d (k + 1) t

/-- The canonical form of a table. -/
def tableWf {α : Type} [DecidableEq α] (d : α) (t : Table α) : Bool := tableWfFrom d 0 t

/-- A byte memory in canonical form: an unlisted byte reads as 0 (R188, R519). -/
def Memory.wf (m : List (Nat × BitVec 8)) : Bool := tableWf 0 m

/-- The byte at an address. -/
def readByte (m : Table Byte) (a : Nat) : Byte := tget 0 m a

/-- The memory with one byte written. -/
def writeByte (m : Table Byte) (a : Nat) (b : Byte) : Table Byte := tset 0 a b m

/-- n bytes at an address, little-endian (R7), as a number. -/
def readLE (m : Table Byte) (a : Nat) : Nat → Nat
  | 0 => 0
  | n + 1 => (readByte m a).toNat + 256 * readLE m (a + 1) n

/-- The memory with the low n bytes of v written at an address, little-endian (R7). -/
def writeLE (m : Table Byte) (a : Nat) : Nat → Nat → Table Byte
  | 0, _ => m
  | n + 1, v => writeLE (writeByte m a (BitVec.ofNat 8 v)) (a + 1) n (v / 256)

/-- The word at an address. -/
def readWord (m : Table Byte) (a : Nat) : Word := wd (readLE m a 4)

/-- The memory with a word written. -/
def writeWord (m : Table Byte) (a : Nat) (w : Word) : Table Byte := writeLE m a 4 w.toNat

/-- Words written one after the other from an address. -/
def writeWords (m : Table Byte) (a : Nat) : List Word → Table Byte
  | [] => m
  | w :: ws => writeWords (writeWord m a w) (a + 4) ws

/-- n words from an address. -/
def readWords (m : Table Byte) (a : Nat) : Nat → List Word
  | 0 => []
  | n + 1 => readWord m a :: readWords m (a + 4) n

/-- Element i of a list of words, 0 beyond its end. -/
def nthW (ws : List Word) (i : Nat) : Word := ws.getD i 0

/-- The list with element i replaced by v, when it has one. -/
def setNth {α : Type} (l : List α) (i : Nat) (v : α) : List α := l.set i v

/-- A 64-bit number from its low and high words. -/
def cat64 (lo hi : Word) : Nat := lo.toNat + 2 ^ 32 * hi.toNat

/-- The signed value of a field of n bits. -/
def sgn (n v : Nat) : Int := if v % 2 ^ n < 2 ^ (n - 1) then (v % 2 ^ n : Nat) else (v % 2 ^ n : Nat) - (2 ^ n : Nat)

end Sys2Proof
end

