-- ==== Sys2Proof/Machine/Access.lean ====
section
/-! DEFINITION. One reading and one writing operation for every indexed group of state. -/

namespace Sys2Proof.Machine

open Sys2Proof

/-- What every meaning answers. -/
abbrev Out := Host.Outcome State Fault Refusal

/-- The core of a context number (R250). -/
def coreOf (c : Nat) : Nat := c / 4

/-- The context's index within its core. -/
def ctxIx (c : Nat) : Nat := c % 4

/-- The domain of a core's island (Table 2.1): W_n is D_(n + 5), S is D_3. -/
def domOf (k : Nat) : Nat := if k = 16 then 3 else k + 5

/-- A context of S. -/
def isS (c : Nat) : Bool := coreOf c == 16

def State.ctx (s : State) (c : Nat) : Ctx := tget {} s.ctxs c
def State.setCtx (s : State) (c : Nat) (x : Ctx) : State := { s with ctxs := tput c x s.ctxs }
def State.modCtx (s : State) (c : Nat) (f : Ctx → Ctx) : State := s.setCtx c (f (s.ctx c))

def State.core (s : State) (k : Nat) : Core := tget {} s.cores k
def State.setCore (s : State) (k : Nat) (x : Core) : State := { s with cores := tput k x s.cores }
def State.modCore (s : State) (k : Nat) (f : Core → Core) : State := s.setCore k (f (s.core k))

def State.modClk (s : State) (f : Clk → Clk) : State := { s with clk := f s.clk }
def State.dom (s : State) (d : Nat) : Dom := tget { inRst := true } s.clk.doms d
def State.setDom (s : State) (d : Nat) (x : Dom) : State := s.modClk fun k => { k with doms := tput d x k.doms }
def State.modDom (s : State) (d : Nat) (f : Dom → Dom) : State := s.setDom d (f (s.dom d))

def State.xing (s : State) (x : Nat) : Xing := tget {} s.clk.xings x
def State.setXing (s : State) (x : Nat) (v : Xing) : State := s.modClk fun k => { k with xings := tput x v k.xings }
def State.modXing (s : State) (x : Nat) (f : Xing → Xing) : State := s.setXing x (f (s.xing x))

def State.modFab (s : State) (f : Fab → Fab) : State := { s with fab := f s.fab }
def State.fe (s : State) (p : Nat) : Fe := tget {} s.fab.fes p
def State.setFe (s : State) (p : Nat) (v : Fe) : State := s.modFab fun k => { k with fes := tput p v k.fes }
def State.modFe (s : State) (p : Nat) (f : Fe → Fe) : State := s.setFe p (f (s.fe p))
def State.mbox (s : State) (i : Nat) : Mailbox := tget {} s.fab.mboxes i
def State.setMbox (s : State) (i : Nat) (v : Mailbox) : State := s.modFab fun k => { k with mboxes := tput i v k.mboxes }
def State.bankHolder (s : State) (b : Nat) : Option Holder := tget none s.fab.banks b
def State.setBank (s : State) (b : Nat) (v : Option Holder) : State := s.modFab fun k => { k with banks := tput b v k.banks }
def State.hbTag (s : State) (t : Nat) : Option HbTag := tget none s.fab.tags t
def State.setTag (s : State) (t : Nat) (v : Option HbTag) : State := s.modFab fun k => { k with tags := tput t v k.tags }

def State.modCx (s : State) (f : Cx → Cx) : State := { s with cx := f s.cx }
def State.acc (s : State) (a : Nat) : Acc := tget {} s.cx.accs a
def State.setAcc (s : State) (a : Nat) (v : Acc) : State := s.modCx fun k => { k with accs := tput a v k.accs }

def State.group (s : State) (g : Nat) : Group := tget {} s.thorn.groups g
def State.setGroup (s : State) (g : Nat) (v : Group) : State := { s with thorn := { s.thorn with groups := tput g v s.thorn.groups } }
def State.modGroup (s : State) (g : Nat) (f : Group → Group) : State := s.setGroup g (f (s.group g))

def State.modMill (s : State) (f : Mill → Mill) : State := { s with mill := f s.mill }
def State.acct (s : State) (a : Nat) : Acct := tget {} s.mill.accts a
def State.setAcct (s : State) (a : Nat) (v : Acct) : State := s.modMill fun k => { k with accts := tput a v k.accts }
def State.modAcct (s : State) (a : Nat) (f : Acct → Acct) : State := s.setAcct a (f (s.acct a))

def State.modHost (s : State) (f : HostP → HostP) : State := { s with host := f s.host }
def State.ring (s : State) (n : Nat) : Ring := tget {} s.host.rings n
def State.setRing (s : State) (n : Nat) (v : Ring) : State := s.modHost fun k => { k with rings := tput n v k.rings }
def State.modRing (s : State) (n : Nat) (f : Ring → Ring) : State := s.setRing n (f (s.ring n))

def State.modTwin (s : State) (f : Twin → Twin) : State := { s with twin := f s.twin }
def State.modProt (s : State) (f : Prot → Prot) : State := { s with prot := f s.prot }
def State.modPass (s : State) (f : Pass → Pass) : State := { s with pass := f s.pass }
def State.chan (s : State) (n : Nat) : Chan := tget {} s.pass.chans n
def State.setChan (s : State) (n : Nat) (v : Chan) : State := s.modPass fun k => { k with chans := tput n v k.chans }
def State.modHearth (s : State) (f : Hearth → Hearth) : State := { s with hearth := f s.hearth }
def State.modBoot (s : State) (f : Boot → Boot) : State := { s with boot := f s.boot }
def State.modFaults (s : State) (f : Faults → Faults) : State := { s with faults := f s.faults }
def State.modUtil (s : State) (f : Util → Util) : State := { s with util := f s.util }
def State.modThorn (s : State) (f : Thorn → Thorn) : State := { s with thorn := f s.thorn }

/-- The state with the value that a read command returns. -/
def State.withRdata (s : State) (w : Word) : State := { s with rdata := w }

/-- The next fresh free word (assumption log 4) and the state that has used it. -/
def State.freshWord (s : State) : Word × State := (Config.freeWord s.free, { s with free := s.free + 1 })

/-- The core's rights under the protection map in force (R354, Table 15.1). -/
def State.rights (s : State) (k : Nat) : CoreRights := tget {} s.prot.map.cores k

/-- A host window table entry in force (R194). -/
def State.win (s : State) (n : Nat) : Win := tget {} s.prot.map.wins n

/-- Size in bytes of a core's D-local memory (Table 3.4). -/
def dlocalSize (k : Nat) : Nat := if k = 16 then 0x10000 else 0x8000

/-- The contexts' numbers of a core. -/
def ctxsOf (k : Nat) : List Nat := [4 * k, 4 * k + 1, 4 * k + 2, 4 * k + 3]

/-- Every context number. -/
def allCtxs : List Nat := List.range 68

end Sys2Proof.Machine
end

