-- ==== Sys2Proof/Machine/Sha.lean ====
section
/-! DEFINITION. SHA-256 and HMAC-SHA-256 (R363, R364, R452), over messages held as words whose lowest byte comes first (R7). The spec names
the two functions; their rounds and constants are those of the published standard (log 11). -/

namespace Sys2Proof.Machine

/-- The round constants. -/
def shaK : List Word :=
  [0x428A2F98, 0x71374491, 0xB5C0FBCF, 0xE9B5DBA5, 0x3956C25B, 0x59F111F1, 0x923F82A4, 0xAB1C5ED5,
   0xD807AA98, 0x12835B01, 0x243185BE, 0x550C7DC3, 0x72BE5D74, 0x80DEB1FE, 0x9BDC06A7, 0xC19BF174] ++
  [0xE49B69C1, 0xEFBE4786, 0x0FC19DC6, 0x240CA1CC, 0x2DE92C6F, 0x4A7484AA, 0x5CB0A9DC, 0x76F988DA,
   0x983E5152, 0xA831C66D, 0xB00327C8, 0xBF597FC7, 0xC6E00BF3, 0xD5A79147, 0x06CA6351, 0x14292967] ++
  [0x27B70A85, 0x2E1B2138, 0x4D2C6DFC, 0x53380D13, 0x650A7354, 0x766A0ABB, 0x81C2C92E, 0x92722C85,
   0xA2BFE8A1, 0xA81A664B, 0xC24B8B70, 0xC76C51A3, 0xD192E819, 0xD6990624, 0xF40E3585, 0x106AA070] ++
  [0x19A4C116, 0x1E376C08, 0x2748774C, 0x34B0BCB5, 0x391C0CB3, 0x4ED8AA4A, 0x5B9CCA4F, 0x682E6FF3,
   0x748F82EE, 0x78A5636F, 0x84C87814, 0x8CC70208, 0x90BEFFFA, 0xA4506CEB, 0xBEF9A3F7, 0xC67178F2]

/-- The hash before the first block. -/
def shaStart : List Word :=
  [0x6A09E667, 0xBB67AE85, 0x3C6EF372, 0xA54FF53A, 0x510E527F, 0x9B05688C, 0x1F83D9AB, 0x5BE0CD19]

/-- The bytes of a word in the other order. -/
def swapBytes (w : Word) : Word :=
  w.extractLsb' 0 8 ++ w.extractLsb' 8 8 ++ w.extractLsb' 16 8 ++ w.extractLsb' 24 8

/-- The message schedule, grown by n words; the newest stands first. -/
def shaSchedule : Nat → List Word → List Word
  | 0, l => l
  | n + 1, l =>
    let a := nthW l 14
    let b := nthW l 1
    let s0 := a.rotateRight 7 ^^^ a.rotateRight 18 ^^^ (a >>> 3)
    let s1 := b.rotateRight 17 ^^^ b.rotateRight 19 ^^^ (b >>> 10)
    shaSchedule n ((nthW l 15 + s0 + nthW l 6 + s1) :: l)

/-- One round, with its schedule word and constant added. -/
def shaRound (h : List Word) (kw : Word) : List Word :=
  match h with
  | [a, b, c, d, e, f, g, i] =>
    let t1 := i + (e.rotateRight 6 ^^^ e.rotateRight 11 ^^^ e.rotateRight 25) + ((e &&& f) ^^^ (~~~e &&& g)) + kw
    let t2 := (a.rotateRight 2 ^^^ a.rotateRight 13 ^^^ a.rotateRight 22) + ((a &&& b) ^^^ (a &&& c) ^^^ (b &&& c))
    [t1 + t2, a, b, c, d + t1, e, f, g]
  | l => l

/-- One block of sixteen words, in the order of the standard. -/
def shaBlock (h block : List Word) : List Word :=
  let w := (shaSchedule 48 block.reverse).reverse
  List.zipWith (· + ·) h ((List.zipWith (· + ·) shaK w).foldl shaRound h)

/-- The blocks of a padded message; the first argument bounds their number. -/
def shaBlocks : Nat → List Word → List Word → List Word
  | 0, h, _ => h
  | n + 1, h, m => if m = [] then h else shaBlocks n (shaBlock h (m.take 16)) (m.drop 16)

/-- SHA-256 of whole words: eight words, the first byte of the digest lowest. -/
@[irreducible] def sha256 (m : List Word) : List Word :=
  let zeros := (29 - m.length % 16) % 16
  let p := m.map swapBytes ++ 0x80000000#32 :: List.replicate zeros 0 ++ [wd (m.length / 2 ^ 27), wd (32 * m.length)]
  (shaBlocks p.length shaStart p).map swapBytes

/-- HMAC-SHA-256 of whole words under a key of at most sixteen words (the keys are eight: R359). -/
@[irreducible] def hmacSha256 (key m : List Word) : List Word :=
  let k := (key ++ List.replicate 16 0).take 16
  sha256 ((k.map fun x => x ^^^ 0x5C5C5C5C#32) ++ sha256 ((k.map fun x => x ^^^ 0x36363636#32) ++ m))

end Sys2Proof.Machine
end

