-- ==== Sys2Proof/Machine/Flags.lean ====
section
/-! DEFINITION. Results and flags of the arithmetic, compare, multiply, divide, extension and bit-counting instructions
(R102 to R109, Table 4.7). Each answers the result and, where Table 4.7 lists the instruction, C and V. -/

namespace Sys2Proof.Machine

open Sys2Proof

/-- The exact sum of two words and a carry in. -/
def sumNat (a b : Word) (c : Bool) : Nat := a.toNat + b.toNat + b2n c

/-- a + b + C with C := carry out of bit 31 and V := same signs in, other sign out (Table 4.7). -/
def addFlags (a b : Word) (c : Bool) : Word × Bool × Bool :=
  let r := wd (sumNat a b c)
  (r, decide (2 ^ 32 ≤ sumNat a b c), (a.msb == b.msb) && (r.msb != a.msb))

/-- a − b − C with C := borrow and V := signs differ and the result differs from a (Table 4.7). -/
def subFlags (a b : Word) (c : Bool) : Word × Bool × Bool :=
  let r := a - b - wd (b2n c)
  (r, decide (a.toNat < b.toNat + b2n c), (a.msb != b.msb) && (r.msb != a.msb))

/-- 0 − a with C := a ≠ 0 and V := a = 0x8000_0000 (Table 4.7). -/
def negFlags (a : Word) : Word × Bool × Bool := (-a, decide (a ≠ 0), decide (a = 0x80000000#32))

/-- SHL, R103. -/
def shlWord (a n : Word) : Word := if n.toNat < 32 then a <<< n.toNat else 0

/-- SHR, R103. -/
def shrWord (a n : Word) : Word := if n.toNat < 32 then a >>> n.toNat else 0

/-- SAR, R103. -/
def sarWord (a n : Word) : Word := if n.toNat < 32 then a.sshiftRight n.toNat else if a.msb then BitVec.allOnes 32 else 0

/-- ROL, R103. -/
def rolWord (a n : Word) : Word := a.rotateLeft (n.toNat % 32)

/-- ROR, R103. -/
def rorWord (a n : Word) : Word := a.rotateRight (n.toNat % 32)

/-- The exact signed product. -/
def mulInt (a b : Word) : Int := a.toInt * b.toInt

/-- MUL and its V (Table 4.7). -/
def mulFlags (a b : Word) : Word × Bool :=
  let r := a * b
  (r, decide (mulInt a b ≠ r.toInt))

/-- MULH. -/
def mulhWord (a b : Word) : Word := BitVec.ofInt 32 (mulInt a b / 2 ^ 32)

/-- MULHU. -/
def mulhuWord (a b : Word) : Word := wd (a.toNat * b.toNat / 2 ^ 32)

/-- The overflow case of R105. -/
def divOvf (a b : Word) : Bool := decide (a = 0x80000000#32) && decide (b = 0xFFFFFFFF#32)

/-- DIV truncates towards zero (R105). -/
def divWord (a b : Word) : Word := BitVec.ofInt 32 (a.toInt.tdiv b.toInt)

/-- MOD gives a − (a DIV b) × b (R105). -/
def modWord (a b : Word) : Word := a - divWord a b * b

/-- DIVU and MODU (R105). -/
def divuWord (a b : Word) : Word := wd (a.toNat / b.toNat)
def moduWord (a b : Word) : Word := wd (a.toNat % b.toNat)

/-- MIN and MAX, signed. -/
def minWord (a b : Word) : Word := if a.toInt ≤ b.toInt then a else b
def maxWord (a b : Word) : Word := if a.toInt ≤ b.toInt then b else a

/-- Compares. -/
def ltWord (a b : Word) : Word := flagWord (decide (a.toInt < b.toInt))
def ltuWord (a b : Word) : Word := flagWord (decide (a.toNat < b.toNat))
def eqWord (a b : Word) : Word := flagWord (decide (a = b))
def neWord (a b : Word) : Word := flagWord (decide (a ≠ b))
def zeqWord (a : Word) : Word := flagWord (decide (a = 0))

/-- Extensions. -/
def sexb (a : Word) : Word := (a.extractLsb' 0 8).signExtend 32
def sexh (a : Word) : Word := (a.extractLsb' 0 16).signExtend 32
def zexb (a : Word) : Word := (a.extractLsb' 0 8).setWidth 32
def zexh (a : Word) : Word := (a.extractLsb' 0 16).setWidth 32

/-- Leading zero bits, counted from bit n − 1 down. -/
def clzFrom (a : Word) : Nat → Nat
  | 0 => 0
  | n + 1 => if bit a n then 0 else 1 + clzFrom a n

/-- CLZ; of 0 it gives 32 (R108). -/
def clzWord (a : Word) : Word := wd (clzFrom a 32)

/-- One bits below bit n. -/
def popFrom (a : Word) : Nat → Nat
  | 0 => 0
  | n + 1 => b2n (bit a n) + popFrom a n

/-- POPC. -/
def popcWord (a : Word) : Word := wd (popFrom a 32)

end Sys2Proof.Machine
end

