-- ==== Sys2Proof/Machine/Lines.lean ====
section
/-! DEFINITION. Crossings, interrupt lines and event posts as they travel (R41 to R49, R150, R154, R237), the fabric error log
and the Breadcrumbs trails (R469, R470, R480, R482). -/

namespace Sys2Proof.Machine

open Sys2Proof

/-- An island whose clock runs and which is out of reset. -/
def islandRuns (s : State) (d : Nat) : Bool := decide ((s.dom d).state = .run) && !(s.dom d).inRst

/-- New events on a channel: the difference of its counters modulo 256 (R44). -/
def EvChan.new (q : EvChan) : Nat := (q.sent - q.taken).toNat

/-- Events of a channel in flight, those held at the sender's side included (R46). -/
def EvChan.inFlight (q : EvChan) : Nat := q.new + q.held

/-- The sender posts n events: the counter takes what 255 unconsumed events leave room for, and the rest is held (R44, R45). -/
def EvChan.post (n : Nat) (q : EvChan) : EvChan :=
  let m := min n (255 - q.new)
  { q with sent := q.sent + BitVec.ofNat 8 m, held := q.held + (n - m) }

/-- The receiver consumes every new event and returns its value, and the sender lets held events go (R44, R45). -/
def EvChan.take (q : EvChan) : EvChan := EvChan.post q.held { q with taken := q.sent, held := 0 }

/-- n events posted on the channel of a direction. -/
def postEvents (e : XEvent) (n : Nat) : List EvChan → List EvChan
  | [] => [EvChan.post n { ev := e }]
  | q :: t => if q.ev = e then EvChan.post n q :: t else q :: postEvents e n t

/-- Events in flight on one channel of a direction. -/
def XDir.pending (d : XDir) (e : XEvent) : Nat := (d.chans.find? fun q => q.ev == e).elim 0 EvChan.inFlight

/-- Values and events in flight in a direction (R46). -/
def XDir.counts (d : XDir) : Nat × Nat := (d.items.length, d.chans.foldl (fun n q => n + q.inFlight) 0)

def Xing.dir (q : Xing) (toD2 : Bool) : XDir := if toD2 then q.toD2 else q.fromD2
def Xing.setDir (q : Xing) (toD2 : Bool) (d : XDir) : Xing := if toD2 then { q with toD2 := d } else { q with fromD2 := d }

/-- Group g's members are named by three words (Table 10.4). -/
def Group.member (g : Group) (c : Nat) : Bool :=
  if c < 32 then bit g.mem0 c else if c < 64 then bit g.mem1 (c - 32) else c < 68 && bit g.mem2 (c - 64)

/-- A context that is posted to, can be interrupted or runs again ends the hedge of its groups: they may fire anew (R245). -/
def unsettle (c : Nat) (s : State) : State :=
  s.modThorn fun t =>
    { t with groups := t.groups.map fun e => if e.2.member c then (e.1, { e.2 with settled := false }) else e }

/-- Discards are counted in XING_DISCARD (R47). -/
def countDiscards (items events : Nat) (s : State) : State :=
  s.modClk fun k => { k with itemsDisc := satAdd k.itemsDisc items, eventsDisc := satAdd k.eventsDisc events }

/-- A post in flight to a context ends the hedge of its groups, whether or not it arrives (R243, R245). -/
def unsettleFor (e : XEvent) (s : State) : State :=
  match e with
  | .post _ d _ _ => unsettle d s
  | .line _ _ => s

/-- n events enter a direction of crossing x; a crossing that is down discards them (R44, R47). -/
def sendEvents (x : Nat) (toD2 : Bool) (e : XEvent) (n : Nat) (s : State) : State :=
  if (s.xing x).up then
    (unsettleFor e s).modXing x fun q => q.setDir toD2 { q.dir toD2 with chans := postEvents e n (q.dir toD2).chans }
  else countDiscards 0 n s

/-- A value enters a direction of crossing x; a crossing that is down discards it (R41, R47). Its sender has seen room for it (R42). -/
def sendItem (x : Nat) (toD2 : Bool) (it : XItem) (s : State) : State :=
  if (s.xing x).up then
    s.modXing x fun q => q.setDir toD2 { q.dir toD2 with items := (q.dir toD2).items ++ [it] }
  else countDiscards 1 0 s

/-- The request of a context's long operation that its receiver has not consumed: it waits in the queue of its core's crossing until its
arrival step (R46, R66). -/
def LongOp.asks : LongOp → Bool
  | .load _ _ _ _ _ => true
  | .atomic _ _ => true
  | .lock _ => true
  | .unlock => true
  | .io _ _ => true
  | _ => false

/-- The core of an island, if it has one. -/
def coreIn (d : Nat) : Option Nat := if d = 3 then some 16 else if 5 ≤ d ∧ d ≤ 20 then some (d - 5) else none

/-- Values in flight in a direction of crossing x (R46): its queue, the requests of the contexts of a core's island towards D_2, and the
accepted ops that D_4 has not started. -/
def itemsInFlight (s : State) (x : Nat) (toD2 : Bool) : Nat :=
  ((s.xing x).dir toD2).items.length +
  (if toD2 then
    match coreIn x with
    | some k => ((ctxsOf k).filter fun c => ((s.ctx c).long.map LongOp.asks).getD false).length
    | none => 0
  else if x = 4 then (s.cx.ops.filter fun o => !o.started).length else 0)

/-- The queue of a direction is full: a sender stalls until an entry frees (R42). R42 gives no depth, so it is a constant without a value
(log 24). -/
def queueFull (s : State) (x : Nat) (toD2 : Bool) : Bool :=
  decide (Config.xingExtra x + 1 ≤ ((s.xing x).dir toD2).items.length)

/-- An event that leaves a unit of domain d for a core or context enters its first crossing (R40): d's own towards D_2, and from D_2 the
crossing of the target's island. -/
def eventFrom (d : Nat) (e : XEvent) (n : Nat) (s : State) : State :=
  if d = 2 then
    sendEvents (match e with | .line k _ => domOf k | .post _ c _ _ => domOf (coreOf c)) false e n s
  else sendEvents d true e n s

/-- One event on line l of core k leaves a unit of domain d (R40, R150). -/
def raiseFrom (d k l : Nat) (s : State) : State := eventFrom d (.line k l) 1 s

/-- One event on line l of core k leaves a unit of D_2 and enters the crossing of the core's island (R150). -/
def raiseLine (k l : Nat) (s : State) : State := sendEvents (domOf k) false (.line k l) 1 s

/-- Events on several cores' line l. -/
def raiseLines (ks : List Nat) (l : Nat) (s : State) : State := ks.foldl (fun t k => raiseLine k l t) s

/-- One event on each line of core k that a mask names leaves domain d (R151, R152). -/
def raiseMask (d k : Nat) (mask : BitVec 16) (s : State) : State :=
  (List.range 16).foldl (fun t l => if bit mask l then raiseFrom d k l t else t) s

/-- Priority and target of a line (Table 6.3). -/
def linePri (k : Core) (l : Nat) : Nat := fld k.lpri (2 * l + 1) (2 * l)
def lineCtx (k : Core) (l : Nat) : Nat := fld k.route (2 * l + 1) (2 * l)

/-- A pending line is deliverable to a context (R155). -/
def deliverable (k : Core) (x : Ctx) (t l : Nat) : Bool :=
  bit k.pend l && bit k.en l && lineCtx k l == t && x.ie && (!x.inh || decide (x.pri.toNat < linePri k l))

/-- A line that is deliverable to a context ends the hedge of the context's groups, even if it is withdrawn later (R243, R245). -/
def unsettleLines (k : Nat) (s : State) : State :=
  (ctxsOf k).foldl (fun t c =>
    if (List.range 16).any fun l => deliverable (t.core k) (t.ctx c) (ctxIx c) l then unsettle c t else t) s

/-- An event on line l reaches the controller of core k (R154). -/
def lineEvent (k l : Nat) (s : State) : State :=
  unsettleLines k (s.modCore k fun c =>
    if bit c.pend l then { c with ovr := putBit c.ovr l true } else { c with pend := putBit c.pend l true })

/-- Events on every line named by a mask (INT_RAISE, R151). -/
def lineEvents (k : Nat) (mask : BitVec 16) (s : State) : State :=
  (List.range 16).foldl (fun t l => if bit mask l then lineEvent k l t else t) s

/-- The crossing goes down: what it holds is discarded and counted (R47, R49). -/
def crossingDown (x : Nat) (s : State) : State :=
  let q := s.xing x
  (countDiscards (q.toD2.counts.1 + q.fromD2.counts.1) (q.toD2.counts.2 + q.fromD2.counts.2) s).setXing x {}

/-- An incoming value or event ungates an island that the Gorgar gated by itself (R26). -/
def ungate (d : Nat) (s : State) : State :=
  if (s.dom d).autoGated then s.modDom d fun m => { m with state := .run, autoGated := false, clockOn := true } else s

/-- D_3 returns to RUN when an interrupt line of S is raised (R27); it takes up its lock loop from STOPPED (R35), and REF_LOCK is held
under CAL_DEFAULTS (R38). -/
def wakeS (s : State) : State :=
  s.modDom 3 fun m =>
    if m.state = .run then m
    else
      { m with
        state := .run, autoGated := false, clockOn := true, refLock := m.refLock || s.clk.calDefaults
        goodWins := if m.state = .stopped then 0 else m.goodWins }

/-- The ring named by an entry of the fabric error log, with RING_V (Table 20.2, word 2). -/
def ringField : Option Nat → Nat
  | none => 0
  | some r => r * 2 ^ 16 + 2 ^ 26

/-- The words of a fabric error log entry (Table 20.2). -/
def logWords (s : State) (cause cls status c d : Nat) (r : Option Nat) (detail addr : Nat) : List Word :=
  let rtc := if s.hearth.rtcValid then s.hearth.rtc.toNat else 0
  [wd ((s.faults.seq + 1).toNat + cause * 2 ^ 16 + cls * 2 ^ 24), wd status, wd (c + d * 2 ^ 8 + ringField r), wd detail,
   wd addr, wd (addr / 2 ^ 32), wd rtc, wd (rtc / 2 ^ 32 + s.mill.turn.toNat * 2 ^ 16)]

/-- The newest n elements. -/
def newest {α : Type} (n : Nat) (l : List α) : List α := l.drop (l.length - n)

/-- A fault is logged and raises line 8 of S; one of class 2 to 4 freezes the Breadcrumbs after its entry is stored (R469, R482).
`c` is the context number or 0x7F, `d` the domain or 0x1F. -/
def logFault (cause cls status c d : Nat) (r : Option Nat) (detail addr : Nat) (s : State) : State :=
  let e : LogEnt := ⟨logWords s cause cls status c d r detail addr, false⟩
  raiseLine 16 8 (s.modFaults fun f =>
    if f.frozen then { f with seq := f.seq + 1, lostLog := satInc f.lostLog }
    else { f with seq := f.seq + 1, log := newest 64 (f.log ++ [e]), frozen := decide (2 ≤ cls) })

/-- A later reaction to a logged fault adds 1 to REPEAT of its entry (R470); an entry that is not stored gains nothing (R482). -/
def bumpRepeat (seq : BitVec 16) (s : State) : State :=
  s.modFaults fun f =>
    { f with log := f.log.map fun e =>
        if fld (nthW e.ws 0) 15 0 = seq.toNat then
          { e with ws := setNth e.ws 1 (putFld (nthW e.ws 1) 16 16 (min 0xFFFF (fld (nthW e.ws 1) 31 16 + 1))) }
        else e }

/-- The reaction of a higher layer: attributed to the carried entry, or logged afresh (R470). -/
def logOrRepeat (carried : Option (BitVec 16)) (cause cls status c d : Nat) (r : Option Nat) (detail addr : Nat) (s : State) : State :=
  match carried with
  | some q => bumpRepeat q s
  | none => logFault cause cls status c d r detail addr s

/-- A read finds parity errors in these entries of an array, 0 to 16 a trail and 17 the fabric error log (R520): each that is not bad yet is bad from
now on, and TRAIL_PARITY is logged for it once, with DETAIL naming the array. -/
def markBad (a : Nat) (is : List Nat) (s : State) : State :=
  let log := fun (n : Nat) (t : State) => (List.range n).foldl (fun u _ => logFault 0x18 0 0 0x7F 0x1F none (if a = 17 then 0xFF else a) 0 u) t
  if a = 17 then
    let fresh := s.faults.log.zipIdx.filter fun e => is.contains e.2 && !e.1.bad
    log fresh.length (s.modFaults fun f => { f with log := f.log.zipIdx.map fun e => { e.1 with bad := e.1.bad || is.contains e.2 } })
  else
    let fresh := (s.core a).trail.zipIdx.filter fun e => is.contains e.2 && !e.1.bad
    log fresh.length (s.modCore a fun q => { q with trail := q.trail.zipIdx.map fun e => { e.1 with bad := e.1.bad || is.contains e.2 } })

/-- A read of several arrays finds parity errors in the entries named (R520). -/
def markAllBad (bad : List (Nat × Nat)) (s : State) : State :=
  (List.range 18).foldl (fun t a =>
    let is := (bad.filter fun e => e.1 == a).map fun e => e.2
    if is.isEmpty then t else markBad a is t) s

/-- Capacity of a trail (R480). -/
def trailCap (k : Nat) : Nat := if k = 16 then 512 else 128

/-- A trail entry is recorded unless the Breadcrumbs are frozen (R480, R482). -/
def trailPut (k : Nat) (w0 w1 : Word) (s : State) : State :=
  if s.faults.frozen then s else s.modCore k fun x => { x with trail := newest (trailCap k) (x.trail ++ [⟨w0, w1, false⟩]) }

/-- The two words of a trail entry (Table 20.6). -/
def trailWords (c : Nat) (frm : BitVec 24) (kind : Nat) (dest : BitVec 24) (cause : Nat) : Word × Word :=
  (wd (frm.toNat + ctxIx c * 2 ^ 24 + kind * 2 ^ 26), wd (dest.toNat + cause * 2 ^ 24))

/-- A transition of a context to HALTED, recorded in the trail with the kept PC (R480). -/
def haltCtx (c : Nat) (cause : Nat) (s : State) : State :=
  let x := s.ctx c
  let w := trailWords c x.pc 7 x.pc cause
  if x.st = .halted then s else trailPut (coreOf c) w.1 w.2 (s.setCtx c { x with st := .halted, mid := none })

/-- The group's woodcutter (R247). -/
def Group.woodcutter (g : Group) : Option Nat := if g.wood then some (4 * g.wcore.toNat + g.wctx.toNat) else none

/-- A post of an internal flag to a member from outside sets INTRUDE and raises line 6 of S (R247). -/
def intrudeCheck (src : Option Nat) (dst : Nat) (flag : BitVec 5) (s : State) : State :=
  match src with
  | none => s
  | some c => (List.range 8).foldl (fun t g =>
      let q := t.group g
      if q.en && q.member dst && bit q.internal flag.toNat && !q.member c && decide (q.woodcutter ≠ some c) then
        raiseLine 16 6 (t.setGroup g { q with intrude := true })
      else t) s

end Sys2Proof.Machine
end

