-- ==== Sys2Proof/Machine/Ecc.lean ====
section
/-! DEFINITION. Shared SRAM with its check bits: what a read finds, corrects, reports and logs, and what a store leaves (R187, R191, R192, R479). -/

namespace Sys2Proof.Machine

open Sys2Proof

/-- Who reads a word (R191): a work core, or anyone else with the context number and domain for the log. -/
inductive Reader where
  | core (k : Nat)
  | other (c d : Nat)
  | scrub
deriving DecidableEq, Repr

/-- What the check bits of a word show at a read: what the state holds, and what this read finds besides. -/
def eccFound (s : State) (a : Nat) (u : Upset) : Option Ecc :=
  match tget none s.fab.ecc (a / 4 * 4), u with
  | some (.bad q), _ => some (.bad q)
  | _, .double => some (.bad none)
  | _, .single => some .single
  | e, .none => e

/-- The check bits of a word are set. -/
def setEcc (a : Nat) (e : Option Ecc) (s : State) : State :=
  s.modFab fun f => { f with ecc := tset none (a / 4 * 4) e f.ecc }

/-- A corrected error raises line 10 of a work core that reads, and is logged for any other reader but the scrub (R191, R479). -/
def reportCorrected (r : Reader) (a : Nat) (s : State) : State :=
  match r with
  | .core k => raiseLine k 10 s
  | .other c d => logFault 0x01 0 0 c d none 0 a s
  | .scrub => s

/-- The log fields of a reader. -/
def Reader.fields : Reader → Nat × Nat
  | .core k => (0x7F, domOf k)
  | .other c d => (c, d)
  | .scrub => (0x7F, 2)

/-- A read meets the check bits of a word (R191, R192, R479): the state after it, and whether the word is good. -/
def eccRead (r : Reader) (a : Nat) (u : Upset) (s : State) : State × Bool :=
  match eccFound s a u with
  | none => (s, true)
  | some .single => (reportCorrected r a (setEcc a none (s.modFab fun f => { f with corr := satInc f.corr })), true)
  | some (.bad (some q)) => (bumpRepeat q (setEcc a (some (.bad (some q))) (s.modFab fun f => { f with uncorr := satInc f.uncorr })), false)
  | some (.bad none) =>
    let t := logFault 0x02 1 0 r.fields.1 r.fields.2 none 0 (a / 4 * 4) (s.modFab fun f => { f with uncorr := satInc f.uncorr })
    (setEcc a (some (.bad (some t.faults.seq))) t, false)

/-- A read by the contexts of a core: the context is named for S, whose line 10 belongs to the Hearth (R191). -/
def readerOf (c : Nat) : Reader := if isS c then .other c 3 else .core (coreOf c)

/-- The words of a line are read one after the other: the state after it, and whether all of them are good (R187, R191, R192). -/
def readLineEcc (who : Reader) (a : Nat) : Nat → State → State × Bool
  | 0, s => (s, true)
  | n + 1, s =>
    let r := eccRead who a .none s
    let t := readLineEcc who (a + 4) n r.1
    (t.1, r.2 && t.2)

/-- A full-word store replaces the word and its check bits (R192). -/
def sramWord (a : Nat) (w : Word) (s : State) : State :=
  setEcc a none (s.modFab fun f => { f with sram := writeWord f.sram a w })

/-- Words stored one after the other. -/
def sramWords (a : Nat) : List Word → State → State
  | [], s => s
  | w :: ws, s => sramWords (a + 4) ws (sramWord a w s)

/-- A store of `size` bytes to shared SRAM: a full word replaces; a byte or halfword is merged after an ECC read of the word, and
a merge that meets an uncorrectable error writes nothing (R115, R191, R192). -/
def sramStore (r : Reader) (a size : Nat) (w : Word) (u : Upset) (s : State) : State :=
  if size = 4 then sramWord a w s
  else
    let t := eccRead r a u s
    if t.2 then t.1.modFab fun f => { f with sram := writeLE f.sram a size w.toNat } else t.1

/-- The upset that a step's operand names for a word. -/
def upsetAt (ups : List (Nat × Upset)) (a : Nat) : Upset := tget .none ups (a / 4 * 4)

end Sys2Proof.Machine
end

