-- ==== Sys2Proof/Machine/Ops.lean ====
section
/-! DEFINITION. The shared operations of the cores: stacks with their spill regions (R55, R56, R96), late results (R63 to R65),
traps as they are raised (R147, R148), the Miller's charge (R252, R255, R258), issue (R50, R52, R59, R72, R86, R88), the EXIT
return (R93), the context status word (R142), handler entry and its faults (R158, R159, R164, R165) and IRET's restore (R166). -/

namespace Sys2Proof.Machine

open Sys2Proof

/-! ## Stacks -/

/-- What an instruction works on before it commits: its context, the core's D-local memory, and the ic charged beside
its issue slots: 2 for each cell moved, and the trailing cycles of its microwords (Table 11.1). -/
abbrev View := Ctx × Table Byte × Nat

/-- A trap cause and the value for TRAP_ADDR (Table 6.1). -/
abbrev TrapCA := Nat × Nat

/-- The stack concerned: the return stack when `r`. -/
def stkOf (r : Bool) (x : Ctx) : List Word := if r then x.rs else x.ds
def stkPtr (r : Bool) (x : Ctx) : BitVec 16 := if r then x.rspPtr else x.dspPtr
def stkBase (r : Bool) (x : Ctx) : BitVec 16 := if r then x.rspBase else x.dspBase
def stkLimit (r : Bool) (x : Ctx) : BitVec 16 := if r then x.rspLimit else x.dspLimit
def setStk (r : Bool) (x : Ctx) (cells : List Word) (ptr : BitVec 16) : Ctx :=
  if r then { x with rs := cells, rspPtr := ptr } else { x with ds := cells, dspPtr := ptr }

/-- Data cells in the spill region (R101). -/
def spilledCells (base ptr : BitVec 16) : Nat := (ptr.toNat - base.toNat) / 4

/-- The number of data-stack cells a context holds (R101). -/
def dataDepth (x : Ctx) : Nat := x.ds.length + spilledCells x.dspBase x.dspPtr

/-- A late result written into the position of a stack that it names, counted from the bottom (R64). -/
def landInto (base ptr : BitVec 16) (ds : List Word) (l : Land) : List Word :=
  let sp := spilledCells base ptr
  let n := ds.length
  if sp ≤ l.pos ∧ l.pos < sp + n then ds.set (sp + n - 1 - l.pos) l.val else ds

/-- A late result lands: in its cell or register, with the flags it carries (R64, R98, R176). -/
def applyLand (x : Ctx) (l : Land) : Ctx :=
  let y : Ctx := { x with vf := l.vf.getD x.vf, cf := l.cf.getD x.cf }
  match l.dst with
  | .data => { y with ds := landInto x.dspBase x.dspPtr x.ds l }
  | .ret => { y with rs := landInto x.rspBase x.rspPtr x.rs l }
  | .t0 => { y with t0 := l.val }
  | .t1 => { y with t1 := l.val }
  | .issue => { y with cxIssue := l.val }
  | .ucnt => y
  | .flags => y

/-- What a squash would restore receives a late result of an older instruction (R64, R71). -/
def landSnap (x : Ctx) (l : Land) (h : Snap) : Snap :=
  if h.lands.any (fun q => q.id == l.id) then
    let y := applyLand
      { x with ds := h.ds, rs := h.rs, dspPtr := h.dspPtr, rspPtr := h.rspPtr, cf := h.cf, vf := h.vf, t0 := h.t0, t1 := h.t1, cxIssue := h.cxIssue } l
    { h with
      ds := y.ds, rs := y.rs, cf := y.cf, vf := y.vf, t0 := y.t0, t1 := y.t1, cxIssue := y.cxIssue
      lands := h.lands.filter fun q => q.id != l.id }
  else h

/-- Every late result lands, oldest first (R148: at an entry every older instruction has its result). -/
def landAll (x : Ctx) : Ctx := { x.lands.foldl applyLand x with lands := [] }

/-- A late result is due in the oldest on-chip cell of a stack. -/
def dueOldest (r : Bool) (x : Ctx) (l : Land) : Bool :=
  l.dst == (if r then .ret else .data) && l.pos == spilledCells (stkBase r x) (stkPtr r x)

/-- The results still due in the oldest on-chip cell of a stack land before it is spilled ("When things coincide", chapter 3). -/
def landOldest (r : Bool) (x : Ctx) : Ctx :=
  { (x.lands.filter (dueOldest r x)).foldl applyLand x with lands := x.lands.filter fun l => !dueOldest r x l }

/-- What a spill overwrites is kept with the newest unresolved BZ, for a squash (R71). -/
def noteUndo (x : Ctx) (a : Nat) (old : Word) : Ctx :=
  match x.snaps.reverse with
  | [] => x
  | h :: t => { x with snaps := (({ h with undo := (a, old) :: h.undo } : Snap) :: t).reverse }

/-- A stack trap: TRAP_ADDR will hold PTR of the stack concerned (Table 6.1), which the trap leaves as it stands before the instruction; until it is
raised, 1 names the return stack. -/
def stackTrap (cause : Nat) (r : Bool) : TrapCA := (cause, b2n r)

/-- One spill: check, write the oldest cell at PTR, add 4 (R55, R56). -/
def spill1 (r : Bool) (v : View) : Except TrapCA View :=
  let x := landOldest r v.1
  let p := stkPtr r x
  if (stkBase r x).toNat ≤ p.toNat ∧ p.toNat < (stkLimit r x).toNat then
    let y := noteUndo x p.toNat (readWord v.2.1 p.toNat)
    .ok (setStk r y (stkOf r y).dropLast (p + 4), writeWord v.2.1 p.toNat ((stkOf r x).getLastD 0), v.2.2 + 2)
  else .error (stackTrap 0x03 r)

/-- One fill: check, subtract 4, read the cell at PTR (R55, R56). -/
def fill1 (r : Bool) (v : View) : Except TrapCA View :=
  let p := stkPtr r v.1
  if (stkBase r v.1).toNat < p.toNat ∧ p.toNat ≤ (stkLimit r v.1).toNat then
    .ok (setStk r v.1 (stkOf r v.1 ++ [readWord v.2.1 (p - 4).toNat]) (p - 4), v.2.1, v.2.2 + 2)
  else .error (stackTrap 0x04 r)

/-- n transfers of one kind. -/
def repeatT (f : View → Except TrapCA View) : Nat → View → Except TrapCA View
  | 0, v => .ok v
  | n + 1, v => match f v with
    | .ok u => repeatT f n u
    | .error t => .error t

/-- Fills until n cells are on chip (R96). -/
def need (r : Bool) (n : Nat) (v : View) : Except TrapCA View := repeatT (fill1 r) (n - (stkOf r v.1).length) v

/-- Spills until n more cells fit on chip (R96); a stack that does not grow spills nothing. -/
def room (r : Bool) (n : Nat) (v : View) : Except TrapCA View :=
  repeatT (spill1 r) (if n = 0 then 0 else (stkOf r v.1).length + n - 16) v

/-- An instruction that reads nd data and nr return cells, grows the stacks by pd and pr, and then acts (R96). -/
def stackOp (nd nr pd pr : Nat) (act : Ctx → Except TrapCA Ctx) (v : View) : Except TrapCA View :=
  match need false nd v with
  | .error t => .error t
  | .ok v1 => match need true nr v1 with
    | .error t => .error t
    | .ok v2 => match room false pd v2 with
      | .error t => .error t
      | .ok v3 => match room true pr v3 with
        | .error t => .error t
        | .ok v4 => match act v4.1 with
          | .error t => .error t
          | .ok x => .ok (x, v4.2.1, v4.2.2)

/-- The top data cell becomes a late result: it keeps what it holds until the result lands (R63, R64); in deterministic mode the
distance has elapsed by the next slot (R65). -/
def lateTop (det : Bool) (val : Word) (vf : Option Bool) (x : Ctx) : Ctx :=
  let l : Land := { id := x.nextLand, pos := dataDepth x - 1, val := val, vf := vf }
  if det then applyLand x l else { x with lands := x.lands ++ [l], nextLand := x.nextLand + 1 }

/-- The stale content of a cell that an instruction pushes without popping (R64): a copy of the top cell, which may stand in the spill region `m`,
or 0 with the stack empty. -/
def staleTop (x : Ctx) (m : Table Byte) : Word :=
  match x.ds with
  | a :: _ => a
  | [] => if dataDepth x = 0 then 0 else readWord m (x.dspPtr - 4).toNat

/-! ## Traps -/

/-- The place of a cause among those that one instruction can meet: Order of Table 6.1, and among equals the order of R147. -/
def trapOrder (cause : Nat) : Nat :=
  match cause with
  | 0x09 => 1
  | 0x01 => 2
  | 0x02 => 3
  | 0x04 => 4
  | 0x03 => 5
  | 0x06 => 6
  | 0x0A => 7
  | 0x07 => 8
  | 0x08 => 9
  | 0x05 => 10
  | 0x0D => 11
  | 0x0C => 12
  | 0x0B => 13
  | _ => 14

/-- Of two causes met by one instruction, the one raised; `a` first among equals (R147). -/
def firstTrap (a b : TrapCA) : TrapCA := if trapOrder b.1 < trapOrder a.1 then b else a

/-- TRAP_ADDR of a cause (Table 6.1): a stack trap holds PTR of its stack. -/
def trapAddrOf (x : Ctx) (cause addr : Nat) : Word :=
  if cause = 0x03 ∨ cause = 0x04 then wd (stkPtr (decide (addr = 1)) x).toNat else wd addr

/-- A trap is raised: nothing else changes but that the work of an instruction under way is discarded, and nothing more of the context issues before
its entry (R148, R157, R179). -/
def raiseTrap (c cause addr : Nat) (s : State) : State :=
  s.modCtx c fun x => { x with trap := some ⟨BitVec.ofNat 8 cause, trapAddrOf x cause addr, 0, 0, false⟩, mid := none, entered := false }

/-- TRAP and BRK, which save the next address and, for TRAP, pop at the entry (R134, R148, R149). -/
def raiseSoft (c cause : Nat) (arg : BitVec 8) (pops : Nat) (s : State) : State :=
  s.modCtx c fun x => { x with trap := some ⟨BitVec.ofNat 8 cause, 0, arg, pops, true⟩, mid := none, entered := false }

/-! ## The Miller's charge -/

/-- What a charge leaves of meter and slack credit: the meter down to zero first, then the slack, then debt (R255, R262). -/
def chargeMeter (meter : Int) (slack n : Nat) : Int × Nat :=
  let m := min n meter.toNat
  let sl := min (n - m) slack
  (meter - m - ((n - m - sl : Nat) : Int), slack - sl)

/-- The warning level is passed downwards (R258). -/
def warnPassed (pct eff : Nat) (before after : Int) : Bool :=
  decide (pct ≠ 0) && decide ((pct * eff : Nat) ≤ before * 100) && decide (after * 100 < ((pct * eff : Nat) : Int))

/-- n ic are charged to the core meter of a context's account on its island (R252); a deterministic core charges none (R266). -/
def chargeCore (c n : Nat) (s : State) : State :=
  let k := coreOf c
  if (s.core k).det then s
  else
    let a := (s.ctx c).acct.toNat
    let q := s.acct a
    let m := tget 0 q.coreMeters k
    let r := chargeMeter m (tget 0 q.coreSlack k) n
    let t := s.setAcct a
      { q with
        coreMeters := tput k r.1 q.coreMeters
        coreSlack := tput k r.2 q.coreSlack
        chargedCore := tput k (tget 0 q.chargedCore k + n) q.chargedCore }
    if k ≠ 16 ∧ warnPassed q.warnPct.toNat q.eff.core m r.1 = true ∧ a ∉ (s.core k).warned then
      raiseLine k 5 (t.modCore k fun x => { x with warned := a :: x.warned })
    else t

/-- Payload bytes charged to an account's host DMA meter (R252). -/
def chargeDma (a n : Nat) (s : State) : State :=
  s.modAcct a fun q =>
    let r := chargeMeter q.dmaMeter q.dmaSlack n
    { q with dmaMeter := r.1, dmaSlack := r.2, chargedDma := q.chargedDma + n }

/-- Payload bytes charged to an account's twin meter (R252). -/
def chargeTwin (a n : Nat) (s : State) : State :=
  s.modAcct a fun q =>
    let r := chargeMeter q.twinMeter q.twinSlack n
    { q with twinMeter := r.1, twinSlack := r.2, chargedTwin := q.chargedTwin + n }

/-- Cycles charged to an account's Cauldron meter (R234). -/
def chargeCx (a n : Nat) (s : State) : State :=
  s.modAcct a fun q =>
    let r := chargeMeter q.cxMeter q.cxSlack n
    { q with cxMeter := r.1, cxSlack := r.2, chargedCx := q.chargedCx + n }

/-- A request of an account may go: it is within budget, borrows, or belongs to ACCT_0 (R255, R257). -/
def mayGo (a : Nat) (meter : Int) (slack : Nat) : Bool := a == 0 || decide (0 < meter) || decide (0 < slack)

/-- The core meter of a context's account on its island is spent and holds no slack credit: such a context issues nothing more (R54, R255); ACCT_0
and the contexts of a deterministic core are never held back (R257, R266). -/
def coreSpent (s : State) (c : Nat) : Bool :=
  let k := coreOf c
  let q := s.acct (s.ctx c).acct.toNat
  decide ((s.ctx c).acct ≠ 0) && !(s.core k).det && decide (tget 0 q.coreMeters k ≤ 0) && decide (tget 0 q.coreSlack k = 0)

/-- An account was starved of a resource in this turn (R263): 0 core, 1 Cauldron, 2 DMA, 3 twin. -/
def noteStarved (a res : Nat) (s : State) : State :=
  s.modAcct a fun q => if res ∈ q.starvedNow then q else { q with starvedNow := res :: q.starvedNow }

/-! ## Issue -/

/-- Which I-space addresses a context may fetch from (R59, R86, R88, R195). DESIGN CHOICE: a line of the host window that the I-cache holds is tested
against the map as any other fetch (log 105). -/
def fetchOk (s : State) (c : Nat) (pc : BitVec 24) : Bool :=
  let k := coreOf c
  let a := pc.toNat
  let det := (s.core k).det
  if a < (if k = 16 then 0x20000 else 0x4000) then true
  else if a < 0x400000 then false
  else if det then false
  else if a < 0x800000 then true
  else
    let n := (s.ctx c).ibank.toNat
    let w := s.win n
    w.v && w.rd && w.ex && decide (a - 0x800000 < 2 ^ w.size) && decide (n ∈ (s.rights k).win)

/-- A context whose next microword may issue: it is in RUN with no trap raised, its meter is not spent unless it holds a lock, its island runs, and
the Gorgar has not failed (R50, R54, R124, R255, R477). -/
def microReady (s : State) (c : Nat) : Bool :=
  decide (c < 68) && decide ((s.ctx c).st = .run) && (s.ctx c).trap.isNone && (!coreSpent s c || (s.ctx c).hold.isSome) &&
  islandRuns s (domOf (coreOf c)) && !s.host.fatal

/-- A context that may issue an instruction: no instruction of it stands between two of its microwords (R52, R54). -/
def ready (s : State) (c : Nat) : Bool := microReady s c && (s.ctx c).mid.isNone

/-- A line enters the I-cache, over a line of its set when both ways hold one (R76, R77). -/
def keepLine (k : Nat) (l : ILine) (s : State) : State :=
  let q := s.core k
  let ways := q.icache.filter fun m => m.addr / 32 % 128 == l.addr / 32 % 128
  let kept := if ways.length < 2 then q.icache
    else q.icache.filter fun m => some m != ways[(b2n (Config.evict s.free))]?
  { s.modCore k fun x => { x with icache := kept ++ [l] } with free := s.free + 1 }

/-- A miss of the I-cache (R76). -/
def countIcMiss (k : Nat) (s : State) : State := s.modCore k fun x => { x with icMiss := satInc x.icMiss }

/-- I-cache and fetch buffer: a fetch through a code window that the I-cache does not hold counts in IC_MISS, and a line of it is filled; a fetch of
shared SRAM meets its check bits, and a line with an uncorrectable word is not kept (R76, R77, R130, R187, R191, R203). An instruction that
stands between two of its microwords has been fetched. -/
def fetchLine (c : Nat) (s : State) : State :=
  let k := coreOf c
  let q := s.core k
  let a := (s.ctx c).pc.toNat
  let b := if a < 0x800000 then 0 else (s.ctx c).ibank.toNat
  let la := a / 32 * 32
  let sram := 0x10000000 + (a - 0x400000)
  if a < 0x400000 ∨ q.det ∨ (s.ctx c).mid.isSome then s
  else if q.icEn = false then (if a < 0x800000 then (eccRead (readerOf c) sram .none s).1 else s)
  else if 0x800000 ≤ a then
    (if (s.win b).cc = false ∨ q.icache.any (fun l => l.addr == la && l.ibank == b) then s
     else keepLine k ⟨la, b, []⟩ (countIcMiss k s))
  else if q.icache.any (fun l => l.addr == la && l.ibank == b) then s
  else
    let r := readLineEcc (readerOf c) (sram / 32 * 32) 8 (countIcMiss k s)
    if r.2 then keepLine k ⟨la, b, readWords r.1.fab.sram (sram / 32 * 32) 8⟩ r.1 else r.1

/-- An instruction that meets a trap has issued one microword, which is charged (R148, R252). -/
def chargeTrap (c : Nat) (s : State) : State := if (s.ctx c).trap.isSome then chargeCore c 1 s else s

/-- An instruction that meets a trap has been fetched, and its microword is charged (R148, R252). -/
def fetchTrap (c : Nat) (s : State) : State := if (s.ctx c).trap.isSome then chargeCore c 1 (fetchLine c s) else s

/-- An instruction of a context issues when the context is ready; one that may not issue speculatively waits for every older BZ
(R72); an address that cannot be fetched traps (R59). Otherwise nothing happens yet. -/
def issue (spec : Bool) (c : Nat) (go : State → State) (s : State) : State :=
  if ready s c = false then s
  else if spec = false ∧ (s.ctx c).snaps ≠ [] then s
  else if fetchOk s c (s.ctx c).pc then fetchTrap c (go s)
  else chargeTrap c (raiseTrap c 0x09 (s.ctx c).pc.toNat s)

/-- An instruction that stands between two of its microwords goes on (`more`); with none there it issues (R54, R107, R179). -/
def issueOrResume (spec : Bool) (c : Nat) (go : State → State) (more : Mid → State → State) (s : State) : State :=
  match (s.ctx c).mid with
  | none => issue spec c go s
  | some m => if microReady s c then chargeTrap c (more m s) else s

/-- Whether an opcode's dispatch entry lies in the vendor region (Table 7.1). -/
def vendorOp (op : Nat) : Bool := decide (op < 0x80 ∨ (0xF0 ≤ op ∧ op ≤ 0xF3))

/-- The dispatch entry of a basic op of chapters 4 and 5 is loaded (R169): the mask-ROM default of an allocated opcode is (R182), and an entry that has
been written since has its V. -/
def opLoaded (s : State) (c op : Nat) : Bool :=
  match (s.core (coreOf c)).dispatch.find? fun e => e.1 == op with
  | some e => bit e.2 10
  | none => true

/-- A basic op that passes decode: bits [11:9] are zero and its dispatch entry is loaded (R90, R169). -/
def legalOp (s : State) (c op : Nat) (f : BitVec 4) : Bool := decide (f.toNat < 2) && opLoaded s c op

/-- What every retiring instruction does besides its own effect and its fetch: n issue slots counted in CTX_CYCLES and charged with `more` ic
(Tables 3.2 and 11.1). -/
def account (c n more : Nat) (s : State) : State :=
  chargeCore c (n + more) (s.modCtx c fun x => { x with cycles := x.cycles + wd n, fbuf := true, entered := false })

/-- A trail entry of a retiring control-flow instruction; while an older BZ is unresolved it waits for it (R72, R480). -/
def trailFlow (c : Nat) (frm : BitVec 24) (kind : Nat) (dest : BitVec 24) (s : State) : State :=
  let w := trailWords c frm kind dest 0
  match (s.ctx c).snaps.reverse with
  | [] => trailPut (coreOf c) w.1 w.2 s
  | h :: t => s.modCtx c fun x => { x with snaps := (({ h with due := h.due ++ [w] } : Snap) :: t).reverse }

/-- Whether a branch target is refused (R132). -/
def badTarget (w : Word) : Bool := bit w 0 || decide (2 ^ 24 ≤ w.toNat)

/-- A return: pops the return stack into the program counter, after the check of its target (R93, R132). -/
def popReturn (v : View) : Except TrapCA (View × BitVec 24) :=
  match need true 1 v with
  | .error t => .error t
  | .ok u =>
    let w := u.1.rs.headD 0
    if badTarget w then .error (0x09, w.toNat) else .ok (({ u.1 with rs := u.1.rs.tail }, u.2), BitVec.ofNat 24 w.toNat)

/-- What an operation does to the return stack before an EXIT's return takes its top (R93). -/
inductive RetUse where
  | keeps
  | pops
  | pushes
deriving DecidableEq, Repr

/-- The trap that the EXIT's return of an operation would meet, found on the stacks before it (R93, R96, R132): the return cell is the top, the cell
below one that the operation pops, or the data cell that it pushes. -/
def returnTrap (use : RetUse) (v : View) : Option TrapCA :=
  match (match use with
    | .keeps => popReturn v
    | .pops => match need true 2 v with
      | .ok u => popReturn ({ u.1 with rs := u.1.rs.tail }, u.2)
      | .error t => .error t
    | .pushes => match need false 1 v with
      | .ok u => popReturn ({ u.1 with rs := u.1.ds.headD 0 :: u.1.rs }, u.2)
      | .error t => .error t) with
  | .error t => some t
  | .ok _ => none

/-- Of the trap that an operation meets and its EXIT's, the one raised (R147). -/
def orReturn (exit : Bool) (use : RetUse) (v : View) (t : TrapCA) : TrapCA :=
  if exit then firstTrap t ((returnTrap use v).getD t) else t

/-- An instruction's work with the EXIT return after it: every trap is found before anything changes, and the one of lowest
order is raised (R93, R132, R147). -/
def withExit (exit : Bool) (use : RetUse) (body : View → Except TrapCA View) (next : BitVec 24) (v : View) :
    Except TrapCA (View × BitVec 24) :=
  match body v with
  | .ok u => if exit then popReturn u else .ok (u, next)
  | .error t => .error (orReturn exit use v t)

/-- The trap of an EXIT's return alone, for an operation that leaves the return stack as it is. -/
def exitTrap (exit : Bool) (v : View) : Option TrapCA := if exit then returnTrap .keeps v else none

/-- Of an access's trap and its EXIT's, the one raised (R147). -/
def joinTrap : Option TrapCA → Option TrapCA → Option TrapCA
  | some a, some b => some (firstTrap a b)
  | some a, none => some a
  | none, b => b

/-- The view of a context. -/
def viewOf (s : State) (c : Nat) : View := (s.ctx c, (s.core (coreOf c)).dlocal, 0)

/-- An instruction's work becomes the state of its context and core. -/
def commit (c slots : Nat) (v : View) (pc : BitVec 24) (s : State) : State :=
  account c slots v.2.2
    (((fetchLine c s).modCore (coreOf c) fun k => { k with dlocal := v.2.1 }).setCtx c { v.1 with pc := pc })

/-- An operation that leaves the return stack as it is meets a trap before anything changes; its EXIT may meet another of lower order (R93, R147). -/
def raiseOr (c : Nat) (exit : Bool) (t : TrapCA) (s : State) : State :=
  raiseTrap c (orReturn exit .keeps (viewOf s c) t).1 (orReturn exit .keeps (viewOf s c) t).2 s

/-- EXIT of a basic op's field [11:8] (Table 4.1). -/
def exitBit (f : BitVec 4) : Bool := bit f 0

/-- A basic op whose whole work is on the stacks: illegal when bits [11:9] are not zero or its dispatch entry is not loaded (R90, R169), otherwise
it runs and, with EXIT, returns (R93, R480). -/
def stackInstr (op : Nat) (use : RetUse) (c : Nat) (f : BitVec 4) (slots : Nat) (body : Bool → View → Except TrapCA View) (s : State) : State :=
  issue true c (fun s =>
    if legalOp s c op f = false then raiseTrap c 0x01 0 s
    else
      let pc := (s.ctx c).pc
      match withExit (exitBit f) use (body (s.core (coreOf c)).det) (pc + 2) (viewOf s c) with
      | .error t => raiseTrap c t.1 t.2 s
      | .ok r =>
        let t := commit c slots r.1 r.2 s
        if exitBit f then trailFlow c pc 4 r.2 t else t) s

/-! ## The context status word -/

/-- CSW (Table 5.8). -/
def cswOf (s : State) (c : Nat) : Word :=
  let x := s.ctx c
  wd (b2n x.cf + 2 * b2n x.vf + 4 * b2n x.ie + 8 * b2n (s.core (coreOf c)).det + 16 * b2n (isS c) + 32 * b2n x.inh +
    64 * x.pri.toNat)

/-! ## Handler entry and return -/

/-- Every unresolved BZ's younger work is undone: the context stands as it stood after the oldest BZ, at the BZ's own outcome
(R71, R161). CTX_CYCLES is a register of the context and goes back; the meters and the miss counters keep what the core has done (log 102). -/
def squash (c : Nat) (s : State) : State :=
  match (s.ctx c).snaps with
  | [] => s
  | h :: t =>
    let undo := ((h :: t).reverse.map fun q => q.undo).flatten
    (s.modCore (coreOf c) fun k => { k with dlocal := undo.foldl (fun m e => writeWord m e.1 e.2) k.dlocal }).modCtx c
      fun x =>
        { x with
          ds := h.ds, rs := h.rs, dspPtr := h.dspPtr, rspPtr := h.rspPtr, cf := h.cf, vf := h.vf, lands := h.lands
          cxIssue := h.cxIssue, cycles := h.cycles, t0 := h.t0, t1 := h.t1, mid := none, ufin := none
          pc := if h.taken then h.target else h.bzPc + 2
          trap := none, snaps := [] }

/-- The line that LDTRY or a far load holds is dropped (R117). -/
def dropLine (c : Nat) (s : State) : State := s.modCtx c fun x => { x with line := none }

/-- A twin request that a context's abandoned work leaves behind: its LOCK. -/
def TwinUse.isLockOf (c : Nat) : TwinUse → Bool
  | .lock d _ => d == c
  | _ => false

/-- A twin request of a context's abandoned work that has not left yet: its LOCK or its line. -/
def TwinUse.isWaitOf (c : Nat) : TwinUse → Bool
  | .lock d _ => d == c
  | .line d _ => d == c
  | _ => false

/-- A context's work under way is abandoned: WAIT keeps its mask; a far load, LOCK, long operation, divide or user op runs again later from its
first microword, and the cycles it has used stay counted and charged (R107); retries of a LOCK stop, and its late reply is discarded by its tag
(R68, R161, R179, R473). -/
def abandonWork (c : Nat) (s : State) : State :=
  let t := s.modFab fun k =>
    { k with
      lockWait := k.lockWait.filter fun d => d != c
      treqs := k.treqs.filter fun r => !r.use.isLockOf c
      twinHold := k.twinHold.filter fun u => !u.isWaitOf c }
  dropLine c (t.modCtx c fun x =>
    { x with
      st := if x.st = .wait ∨ x.st = .long then .run else x.st
      evWmask := 0, long := none, longExit := false, mid := none, ufin := none })

/-- An entry fault: the context halts with cause 0x10, the fault is logged (R158), and its `n` entry cycles are charged (R252). -/
def entryFault (c : Nat) (saved : BitVec 24) (addr n : Nat) (s : State) : State :=
  logFault 0x0C 1 0 c (domOf (coreOf c)) none 0x10 addr
    (haltCtx c 0x10 (chargeCore c n (s.modCtx c fun x =>
      { x with trapCause := 0x10, trapArg := 0, trapAddr := wd addr, trapPc := saved, pc := saved, trap := none })))

/-- Length of an entry (R159, R160): 14 ic in deterministic mode, 9 ic and the delays otherwise, at most 13 with the handler in
local code memory. -/
def entryLength (s : State) (c : Nat) (handler : BitVec 24) (delay : Nat) : Nat :=
  if (s.core (coreOf c)).det then 14
  else if handler.toNat < (if isS c then 0x20000 else 0x4000) then 9 + min delay 13 else 9 + delay

/-- The entry sequence (R158, R159, R164, R165): `saved` is the return address, `codeCell` the code that the CSW cell keeps,
`cause` the code written, `word` the vector's index and `pri` the new priority; `regs` writes the trap registers (R149) and
`select` is the selection step. -/
def enterHandler (c : Nat) (saved : BitVec 24) (codeCell cause word : Nat) (pri : Option (BitVec 2)) (delay : Nat)
    (regs : Ctx → Ctx) (select : State → State) (s : State) : State :=
  let k := coreOf c
  let csw := (cswOf s c).toNat % 256 + codeCell * 256
  match room true 2 (viewOf s c) with
  | .error _ => entryFault c saved (s.ctx c).rspPtr.toNat (3 + delay) s
  | .ok u =>
    let x := regs { u.1 with
      rs := wd csw :: wd saved.toNat :: u.1.rs, inh := true, pri := pri.getD u.1.pri, trap := none
      trapCause := BitVec.ofNat 8 cause }
    let s1 := select ((s.modCore k fun q => { q with dlocal := u.2.1 }).setCtx c x)
    let va := x.vecBase.toNat + 4 * word
    let vw := readWord u.2.1 va
    if dlocalSize k < x.vecBase.toNat + 68 ∨ bit vw 0 = false ∨ 2 ^ 24 ≤ vw.toNat then
      entryFault c saved va (9 + delay + u.2.2) s1
    else
      let h : BitVec 24 := BitVec.ofNat 24 (vw.toNat / 2 * 2)
      let n := entryLength s1 c h delay
      let w := trailWords c saved 6 h cause
      trailPut k w.1 w.2 (chargeCore c (n + u.2.2) (s1.modCtx c fun y =>
        { y with pc := h, entered := true, entryCyc := BitVec.ofNat 8 (min n 255), fbuf := true }))

end Sys2Proof.Machine
end

