-- ==== Sys2Proof/Machine/Complete.lean ====
section
/-! DEFINITION. Sending on Twinlink (R326 to R330), completion entries, unsolicited completions and MSI-X messages (R282, R286 to
R294, R343, R474), and when a ring's command may start (R291). -/

namespace Sys2Proof.Machine

open Sys2Proof

/-! ## Twinlink packets -/

/-- A packet leaves on the lanes while they are up. -/
def putOnLanes (p : Pkt) (s : State) : State :=
  if s.twin.lanesUp then s.modTwin fun t => { t with tsent := t.tsent ++ [p] } else s

/-- An unsequenced packet (REL = 0). -/
def sendPlain (type : Nat) (tag : BitVec 16) (ws : List Word) (s : State) : State :=
  putOnLanes ⟨BitVec.ofNat 8 type, false, 0, tag, ws, none⟩ s

/-- A reliable packet takes the next SEQ and a place in the replay buffer; with 32 unacknowledged it is held (R329). -/
def sendRel (type : Nat) (tag : BitVec 16) (ws : List Word) (r : Option ShadowRec) (s : State) : State :=
  let p : Pkt := ⟨BitVec.ofNat 8 type, true, s.twin.txSeq, tag, ws, r⟩
  let t := s.modTwin fun t => { t with txSeq := t.txSeq + 1 }
  if s.twin.replayBuf.length < 32 then putOnLanes p (t.modTwin fun t => { t with replayBuf := t.replayBuf ++ [p] })
  else t.modTwin fun t => { t with heldPkts := t.heldPkts ++ [p] }

/-- A reply to a twin-bridge request: ACK (0x0E) or NAK (0x0F) with TXNV = 1 (R328). -/
def sendReply (type : Nat) (tag : BitVec 16) (code : Nat) (s : State) : State :=
  sendRel type tag [0, wd (code + 256)] none s

/-- Whether a primary forwards records to its twin (R343, R350). -/
def shadowing (s : State) : Bool := decide (s.twin.st = .primary) && !s.twin.detached

/-- A SHADOW packet of a primary (Table 14.5). -/
def sendShadow (r : ShadowRec) (s : State) : State := if shadowing s then sendRel 0x03 0 [] (some r) s else s

/-! ## The host bridge and MSI-X -/

/-- The bridge may send: the link is up and its crossing with it, Bus Master Enable is 1 and the function is in D0 (R47, R204, R272). -/
def canSend (s : State) : Bool := s.host.linkUp && (s.xing 21).up && s.host.busMaster && !s.host.d3hot

/-- A transaction leaves on the PCIe link. -/
def sendTlp (t : Tlp) (s : State) : State := s.modHost fun h => { h with sent := h.sent ++ [t] }

/-- A vector's message: a masked one sets its PBA bit (R278, R294). -/
def sendMsix (v : Nat) (s : State) : State :=
  if 64 ≤ v ∨ s.host.msixEn = false ∨ canSend s = false then s
  else
    let m := tget {} s.host.msix v
    if m.mask ∨ s.host.msixMask then s.modHost fun h => { h with pba := putBit h.pba v true }
    else sendTlp (.msix v m.addr m.data) s

/-- Messages of unmasked vectors whose PBA bit is set are sent (R278, R294). -/
def sendPended (s : State) : State :=
  (List.range 64).foldl (fun t v =>
    if bit t.host.pba v && !(tget {} t.host.msix v).mask && !t.host.msixMask && t.host.msixEn && canSend t then
      sendMsix v (t.modHost fun h => { h with pba := putBit h.pba v false })
    else t) s

/-! ## Ring indices -/

/-- Entries of a ring. -/
def Ring.size (r : Ring) : Nat := 2 ^ r.log2n

/-- Entries from index a up to b, modulo N. -/
def ringSpan (n a b : Nat) : Nat := (b + n - a) % n

/-- Commands fetched and not completed together with completion entries not released (R282); records awaiting the standby hold a
slot already. -/
def Ring.used (r : Ring) : Nat := r.fetched.length + r.started.length + r.reruns.length + ringSpan r.size r.cqHead r.cqTail +
    (r.held.filter fun h => h.place.isNone).length + r.late.length

/-- Entries of ring n in reads that are under way. -/
def inFlight (s : State) (n : Nat) : Nat :=
  s.fab.tags.foldl (fun k e => match e.2 with
    | some t => (match t.use with | .desc m _ cnt => if m = n ∧ t.dead = false then k + cnt else k | _ => k)
    | none => k) 0

/-- Reads of a ring's descriptors that are under way yield nothing any more. -/
def dropReads (n : Nat) (s : State) : State :=
  s.modFab fun f => { f with tags := f.tags.map fun e => (e.1, e.2.map fun t => match t.use with
    | .desc m _ _ => if m = n then { t with dead := true } else t
    | _ => t) }

/-- Commands of ring n that a takeover runs again and that have not started: their entries are to be fetched, under way or fetched (R341). -/
def rerunsLeft (s : State) (n : Nat) : Bool :=
  let r := s.ring n
  !r.reruns.isEmpty || (r.fetched.any fun e => e.rerun) ||
  (s.fab.tags.any fun e => match e.2 with
    | some t => (match t.use with | .desc m _ cnt => m == n && cnt == 0 && !t.dead | _ => false)
    | none => false)

/-- The words of a completion entry (Table 12.8). -/
def cplWords (r0 r1 : Word) (sqHead : Nat) (cmd status : BitVec 16) (epoch : BitVec 8) (phase fence : Bool) : List Word :=
  [r0, r1, wd (sqHead + cmd.toNat * 2 ^ 16), wd (status.toNat + epoch.toNat * 2 ^ 16 + b2n phase * 2 ^ 24 + b2n fence * 2 ^ 25)]

/-- The ring after an entry has taken the slot at CQ_TAIL: the tail advances and PHASE inverts at the wrap (R289). -/
def Ring.advance (r : Ring) : Ring :=
  if r.cqTail + 1 < r.size then { r with cqTail := r.cqTail + 1 } else { r with cqTail := 0, phase := !r.phase }

/-- The message that follows an entry on ring n (R294). -/
def signalEntry (n : Nat) (status : BitVec 16) (noint : Bool) (s : State) : State :=
  let r := s.ring n
  if noint then s
  else if n = 0 then sendMsix 0 s
  else if r.vector = 0xFF then s
  else if status ≠ 0 ∨ r.coalUs = 0 ∨ r.coalN ≤ r.unsig + 1 then sendMsix r.vector.toNat (s.setRing n { r with unsig := 0 })
  else s.setRing n { r with unsig := r.unsig + 1 }

/-- An entry's Memory Write leaves for slot i of ring n, charged to the ring's account (R252, R289). -/
def sendEntry (n i : Nat) (ws : List Word) (s : State) : State :=
  chargeDma (s.ring n).acct.toNat 16 (sendTlp (.write ((s.ring n).cqBase + 16 * i) ws) s)

/-- An entry is written at CQ_TAIL of ring n and signalled (R288, R292). -/
def writeEntry (n : Nat) (cmd status : BitVec 16) (r0 r1 : Word) (epoch : BitVec 8) (noint fence : Bool) (s : State) : State :=
  let r := s.ring n
  signalEntry n status noint ((sendEntry n r.cqTail (cplWords r0 r1 r.sqHead cmd status epoch r.phase fence) s).setRing n r.advance)

/-- Unsolicited completions that have a free entry of RING_0 are written, oldest first; entries that its reads are fetching have theirs already (R282,
R286). -/
def flushUnsol : Nat → State → State
  | 0, s => s
  | k + 1, s =>
    match s.host.unsol with
    | [] => s
    | (st, r0, r1) :: t =>
      let r := s.ring 0
      if r.st = .active ∧ r.used + inFlight s 0 < r.size - 1 ∧ canSend s = true ∧ s.host.fatal = false then
        flushUnsol k (writeEntry 0 0xFFFF st r0 r1 r.epoch false false (s.modHost fun h => { h with unsol := t }))
      else s

/-- An unsolicited completion on RING_0: it waits behind at most 16 others, and one beyond is lost (R286). -/
def postUnsol (status : Nat) (r0 r1 : Word) (s : State) : State :=
  if s.host.fatal then s
  else if s.host.unsol.length ≤ 16 then
    flushUnsol 17 (s.modHost fun h => { h with unsol := h.unsol ++ [(BitVec.ofNat 16 status, r0, r1)] })
  else s.modHost fun h => { h with evLost := true }

/-- A ring enters FAILED for the fault with this SEQ, and RING_FAILED is posted with the ring and the SEQ (R474, R482). -/
def ringFailed (n : Nat) (seq : BitVec 16) (s : State) : State :=
  postUnsol 0x0105 (wd n) (wd seq.toNat)
    ((s.modFaults fun f => { f with frozen := true }).modRing n fun r => { r with st := .failed })

/-- A ring-fatal fault that no lower layer has logged (R474). -/
def ringFatal (n cause : Nat) (addr : Nat) (s : State) : State :=
  let t := logFault cause 2 0x0105 0x7F 0x1F (some n) 0 addr s
  ringFailed n t.faults.seq t

/-- A completion entry that cannot be written is held, line 3 of S is raised and the ring becomes ring-fatal (R474). -/
def holdEntry (n : Nat) (h : HeldCpl) (s : State) : State :=
  let t := s.modRing n fun r => { r with held := r.held ++ [h] }
  if (s.ring n).st = .failed then t else ringFatal n 0x0A 0 (raiseLine 16 3 t)

/-- A command's entry reaches the completion ring, or is held (R288, R474). -/
def deliverEntry (n : Nat) (cmd status : BitVec 16) (r0 r1 : Word) (epoch : BitVec 8) (noint : Bool) (s : State) : State :=
  if s.host.fatal then s
  else if canSend s && (s.ring n).held.isEmpty then writeEntry n cmd status r0 r1 epoch noint false s
  else holdEntry n ⟨none, cmd, status, r0, r1, epoch, noint⟩ s

/-- On a primary the entry first goes to the standby in a SHADOW packet of KIND 4 and waits for its link ACK; its slot is taken, and the
record is kept until the slot is released (R343, R350). RING_0 is never shadowed (R304). `fence` is FENCE_REC of the entry and `fenced` the FENCE
flag of its command. -/
def writeAhead (n : Nat) (cmd status : BitVec 16) (r0 r1 : Word) (epoch : BitVec 8) (noint fence fenced : Bool) (s : State) : State :=
  let r := s.ring n
  let ws := cplWords r0 r1 r.sqHead cmd status epoch r.phase fence
  let w : WahRec := ⟨n, r.cqTail, ws, s.twin.txSeq, status, noint, fenced, s.nowUs⟩
  (sendShadow (.completion n r.cqTail ws) (s.setRing n r.advance)).modTwin fun t =>
    { t with wah := t.wah ++ [w], shadow := { t.shadow with cpls := t.shadow.cpls ++ [(n, r.cqTail, ws)] } }

/-- Held entries are written with the epoch of their commands, oldest first (R474). -/
def writeHeld (n : Nat) (s : State) : State :=
  (s.ring n).held.foldl (fun t h => match h.place with
    | some p => signalEntry n h.status h.noint (sendEntry n p.1 p.2 t)
    | none => writeEntry n h.cmd h.status h.r0 h.r1 h.epoch h.noint false t)
    (s.modRing n fun r => { r with held := [] })

/-- RING_0 stops after EN = 0 as RING_RESET has it, without a fence (R277, R307): once its commands have ended and its held entries are written; until
then it is being reset. -/
def stopRing0 (s : State) : State :=
  let r := s.ring 0
  if r.started ≠ [] ∨ (r.held ≠ [] ∧ canSend s = false) then s.modRing 0 fun r => { r with resetting := true }
  else
    dropReads 0 ((writeHeld 0 s).modRing 0 fun r =>
      { r with
        st := .absent, fetched := [], sqHead := 0, sqTail := 0, epoch := r.epoch + 1, resetting := false, latchSq := none, latchCq := none
        latched := false })

/-- RING_0 is being stopped by EN = 0. -/
def ring0Stops (s : State) : Bool := (s.ring 0).resetting && !s.host.adminEn

/-- What waits for the bridge is tried again once it may send: unsolicited completions, messages whose PBA bit is set, and the held entries of a RING_0
that is being stopped (R277, R286, R294). -/
def bridgeBack (s : State) : State :=
  if canSend s then
    let t := flushUnsol 17 (sendPended s)
    if ring0Stops t then stopRing0 t else t
  else s

/-! ## Commands -/

/-- Fields of a submission entry (Table 12.7). -/
def SqEnt.opcode (e : SqEnt) : Nat := fld (nthW e.ws 0) 7 0
def SqEnt.flags (e : SqEnt) : Nat := fld (nthW e.ws 0) 15 8
def SqEnt.cmd (e : SqEnt) : BitVec 16 := BitVec.ofNat 16 (fld (nthW e.ws 0) 31 16)
def SqEnt.idemp (e : SqEnt) : Bool := bit (nthW e.ws 0) 8
def SqEnt.fence (e : SqEnt) : Bool := bit (nthW e.ws 0) 9
def SqEnt.noint (e : SqEnt) : Bool := bit (nthW e.ws 0) 10
def SqEnt.dw (e : SqEnt) (k : Nat) : Word := nthW e.ws k

/-- FLAGS [7:3] and bytes 0x04 to 0x07 are reserved, and every word from DW`k` on that the command does not name (R287). -/
def SqEnt.reservedOk (e : SqEnt) (k : Nat) : Bool :=
  decide (e.flags / 8 = 0) && decide (nthW e.ws 1 = 0) && (e.ws.drop k).all fun w => w == 0

/-- A command's completion on ring n, with the epoch in which it was fetched (R292, R343); a side that has stood down writes none (R336). -/
def complete (n : Nat) (e : SqEnt) (status : Nat) (r0 r1 : Word) (s : State) : State :=
  if n ≠ 0 ∧ s.twin.stoodDown = true then s
  else if n ≠ 0 ∧ shadowing s = true ∧ s.host.fatal = false then
    writeAhead n e.cmd (BitVec.ofNat 16 status) r0 r1 e.epoch e.noint false e.fence s
  else deliverEntry n e.cmd (BitVec.ofNat 16 status) r0 r1 e.epoch e.noint s

/-- Opcodes that a ring may carry (R296, Table 12.9). -/
def opcodeOk (n op : Nat) : Bool :=
  if n = 0 then decide (1 ≤ op ∧ op ≤ 0x14) else decide ((0x40 ≤ op ∧ op ≤ 0x43) ∨ op = 0x60 ∨ (0x70 ≤ op ∧ op ≤ 0x72))

/-- Whether the ring may start its next fetched entry, with the records of the ring that wait for the standby (R284, R291): a command has completed
once its entry is written. A command that a takeover runs again had started already, so neither a stop nor a reset keeps it (R307, R341). -/
def Ring.mayStart (r : Ring) (e : SqEnt) (recs : List WahRec) : Bool :=
  (if e.rerun then decide (r.st = .active ∨ r.st = .stopped) || r.resetting else decide (r.st = .active) && !r.resetting) &&
  (if r.order then
    decide (r.started.length < r.maxout) && (!e.fence || (r.started.isEmpty && r.held.isEmpty && recs.isEmpty)) &&
      !(r.started.any fun t => t.ent.fence) && !(recs.any fun w => w.fence)
  else r.started.isEmpty && r.held.isEmpty && recs.isEmpty) && r.late.isEmpty

/-- Records of the ring that still wait for the standby (R343): their entries have not been written. -/
def waitingRecs (s : State) (n : Nat) : List WahRec := s.twin.wah.filter fun w => w.ring == n
def recordsWait (s : State) (n : Nat) : Bool := !(waitingRecs s n).isEmpty

/-- The twin's role lets ring n take up work: in CONFLICT RING_0 only, and none but RING_0 on a side that has stood down (Table 14.3, R336). -/
def ringServed (s : State) (n : Nat) : Bool := n == 0 || !(s.twin.stoodDown || decide (s.twin.st = .conflict))

/-- The head of a ring's fetched entries, when it may start now. -/
def headOf (s : State) (n : Nat) : Option SqEnt :=
  match (s.ring n).fetched with
  | [] => none
  | e :: _ => if (s.ring n).mayStart e (waitingRecs s n) && ringServed s n && !s.host.fatal then some e else none

/-- The head entry with this opcode, when it may start now. -/
def headWith (s : State) (n op : Nat) : Option SqEnt :=
  match headOf s n with
  | some e => if e.opcode = op then some e else none
  | none => none

/-- The head leaves the fetched entries. -/
def dropHead (n : Nat) (s : State) : State := s.modRing n fun r => { r with fetched := r.fetched.tail }

/-- A primary forwards the start of a command (Table 14.5, KIND 5); RING_0 is never shadowed (R304). -/
def noteStart (n : Nat) (e : SqEnt) (s : State) : State :=
  if n = 0 then s else sendShadow (.started n e.slot e.cmd e.idemp) s

/-- The head starts and will complete later. -/
def startHead (n : Nat) (e : SqEnt) (s : State) : State :=
  noteStart n e
    (s.modRing n fun r => { r with fetched := r.fetched.tail, started := r.started ++ [⟨e.cmd, e, none⟩] })

/-- Entries at the head whose opcode the ring does not carry complete with BAD_OPCODE as they come up (R296). -/
def flushBad (n : Nat) : Nat → State → State
  | 0, s => s
  | k + 1, s =>
    match headOf s n with
    | none => s
    | some e =>
      if opcodeOk n e.opcode then s
      else flushBad n k (complete n e 0x0001 0 0 (noteStart n e (dropHead n s)))

/-- A command that runs in one step completes with a status and two results. -/
def completeHead (n : Nat) (e : SqEnt) (status : Nat) (r0 r1 : Word) (s : State) : State :=
  let t := complete n e status r0 r1 (noteStart n e (dropHead n s))
  flushBad n (t.ring n).fetched.length t

/-- A started command with this CMD_ID. -/
def startedCmd (s : State) (n : Nat) (cmd : BitVec 16) : Option Started := (s.ring n).started.find? fun t => t.cmd == cmd

/-- A started command ends: it leaves the started list and its entry is written (R291, R478). -/
def endCommand (n : Nat) (cmd : BitVec 16) (status : Nat) (r0 r1 : Word) (s : State) : State :=
  match startedCmd s n cmd with
  | none => s
  | some q =>
    let t := complete n q.ent status r0 r1
      (s.modRing n fun r => { r with started := r.started.filter fun t => t.cmd != cmd })
    if n = 0 ∧ ring0Stops t = true then stopRing0 t
    else flushBad n (t.ring n).fetched.length t

end Sys2Proof.Machine
end

