-- ==== Sys2Proof/Machine/Journal.lean ====
section
/-! DEFINITION. CRC-32 (Table 13.5) and CRC-16 (R387), and the journal as the resident firmware writes it (R438, R439). -/

namespace Sys2Proof.Machine

open Sys2Proof

/-! ## Checks -/

/-- One bit of a reflected CRC-32 register. -/
def crcShift (r : Word) : Word := if r.getLsbD 0 then (r >>> 1) ^^^ 0xEDB88320#32 else r >>> 1

/-- n bits of a reflected CRC-32 register. -/
def crcShifts : Nat → Word → Word
  | 0, r => r
  | n + 1, r => crcShifts n (crcShift r)

/-- CRC-32 with polynomial 0x04C1_1DB7, reflected, initial value and final XOR 0xFFFF_FFFF (Table 13.5), over words whose bytes are
taken least address first. -/
def crc32 (ws : List Word) : Word := ws.foldl (fun r w => crcShifts 32 (r ^^^ w)) 0xFFFFFFFF#32 ^^^ 0xFFFFFFFF#32

/-! ## The twin's role -/

/-- STATE of Table 14.3. -/
def TwinState.code : TwinState → Nat
  | .alone => 0
  | .claiming => 1
  | .primary => 2
  | .standby => 3
  | .catchup => 4
  | .conflict => 5
  | .taking => 6

/-- ROLE as DEV_STATUS reports it (R331, Table 14.3). -/
def TwinState.role : TwinState → Nat
  | .alone => 0
  | .claiming => 0
  | .primary => 1
  | .standby => 2
  | .catchup => 2
  | .conflict => 3
  | .taking => 2

/-! ## The journal -/

/-- Word w of journal slot b. -/
def jnlWord (s : State) (b : Bool) (w : Nat) : Word := readWord s.hearth.journal (4096 * b2n b + 4 * w)

/-- Words 0 to 1,022 of an entry, CRC-32 last (Table 18.2). -/
def jnlSeal (ws : List Word) : List Word :=
  let body := ws ++ List.replicate (1023 - ws.length) 0
  body ++ [crc32 body]

/-- An entry with this SEQ and REASON and every other field 0 (R440). -/
def jnlEmpty (seq : Word) (reason : Nat) : List Word := jnlSeal [wd (0x4A4E + 2 ^ 16), seq, 0, 0, wd reason]

/-- Readings recorded in the pass (Table 17.4, statistics word 0). -/
def readingsRecorded (s : State) : Word := tget 0 s.pass.stats 0

/-- STATUS of the frozen device-fatal entry that bring-up finds (R477): one of class 4. -/
def frozenFatal (s : State) : Option Nat :=
  if s.faults.frozen then
    ((s.faults.log.find? fun e => fld (nthW e.ws 0) 31 24 == 4 && !e.bad).map fun e => fld (nthW e.ws 1) 15 0)
  else none

/-- The entry that the firmware writes for a reason (Table 18.2, R439): its SEQ follows that of the other slot. What it says of the
last pass and the last device-fatal fault is the other slot's word when this bring-up has seen none. -/
def jnlEntry (s : State) (reason : BitVec 8) : List Word :=
  let o := !s.hearth.jnlNext
  let rtc := if s.hearth.rtcValid then s.hearth.rtc.toNat else 0
  let none_ := s.pass.dws.isEmpty
  jnlSeal ([wd (0x4A4E + 2 ^ 16), jnlWord s o 1 + 1, wd rtc, wd (rtc / 2 ^ 32), wd reason.toNat,
    wd (s.hearth.resetCause.toNat + s.boot.bringUps.toNat * 2 ^ 16),
    wd (s.twin.st.role + 4 * b2n s.pass.isOpen + 8 * b2n s.hearth.rtcValid),
    if reason = 7 then wd ((frozenFatal s).getD 0) else jnlWord s o 7] ++
    (if none_ then (List.range 14).map fun i => jnlWord s o (8 + i) else s.pass.dws.take 14) ++
    [if none_ then jnlWord s o 22 else wd s.pass.slot, if none_ then jnlWord s o 23 else readingsRecorded s])

/-- The next due entry begins while no other is being written and the Hearth runs from main (R439). -/
def jnlBegin (s : State) : State :=
  match s.hearth.jnlDue with
  | [] => s
  | r :: t =>
    if s.hearth.jnlRest ≠ [] ∨ s.hearth.onVbat then s
    else s.modHearth fun h =>
      { h with jnlDue := t, jnlRest := jnlEntry s r, jnlAt := 4096 * b2n h.jnlNext, jnlNext := !h.jnlNext }

/-- The firmware writes an entry for a reason (R439). -/
def journal (reason : Nat) (s : State) : State :=
  jnlBegin (s.modHearth fun h => { h with jnlDue := h.jnlDue ++ [BitVec.ofNat 8 reason] })

/-- n more words of the entry in progress are written, in ascending order (R439). -/
def jnlAdvance (n : Nat) (s : State) : State :=
  jnlBegin (s.modHearth fun h =>
    { h with journal := writeWords h.journal h.jnlAt (h.jnlRest.take n), jnlAt := h.jnlAt + 4 * (h.jnlRest.take n).length, jnlRest := h.jnlRest.drop n })

/-- A slot whose MAGIC, FORMAT and CRC-32 match (R438). -/
def jnlValid (s : State) (b : Bool) : Bool :=
  decide (jnlWord s b 0 = wd (0x4A4E + 2 ^ 16)) &&
  decide (jnlWord s b 1023 = crc32 (readWords s.hearth.journal (4096 * b2n b) 1023))

/-- SEQ a is newer than SEQ b (R440). -/
def seqNewer (a b : Word) : Bool := decide (1 ≤ (a - b).toNat) && decide ((a - b).toNat ≤ 2 ^ 31 - 1)

end Sys2Proof.Machine
end

