-- ==== Sys2Proof/Machine/Islands.lean ====
section
/-! DEFINITION. Cancelling Cauldron ops (R233), resetting and powering off an island (R47, R51, R182, R211, R235, R238, R519), and
the core-fatal and device-fatal faults (R475 to R477). -/

namespace Sys2Proof.Machine

open Sys2Proof

/-! ## Cauldron ops -/

/-- The op code of an accepted op (Table 9.3). -/
def CxOp.code (o : CxOp) : Nat := fld o.go 3 0

/-- CORR, MAG and PHASE are pure (Table 9.1). -/
def pureCode (op : Nat) : Bool := op == 2 || op == 4 || op == 5

/-- Removing and discarding are counted in CX_CANCELS (Table 9.7). -/
def countRemoved (s : State) : State := s.modCx fun k => { k with removed := satInc k.removed }
def countDiscarded (s : State) : State := s.modCx fun k => { k with discarded := satInc k.discarded }

/-- One op is cancelled (R233): not started, it is removed; started and pure, its record will be discarded; started and not pure,
a cancel acts only when a reset asks for it. -/
def cancelOp (byReset : Bool) (tag : Nat) (s : State) : State :=
  match s.cx.ops.find? fun o => o.tag == tag with
  | none => s
  | some o =>
    if o.started = false then countRemoved (s.modCx fun k => { k with ops := k.ops.filter fun p => p.tag != tag })
    else if pureCode o.code ∨ byReset then
      s.modCx fun k => { k with ops := k.ops.map fun p => if p.tag = tag then { p with cancelled := true } else p }
    else s

/-- Every op of a core is cancelled by its island's reset (R233). -/
def cancelCore (k : Nat) (s : State) : State :=
  ((s.cx.ops.filter fun o => coreOf o.c == k).map fun o => o.tag).foldl (fun t tag => cancelOp true tag t) s

/-- Tags in flight (R223): those of accepted ops and of records not taken. -/
def tagsInFlight (s : State) : List Nat :=
  s.cx.ops.map (fun o => o.tag) ++ (allCtxs.map fun c => (s.ctx c).recs.filterMap fun r => r.tag).flatten

/-- The cycles for which an op that a reset ends has occupied its pipe (R234): none before its start, all of C once it has acted, and between the two
a free value (log 106). -/
def CxOp.cyclesSoFar (o : CxOp) (s : State) : Nat :=
  if o.done then o.cyc else if o.started then (Config.freeWord s.free).toNat else 0

/-- Outstanding ops deliver records with status ABORTED; no RESULT is stated, so each holds a free value (R47, R235). Each is charged what it has
used (R234). -/
def abortOps (os : List CxOp) (s : State) : State :=
  os.foldl (fun t0 o =>
    let t := (chargeCx o.acct.toNat (o.cyclesSoFar t0) t0).freshWord.2
    if o.cancelled then countDiscarded t
    else
      let r := t.freshWord
      raiseLine (coreOf o.c) 4 (r.2.modCtx o.c fun x =>
        { x with recs := x.recs ++ [⟨wd (o.tag % 32 + 2 ^ 5 + o.code * 2 ^ 6 + 6 * 2 ^ 10), r.1, some o.tag, o.go, o.acct⟩] })) s

/-- Every tag of the Cauldron is free: the records that wait to be taken hold none, and no issue unit has drawn one (R235). -/
def freeCxTags (s : State) : State :=
  let t := allCtxs.foldl (fun u c =>
    if (u.ctx c).recs = [] then u else u.modCtx c fun x => { x with recs := x.recs.map fun r => { r with tag := none } }) s
  (List.range 17).foldl (fun u k => if (u.core k).drawn.isSome then u.modCore k fun q => { q with drawn := none } else u) t

/-- D_4 resets: accumulators, tags and lanes return to their first state, and every outstanding op delivers ABORTED (R235). -/
def resetCauldron (s : State) : State :=
  freeCxTags ((abortOps s.cx.ops s).modCx fun k => { k with accs := [], ops := [], lane0 := {}, lane1 := {} })

/-- A lane granted to a core whose island goes OFF is disabled (R235; chapter 20, "When things coincide"). -/
def laneCoreOff (k : Nat) (s : State) : State :=
  let off := fun (l : Lane) => if l.core.toNat = k then { l with en := false } else l
  s.modCx fun q => { q with lane0 := off q.lane0, lane1 := off q.lane1 }

/-! ## Core reset and power -/

/-- A context at core reset: HALTED, both stacks empty, every register at its reset value, and its account kept (R51, R253). -/
def resetCtx (x : Ctx) : Ctx := { acct := x.acct }

/-- A core at its reset: memories, stores, feature values and trail are kept (R51, R182, R519). -/
def resetCoreRegs (q : Core) : Core :=
  { code := q.code, dlocal := q.dlocal, dispatch := q.dispatch, micro := q.micro, nano := q.nano
    storesValid := q.storesValid, uimageId := q.uimageId, trail := q.trail }

/-- Locks of a core's contexts end and its waiters leave the queue. -/
def freeLocks (k : Nat) (s : State) : State :=
  s.modFab fun f =>
    { f with
      banks := f.banks.map fun e => match e.2 with
        | some (.ctx c) => if coreOf c = k then (e.1, none) else e
        | _ => e
      lockWait := f.lockWait.filter fun c => coreOf c != k }

/-- The mailboxes of a work core are emptied and their LOST counts cleared (R211). -/
def clearMailboxes (k : Nat) (s : State) : State :=
  (List.range 4).foldl (fun t m => t.setMbox (4 * k + m) {}) s

/-- Core k resets (R51, R211, R233, R238). -/
def resetCore (k : Nat) (s : State) : State :=
  let t := clearMailboxes k (freeLocks k (cancelCore k s))
  (ctxsOf k).foldl (fun t c => t.setCtx c (resetCtx (t.ctx c))) (t.modCore k resetCoreRegs)

/-- What a core loses with its power: local memories are zero when it returns (R519), the vendor regions return to the mask-ROM
default, no user entry is valid and STORES_VALID is 0 (R182). -/
def powerLossCore (k : Nat) (s : State) : State :=
  s.modCore k fun q =>
    { q with
      code := [], dlocal := [], dispatch := [], micro := [], nano := []
      storesValid := false, uimageId := 0 }

/-- An island enters OFF: its crossing goes down and its state is lost (R25, R49, R516). -/
def islandOff (d : Nat) (s : State) : State :=
  let t := crossingDown d (s.modDom d fun m =>
    { m with state := .off, clockOn := false, autoGated := false, locked := false, goodWins := 0 })
  if d = 4 then resetCauldron t
  else if 5 ≤ d ∧ d ≤ 20 then powerLossCore (d - 5) (laneCoreOff (d - 5) (resetCore (d - 5) t))
  else t

/-! ## Fatal faults -/

/-- A job's DONE word and STATUS word (R299). -/
def jobDone (s : State) (blk : Nat) : Bool := readWord s.fab.sram (blk + 48) == 1

/-- STATUS of a finished job: SUCCESS or a code of class 0x05 (Table 12.12), anything else is JOB_BAD_STATUS (R299, R303). -/
def jobStatus (w : Word) : Nat :=
  let v := fld w 15 0
  if w = 0 ∨ (0x0501 ≤ w.toNat ∧ w.toNat ≤ 0x0505) then v else 0x0505

/-- A context has no job any more. -/
def dropJob (c : Nat) (s : State) : State := s.modCtx c fun x => { x with job := none, stopDue := false }

/-- The job of a context ends with its own STATUS (R299). -/
def finishJob (c : Nat) (j : Nat × BitVec 16 × Nat) (s : State) : State :=
  let m := s.fab.sram
  endCommand j.1 j.2.1 (jobStatus (readWord m (j.2.2 + 52))) (readWord m (j.2.2 + 56)) (readWord m (j.2.2 + 60))
    (dropJob c s)

/-- Each job of a core that fails completes with CORE_FATAL, or with its own STATUS when DONE already reads 1 (R476). -/
def failJobs (k : Nat) (s : State) : State :=
  (ctxsOf k).foldl (fun t c =>
    match (t.ctx c).job with
    | none => t
    | some j => if jobDone t j.2.2 then finishJob c j t
      else endCommand j.1 j.2.1 0x0504 0 0 (dropJob c t)) s

/-- Every context of a core stops (R476, R477). -/
def haltCore (k : Nat) (s : State) : State := (ctxsOf k).foldl (fun t c => haltCtx c 0 t) s

/-- A device-fatal fault, its entry already logged (R477): FE_OWN falls, rings stop, FATAL and FATAL_CODE read it, one vector-0
message leaves, and S halts. -/
def deviceFatal (code : Nat) (s : State) : State :=
  let t := sendMsix 0 (haltCore 16 (s.modTwin fun t => { t with feOwn := false }))
  t.modHost fun h => { h with fatal := true, fatalCode := BitVec.ofNat 16 code }

/-- The air sessions that run on a core of SESSION_CORES end without a reading, and their stakes stay candidates (R476). Which of several cores runs
a session is not stated: a free value decides (log 118). -/
def endSessions (k : Nat) (s : State) : State :=
  let only := s.host.sessionCores == BitVec.ofNat 16 (2 ^ k)
  if bit s.host.sessionCores k = false then s
  else s.pass.exchs.foldl (fun t x =>
    let keep := fun (u : State) => u.modPass fun p => { p with exchs := p.exchs ++ [x] }
    if x.onAir = false then keep t
    else
      let f := t.freshWord
      if only || bit f.1 0 then f.2 else keep f.2) (s.modPass fun p => { p with exchs := [] })

/-- A core-fatal fault of cause 0x0B (R468, R476): on S it is device-fatal; on a work core the contexts stop, jobs fail, ops and
locks go, the island goes OFF, and CORE_FATAL is posted with the core and the SEQ. A core of SESSION_CORES is asked back to RUN. -/
def coreFatal (k detail : Nat) (s : State) : State :=
  if k = 16 then deviceFatal 0x0504 (logFault 0x0B 4 0x0504 0x7F 3 none detail 0 s)
  else
    let t := logFault 0x0B 3 0x0504 0x7F (k + 5) none detail 0 s
    let q := t.faults.seq
    let u := islandOff (k + 5) (endSessions k (failJobs k (haltCore k t)))
    postUnsol 0x0504 (wd k) (wd q.toNat)
      (u.modDom (k + 5) fun m => { m with stateReq := if bit u.host.sessionCores k then .run else .off })

end Sys2Proof.Machine
end

