-- ==== Sys2Proof/Machine/Operands.lean ====
section
/-! DEFINITION. Operand forms: the classes of data addresses and the checks of an access (R60, R61, R110, R112, R120, R122, R123),
relative targets (R131), and the locks of banks as they are held, broken and ended (R120 to R125). -/

namespace Sys2Proof.Machine

open Sys2Proof

/-- The class of a data address (Tables 3.4 and 5.1). -/
inductive AddrClass where
  | short
  | sram
  | twin
  | host (win off : Nat)
  | unmapped
deriving DecidableEq, Repr

/-- The class of address a on core k. -/
def addrClass (k a : Nat) : AddrClass :=
  if a < dlocalSize k then .short
  else if 0x10000000 ≤ a ∧ a < 0x10400000 then .sram
  else if 0x20000000 ≤ a ∧ a < 0x20400000 then .twin
  else if 0x80000000 ≤ a ∧ a < 0x100000000 then .host ((a - 0x80000000) / 0x800000) ((a - 0x80000000) % 0x800000)
  else .unmapped

/-- What an access asks of a window (R112). -/
inductive Access where
  | load
  | store
  | atomic
deriving DecidableEq, Repr

/-- Whether window n grants an access at offset x to core k (R195). -/
def winGrants (s : State) (k : Nat) (kind : Access) (n x : Nat) : Bool :=
  let w := s.win n
  w.v && decide (x < 2 ^ w.size) && decide (n ∈ (s.rights k).win) &&
  match kind with
  | .load => w.rd
  | .store => w.wr
  | .atomic => w.at_ && s.host.atomicEn

/-- The bank of a shared-SRAM or twin-window address (R187). -/
def bankOf (a : Nat) : Nat := a / 0x40000 % 16

/-- The context carries a pending break of the bank that holds this address (R123). -/
def brokenAt (s : State) (c a : Nat) : Bool :=
  match (s.ctx c).brk with
  | some b => decide (b.n = bankOf a) &&
      (if b.twin then decide (addrClass (coreOf c) a = .twin) else decide (addrClass (coreOf c) a = .sram))
  | none => false

/-- The trap that an access of this size meets, if any: A, then F, then D, then L (R110, R112, R123, R147). -/
def accessTrap (s : State) (c : Nat) (kind : Access) (size a : Nat) : Option TrapCA :=
  let k := coreOf c
  let det := (s.core k).det
  if a % size ≠ 0 then some (0x06, a)
  else match addrClass k a with
    | .unmapped => some (0x07, a)
    | .short => none
    | .sram => if brokenAt s c a then some (0x0C, a) else none
    | .twin => if det then some (0x0A, a) else if brokenAt s c a then some (0x0C, a) else none
    | .host n x => if det then some (0x0A, a) else if winGrants s k kind n x then none else some (0x07, a)

/-- An access raises its trap; a pending break stays until its lock-broken trap is entered (R123, R148). -/
def raiseAccess (c : Nat) (t : TrapCA) (s : State) : State := raiseTrap c t.1 t.2 s

/-- A relative target: (address of the branch + 2 + 2 × rel12) modulo 2^24 (R131). -/
def relTarget (pc : BitVec 24) (rel : BitVec 12) : BitVec 24 := pc + 2 + (rel.signExtend 24) * 2

/-- A loaded datum, extended to 32 bits (R113). -/
def extendDatum (size : Nat) (signed : Bool) (v : Nat) : Word :=
  if signed then BitVec.ofInt 32 (sgn (8 * size) v) else wd v

/-! ## Banks -/

/-- A bank held by an agent other than `me` (R120). -/
def heldByOther (s : State) (b : Nat) (me : Option Nat) : Bool :=
  match s.bankHolder b with
  | none => false
  | some (.ctx c) => decide (me ≠ some c)
  | some (.twin _) => true

/-- The banks that a range of n bytes of shared SRAM touches (R187). -/
def rangeBanks (a n : Nat) : List Nat :=
  (List.range 16).filter fun b => decide (a < 0x10000000 + (b + 1) * 0x40000 ∧ 0x10000000 + b * 0x40000 < a + n)

/-- A bank of a range is held: an agent that holds no lock waits for it (R120). -/
def rangeHeld (s : State) (a n : Nat) : Bool := (rangeBanks a n).any fun b => (s.bankHolder b).isSome

/-! ## Breaking and ending locks -/

/-- A context is parked: its account counts as starved of core cycles, unless the island runs below its floor (R255, R263). -/
def parkNow (c : Nat) (s : State) : State :=
  let a := (s.ctx c).acct.toNat
  let t := if (s.dom (domOf (coreOf c))).floorBad then s else noteStarved a 0 s
  (t.modAcct a fun q => { q with parkedNow := true }).modCtx c fun y => { y with st := .parked, parkDue := false }

/-- What was due for a context takes effect once it holds no lock and has no long operation (R54, R124, R146); a parking only while the meter is still
spent. -/
def settleDue (c : Nat) (s : State) : State :=
  let x := s.ctx c
  if x.hold ≠ none ∨ x.long ≠ none then s
  else if x.haltDue then haltCtx c 0 (s.modCtx c fun y => { y with haltDue := false, parkDue := false })
  else if x.parkDue = false ∨ x.st ≠ .run then s
  else if coreSpent s c then parkNow c s
  else s.modCtx c fun y => { y with parkDue := false }

/-- The lock on a bank is broken (R123, R125, R207): a context carries the pending break and line 11 of its core is raised; the
twin's holder is sent NAK broken with the TAG of its LOCK. -/
def breakBank (b : Nat) (s : State) : State :=
  match s.bankHolder b with
  | none => s
  | some (.ctx c) =>
    settleDue c (raiseLine (coreOf c) 11 ((s.setBank b none).modCtx c fun x => { x with hold := none, brk := some ⟨false, b⟩ }))
  | some (.twin tag) => sendReply 0x0F tag 2 ((s.setBank b none).modFab fun f => { f with twinBroken := b :: f.twinBroken })

end Sys2Proof.Machine
end

