-- ==== Sys2Proof/Machine/Work.lean ====
section
/-! DEFINITION. The working copy of a user op (R171, R176, R179): results that land in it, where a result goes (Table 7.7), and how it becomes
architectural. -/

namespace Sys2Proof.Machine

open Sys2Proof

/-- A cell of a list set, counted from the bottom; a position above the top keeps nothing. -/
def setFromBottom (l : List Word) (pos : Nat) (v : Word) : List Word := if pos < l.length then l.set (l.length - 1 - pos) v else l

/-- A result lands, with the flags that land with it (R176). -/
def ULand.apply (w : UWork) (l : ULand) : UWork :=
  let u : UWork := { w with cf := l.cf.getD w.cf, vf := l.vf.getD w.vf }
  match l.dst with
  | .data => { u with ds := setFromBottom u.ds l.pos l.val }
  | .ret => { u with rs := setFromBottom u.rs l.pos l.val }
  | .t0 => { u with t0 := l.val }
  | .t1 => { u with t1 := l.val }
  | .ucnt => { u with ucnt := l.val.setWidth 8 }
  | .flags => u
  | .issue => u

/-- The results that are due land, oldest first. -/
def UWork.settle (w : UWork) : UWork :=
  { (w.lands.filter fun l => decide (l.due ≤ w.time)).foldl ULand.apply w with
    lands := w.lands.filter fun l => decide (w.time < l.due) }

/-- Every result has landed. -/
def UWork.settleAll (w : UWork) : UWork := { w.lands.foldl ULand.apply w with lands := [] }

/-- The i-th result that is due lands. -/
def UWork.landOne (i : Nat) (w : UWork) : UWork :=
  match w.lands[i]? with
  | some l => { ULand.apply w l with lands := w.lands.eraseIdx i }
  | none => w

/-- Where a result for DST lands (Table 7.7). -/
def landAt (dst : Nat) : LandAt :=
  match dst with
  | 1 => .data
  | 2 => .ret
  | 3 => .t0
  | 4 => .t1
  | 5 => .ucnt
  | _ => .flags

/-- A result of distance d, from a microword of k cycles that issued at cycle t, goes to DST with its flags (Table 7.7, R176); `i` is the data cell that
NEW names. A result that the next microword finds landed stands at once. -/
def UWork.put (det : Bool) (t k d i dst : Nat) (val : Word) (cf vf : Option Bool) (w : UWork) : UWork :=
  let u : UWork := match dst with
    | 6 => { w with npc := some (BitVec.ofNat 24 val.toNat) }
    | 7 => { w with dbank := val.extractLsb' 12 20 }
    | 8 => { w with ibank := val.extractLsb' 0 8, ibw := true }
    | 9 => { w with cf := bit val 0, vf := bit val 1, ie := bit val 2 }
    | _ => w
  let pos := if dst = 1 then w.ds.length - 1 - i else w.rs.length - 1
  let l : ULand := ⟨t + d, landAt dst, pos, val, cf, vf⟩
  if det ∨ d ≤ k then ULand.apply u l else { u with lands := u.lands ++ [l] }

/-- A result of an op that has ended, as the context keeps it until it lands: its position counts the cells in the spill region too (R64). -/
def ULand.toLand (x : Ctx) (id : Nat) (l : ULand) : Land :=
  let below := if l.dst = .data then spilledCells x.dspBase x.dspPtr else if l.dst = .ret then spilledCells x.rspBase x.rspPtr else 0
  { id := id, pos := below + l.pos, val := l.val, vf := l.vf, dst := l.dst, cf := l.cf }

/-- The working copy becomes architectural (R179); results still to land stay due. -/
def UWork.commit (w0 : UWork) (pc : BitVec 24) (x : Ctx) : Ctx :=
  let w := w0.settle
  { x with
    ds := w.ds, rs := w.rs, cf := w.cf, vf := w.vf, ie := w.ie, dbank := w.dbank, ibank := w.ibank, t0 := w.t0, t1 := w.t1
    mid := none, ufin := none, pc := pc, fbuf := x.fbuf && !w.ibw
    lands := x.lands ++ w.lands.mapIdx fun i l => ULand.toLand x (x.nextLand + i) l
    nextLand := x.nextLand + w.lands.length }

/-- A late result of an older instruction lands in the working copy as well (R64, R179). -/
def landWork (x : Ctx) (l : Land) (w : UWork) : UWork :=
  let y := applyLand { x with ds := w.ds, rs := w.rs, cf := w.cf, vf := w.vf, t0 := w.t0, t1 := w.t1 } l
  { w with ds := y.ds, rs := y.rs, cf := y.cf, vf := y.vf, t0 := y.t0, t1 := y.t1 }

/-- The flag of LDTRY in the upper pushed cell (Table 7.7, PUSH2). -/
def UWork.putFlag (flag : Option Word) (w : UWork) : UWork :=
  match flag with
  | some f => { w with ds := w.ds.set 0 f }
  | none => w

end Sys2Proof.Machine
end

