-- ==== Sys2Proof/Machine/Bridge.lean ====
section
/-! DEFINITION. The host bridge and the twin bridge seen from the cores: tags and line holders (R196 to R198), refusals (R204,
R206), requests on Twinlink (R205), the store buffer's destinations (R111, R200, R210), and the end of a long instruction. -/

namespace Sys2Proof.Machine

open Sys2Proof

/-! ## The end of a long instruction -/

/-- A context that leaves LONG or WAIT. -/
def endWait (x : Ctx) : Ctx := { x with st := .run, long := none, longExit := false, evWmask := 0, ufin := none }

/-- An instruction's work `y` and next address stand; with EXIT it returns (R93). A return that traps leaves the context as `x`. -/
def leaveLong (c : Nat) (exit : Bool) (x y : Ctx) (pc : BitVec 24) (s : State) : State :=
  if exit then
    match popReturn (y, (s.core (coreOf c)).dlocal, 0) with
    | .error t => raiseTrap c t.1 t.2 (s.setCtx c (endWait x))
    | .ok r => settleDue c (trailFlow c x.pc 4 r.2
        ((s.modCore (coreOf c) fun k => { k with dlocal := r.1.2.1 }).setCtx c { r.1.1 with pc := r.2 }))
  else settleDue c (s.setCtx c { y with pc := pc })

/-- The value that goes to DST: that of the one action that supplies it; where several do, no rule says which, and it is a free value (log 32). -/
def UFin.value (u : UFin) (s : State) : Option Word := if 2 ≤ u.reads then some (Config.freeWord s.free) else u.got

/-- A user op ends after its waits (R174, R176, R179): its value goes to DST, where a branch checks it (R132), and the working copy stands. -/
def userLeave (c : Nat) (u : UFin) (x y : Ctx) (s0 : State) : State :=
  let s : State := if 2 ≤ u.reads then { s0 with free := s0.free + 1 } else s0
  let v := UFin.value u s0
  let w0 := u.w.settleAll
  let w := (match v with
    | some val => UWork.put true 0 0 0 (b2n u.two) u.dst val none none w0
    | none => w0).putFlag u.flag
  match v with
  | some val =>
    if u.dst = 6 ∧ badTarget val = true then raiseTrap c 0x09 val.toNat (s.setCtx c (endWait x))
    else leaveLong c x.longExit x (endWait (w.commit (w.npc.getD (x.pc + 2)) y)) (w.npc.getD (x.pc + 2)) s
  | none => leaveLong c x.longExit x (endWait (w.commit (w.npc.getD (x.pc + 2)) y)) (w.npc.getD (x.pc + 2)) s

/-- A wait of a user op's last microword ends with `y` and the values `vs`: a further wait follows, or the op ends. -/
def userWaited (c : Nat) (u : UFin) (vs : List Word) (x y : Ctx) (s : State) : State :=
  let got : UFin := { u with
    got := if u.got.isSome then u.got else vs.getLast?
    flag := if u.two && u.flag.isNone then vs.head? else u.flag, next := none }
  match u.next with
  | none => userLeave c got x y s
  | some (.io p) => s.setCtx c { y with ufin := some got, st := .long, long := some (.io p 0) }
  | some (.wait m) =>
    let hit := y.evPend &&& m
    if hit ≠ 0 then userLeave c { got with got := if got.got.isSome then got.got else some hit } x { y with evPend := y.evPend &&& ~~~hit } s
    else s.setCtx c { y with ufin := some got, st := .wait, long := none, evWmask := m }

/-- A long instruction ends: its work on the stacks is done, the context is in RUN again at the next instruction or, with EXIT,
at the return address (R66, R93, R196). Within a user op the value goes where its microcode wants it (R174, R179): that of an
earlier microword is kept for the op, which goes on with that microword. -/
def finishLong (c : Nat) (act : Ctx → Ctx) (s : State) : State :=
  let x := s.ctx c
  let y := act { x with ds := [] }
  match x.ufin, x.mid with
  | some u, _ => userWaited c u y.ds x { y with ds := x.ds } s
  | none, some (.user op f w) =>
    settleDue c (s.setCtx c (endWait { y with ds := x.ds, mid := some (.user op f { w.settleAll with datum := some (y.ds.headD 0) }) }))
  | none, _ => leaveLong c x.longExit x (endWait (act x)) (x.pc + 2) s

/-- A long instruction ends in a trap: nothing of it has happened, and its line is released. -/
def trapLong (c cause addr : Nat) (s : State) : State :=
  let t := s.modCtx c fun x => { endWait x with line := none }
  settleDue c (raiseTrap c cause addr t)

/-- Pops n cells and pushes one: how a long load, atomic, input or status ends. -/
def popPush (n : Nat) (w : Word) (x : Ctx) : Ctx := { x with ds := w :: x.ds.drop n }

/-! ## The host bridge -/

/-- HB_ERR and HB_ERR_ADDR take a read error (R198, Table 8.7). -/
def noteHbErr (status addr : Nat) (s : State) : State :=
  s.modFab fun f =>
    { f with hbErr := BitVec.ofNat 16 status, hbErrCnt := satInc f.hbErrCnt, hbErrAddr := BitVec.ofNat 64 addr }

/-- TB_ERR and TB_ERR_ADDR take a twin-bridge error (R206, Table 8.7). -/
def noteTbErr (status addr : Nat) (s : State) : State :=
  s.modFab fun f => { f with tbErr := BitVec.ofNat 16 status, tbErrCnt := satInc f.tbErrCnt, tbErrAddr := wd addr }

/-- The host address of a window offset (R195). -/
def hostAddr (s : State) (n x : Nat) : Nat := (s.win n).hbase + x

/-- The requester of a tag: a core, the Ring Fetch Engine, or the DMA engine. -/
def TagUse.isCore : TagUse → Bool
  | .line _ _ _ => true
  | .atomic _ _ => true
  | .desc _ _ _ => false
  | .dma _ _ _ => false
def TagUse.isDesc : TagUse → Bool
  | .desc _ _ _ => true
  | _ => false

/-- Tags 8 and up that a kind of requester holds. -/
def upperTags (s : State) (p : TagUse → Bool) : Nat :=
  (s.fab.tags.filter fun e => decide (8 ≤ e.1) && e.2.any fun t => p t.use).length

/-- The tags in use: 0 to 63, or 0 to 31 while Extended Tag Field Enable is 0 (R197, R271). -/
def topTag (s : State) : Nat := if s.host.extTag then 64 else 32

/-- The lowest free tag from `lo` on. -/
def freeTagFrom (s : State) (lo : Nat) : Option Nat := (List.range (topTag s)).find? fun i => (s.hbTag i).isNone && decide (lo ≤ i)

/-- The free tag that a core's read or atomic takes: 0 to 7, then the others within the cores' limit (R197, R271). -/
def coreTag (s : State) : Option Nat :=
  match freeTagFrom s 0 with
  | some i => if i < 8 ∨ upperTags s TagUse.isCore < (if s.host.extTag then 16 else 12) then some i else none
  | none => none

/-- The free tag that a descriptor read takes: 8 and up, within the engine's limit (R197, R271). -/
def descTag (s : State) : Option Nat :=
  if upperTags s TagUse.isDesc < (if s.host.extTag then 32 else 16) then freeTagFrom s 8 else none

/-- The free tag that a read of the DMA engine takes: any from 8 up (R197, R271). -/
def dmaTag (s : State) : Option Nat := freeTagFrom s 8

/-- Requests through a window carry its No Snoop attribute (Table 8.3). -/
def winNs (s : State) (c : Nat) (d : Word) : Bool :=
  match addrClass (coreOf c) d.toNat with
  | .host n _ => (s.win n).ns
  | _ => false

/-- The outstanding read of a host line, if any (R196). -/
def lineTag (s : State) (host : Nat) : Option Nat :=
  (s.fab.tags.find? fun e => match e.2 with
    | some t => !t.dead && (match t.use with | .line _ h _ => h == host | _ => false)
    | none => false).map fun e => e.1

/-- A context's line is fetched from the host (R196, R197): from a read already in flight, with a tag, or waiting for one. -/
def fetchHost (c : Nat) (host : Nat) (d : Word) (s : State) : State :=
  match lineTag s host with
  | some i => s.setTag i ((s.hbTag i).map fun t => { t with sharers := t.sharers ++ [(c, d)] })
  | none => match coreTag s with
    | some i => sendTlp (.read i host 32 (winNs s c d)) (s.setTag i (some ⟨.line c host d, [], false, none⟩))
    | none => s.modFab fun f => { f with hbWait := f.hbWait ++ [.core c d] }

/-! ## The DMA engine -/

/-- Bytes of the next segment (R201): cut at 4 KiB of host address, at the effective MPS or MRRS; a fill has no host transfer. -/
def segLen (s : State) (d : Dma) : Nat :=
  let left := d.len - d.moved
  if d.kind = 2 then left
  else min left (min (4096 - (d.host + d.moved) % 4096) (if d.kind = 0 then min 512 s.host.mrrs else min 256 s.host.mps))

/-- The transfer of a command, and the transfers with it changed or removed. -/
def dmaOf (s : State) (n : Nat) (cmd : BitVec 16) : Option Dma := s.host.dmas.find? fun d => d.ring == n && d.cmd == cmd
def setDma (d : Dma) (s : State) : State :=
  s.modHost fun h => { h with dmas := h.dmas.map fun e => if e.ring = d.ring ∧ e.cmd = d.cmd then d else e }

/-- A transfer is over: a read of it that is under way yields nothing any more, and its tag stays allocated (R198). -/
def dropDma (n : Nat) (cmd : BitVec 16) (s : State) : State :=
  (s.modHost fun h => { h with dmas := h.dmas.filter fun e => !(e.ring == n && e.cmd == cmd) }).modFab fun f =>
    { f with
      hbWait := f.hbWait.filter fun w => w != .dma n cmd
      tags := f.tags.map fun e => (e.1, e.2.map fun t => match t.use with
        | .dma m k _ => if m = n ∧ k = cmd then { t with dead := true } else t
        | _ => t) }

/-- Free values in place of n words. -/
def freeWords (n : Nat) (s : State) : List Word × State :=
  ((List.range n).map fun i => Config.freeWord (s.free + i), { s with free := s.free + n })

/-- A transfer stops with an error (R302): its destination range holds undefined words, and the command completes with DATA_ERROR. -/
def dmaFail (d : Dma) (off : Nat) (s : State) : State :=
  let s1 := dropDma d.ring d.cmd s
  let f := freeWords (d.len / 4) s1
  endCommand d.ring d.cmd 0x0005 (wd d.moved) (wd off) (if d.kind = 0 then sramWords d.sram f.1 f.2 else s1)

/-- A host transfer that the bridge cannot carry fails (R204, R302). -/
def dmaRefused (d : Dma) (s : State) : State := dmaFail d d.moved (noteHbErr 5 (d.host + d.moved) s)

/-- The next segment of a copy from the host starts: its read takes a tag and leaves, or waits for one; without budget it is deferred (R197, R201,
R255). -/
def startSegment (d : Dma) (s : State) : State :=
  let a := (s.ring d.ring).acct.toNat
  let q := s.acct a
  let k := segLen s d
  if mayGo a q.dmaMeter q.dmaSlack = false then noteStarved a 2 s
  else if canSend s = false then dmaRefused d s
  else match dmaTag s with
    | some i =>
      chargeDma a k (sendTlp (.read i (d.host + d.moved) k d.ns)
        (setDma { d with tag := some (i, k) } (s.setTag i (some ⟨.dma d.ring d.cmd (d.host + d.moved), [], false, none⟩))))
    | none => s.modFab fun f => if .dma d.ring d.cmd ∈ f.hbWait then f else { f with hbWait := f.hbWait ++ [.dma d.ring d.cmd] }

/-- Reads that were deferred start once their accounts may go again (R256). -/
def resumeDmas (s : State) : State :=
  s.host.dmas.foldl (fun t d => match dmaOf t d.ring d.cmd with
    | some e => if e.kind = 0 ∧ e.tag = none ∧ .dma d.ring d.cmd ∉ t.fab.hbWait then startSegment e t else t
    | none => t) s

/-! ## The twin bridge -/

/-- The twin bridge accepts accesses (R206), and its crossing is up (R47). -/
def twinAccepts (s : State) : Bool := s.twin.lanesUp && decide (s.twin.st ≠ .conflict) && !s.twin.detached && (s.xing 22).up

/-- A core's requests and stores reach D_2: its island's crossing is up (R47). -/
def reachesD2 (s : State) (c : Nat) : Bool := (s.xing (domOf (coreOf c))).up

/-- The context of a twin request. -/
def TwinUse.ctx : TwinUse → Nat
  | .line c _ => c
  | .atomic c _ _ => c
  | .store c _ _ _ => c
  | .lock c _ => c
  | .unlock c _ => c

/-- Byte enables of a store of `size` bytes at address a within its word (Table 14.2, MEMWR). -/
def byteEnables (a size : Nat) : Nat := (2 ^ size - 1) * 2 ^ (a % 4)

/-- A store's data in their byte lanes. -/
def laneData (a : Nat) (w : Word) : Word := w <<< (8 * (a % 4))

/-- The packet of a twin request (Table 8.4). -/
def twinPacket (tag : BitVec 16) (u : TwinUse) (s : State) : State :=
  match u with
  | .line _ d => sendRel 0x06 tag [wd (d.toNat - 0x20000000)] none s
  | .store _ a size w => sendRel 0x05 tag [wd (a.toNat / 4 * 4 - 0x20000000), wd (byteEnables a.toNat size), laneData a.toNat w] none s
  | .atomic _ a (.fadd n) => sendRel 0x05 tag [wd (a.toNat - 0x20000000), wd (15 + 16), n] none s
  | .atomic _ a (.cas e n) => sendRel 0x05 tag [wd (a.toNat - 0x20000000), wd (15 + 32), n, e] none s
  | .lock _ b => sendRel 0x08 tag [wd b] none s
  | .unlock _ b => sendRel 0x09 tag [wd b] none s

/-- Payload bytes of a request's packet (Table 14.2). -/
def TwinUse.bytes : TwinUse → Nat
  | .line _ _ => 4
  | .store _ _ _ _ => 12
  | .atomic _ _ (.fadd _) => 12
  | .atomic _ _ (.cas _ _) => 16
  | .lock _ _ => 4
  | .unlock _ _ => 4

/-- The TAG of a context's request: its context number in the low seven bits, a running count above (log 113). -/
def tagFor (c : Nat) (n : BitVec 16) : BitVec 16 := BitVec.ofNat 16 (c % 128 + 128 * n.toNat)

/-- A twin-window request leaves the bridge with a tag of its own, charged to its context's account (R205, R252). -/
def sendTwin (u : TwinUse) (s : State) : State :=
  let tag := tagFor u.ctx s.fab.nextTag
  let a := (s.ctx u.ctx).acct.toNat
  chargeTwin a u.bytes (twinPacket tag u (s.modFab fun f =>
    { f with nextTag := f.nextTag + 1, treqs := f.treqs ++ [⟨tag, u, false, none⟩] }))

/-- A twin-window request: held while its account has no twin bytes left (R255), sent otherwise. -/
def requestTwin (u : TwinUse) (s : State) : State :=
  let a := (s.ctx u.ctx).acct.toNat
  let q := s.acct a
  if mayGo a q.twinMeter q.twinSlack then sendTwin u s
  else noteStarved a 3 (s.modFab fun f => { f with twinHold := f.twinHold ++ [u] })

/-! ## Lines -/

/-- Whether the bridge behind an address accepts a request (R204, R206). -/
def bridgeAccepts (s : State) (k a : Nat) : Bool :=
  match addrClass k a with
  | .host _ _ => canSend s
  | .twin => twinAccepts s
  | _ => true

/-- A refused request is recorded: status 5 in HB_ERR, or 4 in TB_ERR (R204, R206, Table 8.7). -/
def noteRefused (k a : Nat) (s : State) : State :=
  match addrClass k a with
  | .host n x => noteHbErr 5 (hostAddr s n x) s
  | .twin => noteTbErr 4 a s
  | _ => s

/-- The 32-byte line of a D-space address (R196). -/
def lineAddr (a : Nat) : Nat := a / 32 * 32

/-- The context's fetch of a line starts; an older line of the context is dropped (R117, R196). -/
def startFetch (c : Nat) (ltry : Bool) (a : Nat) (s : State) : State :=
  let la := lineAddr a
  let t := s.modCtx c fun x => { x with line := some { addr := wd la, ltry := ltry, st := .fetching } }
  match addrClass (coreOf c) la with
  | .host n x => fetchHost c (hostAddr t n x) (wd la) t
  | .twin => requestTwin (.line c (wd la)) t
  | _ => t

/-- The context's holder is on this line already. -/
def holdsLine (s : State) (c a : Nat) : Bool :=
  match (s.ctx c).line with
  | some l => l.addr.toNat == lineAddr a
  | none => false

/-- The bridge is fetching a line for the context. -/
def fetching (x : Ctx) : Bool := match x.line with | some l => l.st == .fetching | none => false

/-- The bridge holds an error in place of this line for the context (R116). -/
def holdsError (s : State) (c a : Nat) : Bool :=
  match (s.ctx c).line with
  | some l => l.st == .error && l.addr.toNat == lineAddr a
  | none => false

/-- The words of a line with a store merged in. -/
def mergeLine (ws : List Word) (e : Nat × Nat × Word) : List Word :=
  let i := e.1 % 32 / 4
  setNth ws i (wd (readLE (writeLE (writeWord [] 0 (nthW ws i)) (e.1 % 4) e.2.1 e.2.2.toNat) 0 4))

/-- The data of a held line, with the context's own later stores to it (R81, R116, R196). -/
def heldWords (s : State) (c a : Nat) : Option (List Word) :=
  match (s.ctx c).line with
  | some l => (match l.st with
    | .held ws => if l.addr.toNat = lineAddr a then some (l.own.foldl mergeLine ws) else none
    | _ => none)
  | none => none

/-- A context's own store to the line that its holder fetches or holds is kept with it (R81). -/
def noteOwnStore (c a size : Nat) (w : Word) (s : State) : State :=
  if holdsLine s c a then s.modCtx c fun x => { x with line := x.line.map fun l => { l with own := l.own ++ [(a, size, w)] } } else s

/-- The datum of an access within a line. -/
def lineDatum (ws : List Word) (a size : Nat) (signed : Bool) : Word :=
  let w := (nthW ws (a % 32 / 4)).toNat / 2 ^ (8 * (a % 4))
  extendDatum size signed (w % 2 ^ (8 * size))

/-! ## Stores -/

/-- Every earlier store of a context is visible (R82): none waits in the store buffer or for the twin's ACK. -/
def storesVisible (s : State) (c : Nat) : Bool :=
  ((s.core (coreOf c)).sbuf.all fun e => e.c != c) &&
  (s.fab.treqs.all fun r => match r.use with | .store d _ _ _ => d != c | _ => true) &&
  (s.fab.twinHold.all fun u => match u with | .store d _ _ _ => d != c | _ => true)

/-- Two ranges of bytes meet. -/
def overlaps (a n b m : Nat) : Bool := decide (a < b + m ∧ b < a + n)

/-- A store of the context to bytes of this range waits in the store buffer (R81, R111). -/
def storeWaits (s : State) (c a n : Nat) : Bool :=
  (s.core (coreOf c)).sbuf.any fun e => e.c == c && (match e.op with | .mem b m _ => overlaps a n b.toNat m | .port _ _ => false)

/-- A twin-window store of the context to bytes of this range has not been acknowledged (R81, R205). -/
def twinStoreWaits (s : State) (c a n : Nat) : Bool :=
  let meets := fun (u : TwinUse) => match u with | .store d b m _ => d == c && overlaps a n b.toNat m | _ => false
  s.fab.treqs.any (fun r => meets r.use) || s.fab.twinHold.any meets

/-- A load of the line that holds address a waits for the context's own earlier stores to it (R81). -/
def lineWaits (s : State) (c a : Nat) : Bool := storeWaits s c (lineAddr a) 32 || twinStoreWaits s c (lineAddr a) 32

/-- A posted far store is discarded: counted in POSTFAIL_c, and line 6 or 7 of the core is raised (R204, R206). -/
def postFail (c : Nat) (twin : Bool) (s : State) : State :=
  let k := coreOf c
  if twin then raiseLine k 7 (s.modFab fun f => { f with twinFails := tput k (satInc (tget 0 f.twinFails k)) f.twinFails })
  else raiseLine k 6 (s.modFab fun f => { f with hostFails := tput k (satInc (tget 0 f.hostFails k)) f.hostFails })

/-- A store of a context is performed at its destination (R111, R115, R200, R204, R205); a crossing that is down discards it (R47). -/
def performStore (c a size : Nat) (w : Word) (u : Upset) (s : State) : State :=
  if reachesD2 s c = false then countDiscards 1 0 s
  else match addrClass (coreOf c) a with
  | .sram => sramStore (.other c (domOf (coreOf c))) a size w u s
  | .twin => if twinAccepts s then requestTwin (.store c (wd a) size w) s else postFail c true (noteTbErr 4 a s)
  | .host n x => if canSend s then sendTlp (.store (hostAddr s n x) size w (s.win n).ns) s else postFail c false s
  | _ => s

/-! ## Requests that end in error -/

/-- A context's line ends in error (R196, R198): its far load traps; an LDTRY's next try of the line will trap; a line that the
context has dropped is gone. -/
def failLine (c : Nat) (d : Word) (s : State) : State :=
  match (s.ctx c).line with
  | none => s
  | some l =>
    if l.addr ≠ d ∨ l.st ≠ .fetching then s
    else match (s.ctx c).long with
      | some (.far a _ _ _) => trapLong c 0x0B a.toNat s
      | _ => s.modCtx c fun x => { x with line := some { l with st := .error } }

/-- A far atomic of a context ends in error (R118, R198, R202). -/
def failAtomic (c : Nat) (s : State) : State :=
  match (s.ctx c).long with
  | some (.farAtomic a _ _) => trapLong c 0x0B a.toNat s
  | _ => s

/-- The D-space address that a twin request names (R206). -/
def TwinUse.addr : TwinUse → Nat
  | .line _ d => d.toNat
  | .atomic _ a _ => a.toNat
  | .store _ a _ _ => a.toNat
  | .lock _ b => 0x20000000 + b * 0x40000
  | .unlock _ b => 0x20000000 + b * 0x40000

/-- A LOCK or UNLOCK of the twin's bank ends in error: the memory-error trap; a lock that could not be unlocked has ended. -/
def failTwinLock (c : Nat) (b : Nat) (s : State) : State :=
  match (s.ctx c).long with
  | some (.lock a) => trapLong c 0x0B a.toNat s
  | some .unlock => trapLong c 0x0B (0x20000000 + b * 0x40000) (s.modCtx c fun x => { x with hold := none })
  | _ => s

/-- The requester of a twin request sees its error (R206, Table 20.4): a load, LDTRY, atomic or lock traps; a posted store is
counted and raises line 7. -/
def failTwin (u : TwinUse) (s : State) : State :=
  match u with
  | .line c d => failLine c d s
  | .atomic c _ _ => failAtomic c s
  | .store c _ _ _ => postFail c true s
  | .lock c b => failTwinLock c b s
  | .unlock c b => failTwinLock c b s

end Sys2Proof.Machine
end

