-- ==== Sys2Proof/Machine/Memory.lean ====
section
/-! DEFINITION. Loads, stores, LDTRY, atomics, locks, fences, cache and bank instructions (R110 to R130). -/

namespace Sys2Proof.Machine

open Sys2Proof

/-- The top n data cells as an instruction reads them, after the fills it needs (R96). -/
def topCells (s : State) (c n : Nat) : List Word :=
  match need false n (viewOf s c) with
  | .ok v => v.1.ds.take n
  | .error _ => []

/-- A basic op that may wait: it is held while `hold` says so, else it runs and then acts on the rest of the machine. -/
def opInstr (op : Nat) (spec : Bool) (c : Nat) (f : BitVec 4) (slots : Nat) (hold : State → Bool)
    (body : Bool → View → Except TrapCA View) (post : State → State → State) (s : State) : State :=
  issue spec c (fun s =>
    if legalOp s c op f = false then raiseTrap c 0x01 0 s
    else
      let pc := (s.ctx c).pc
      match withExit (exitBit f) .keeps (body (s.core (coreOf c)).det) (pc + 2) (viewOf s c) with
      | .error t => raiseAccess c t s
      | .ok r =>
        if hold s then s
        else
          let t := post s (commit c slots r.1 r.2 s)
          if exitBit f then trailFlow c pc 4 r.2 t else t) s

/-- A long instruction enters LONG: its cells are on chip, its operands stay until it ends (R66). -/
def enterLong (c : Nat) (exit : Bool) (op : LongOp) (v : View) (s : State) : State :=
  account c 1 v.2.2
    (((fetchLine c s).modCore (coreOf c) fun k => { k with dlocal := v.2.1 }).setCtx c
      { v.1 with st := .long, long := some op, longExit := exit, line := (s.ctx c).line })

/-- A short access completes at once: its work, then the next instruction or the return. -/
def finishShort (c : Nat) (exit : Bool) (v : View) (s : State) : State :=
  let pc := (s.ctx c).pc
  match withExit exit .keeps (fun u => .ok u) (pc + 2) v with
  | .error t => raiseTrap c t.1 t.2 s
  | .ok r =>
    let t := commit c 1 r.1 r.2 s
    if exit then trailFlow c pc 4 r.2 t else t

/-- An access whose cells `v` are on chip: its traps first, then `short` for D-local memory, or, once no older BZ is unresolved,
`long` (R72, R110, R147). -/
def memAccess (c : Nat) (exit : Bool) (kind : Access) (size a : Nat) (v : View) (short long : State → State) (s : State) : State :=
  match joinTrap (accessTrap s c kind size a) (exitTrap exit v) with
  | some t => raiseAccess c t s
  | none =>
    if addrClass (coreOf c) a = .short then short s
    else if (s.ctx c).snaps ≠ [] then s
    else long s

/-- A D-local load: the datum lands 3 ic later (R63, R113); a parity error is core-fatal. -/
def shortLoad (c : Nat) (exit : Bool) (pop a size : Nat) (signed : Bool) (u : Upset) (v : View) (s : State) : State :=
  if u ≠ .none then coreFatal (coreOf c) 0 s
  else
    let det := (s.core (coreOf c)).det
    let w := extendDatum size signed (readLE v.2.1 a size)
    let x := v.1
    let y := if pop = 0 then { x with ds := staleTop x v.2.1 :: x.ds } else x
    finishShort c exit (lateTop det w none y, v.2) s

/-- A request whose crossing is down is discarded, and its error response is the memory-error trap with the address or port (R47, R471, Table 20.4). -/
def crossingError (c a : Nat) (s : State) : State := raiseTrap c 0x0B a (countDiscards 1 0 s)

/-- A long or far load enters LONG; a far one fetches its line unless the holder has it, waits for the context's own earlier stores to the line, and
traps at once while the bridge does not accept it or holds an error in place of the line (R66, R67, R81, R116, R196, R204, R206). -/
def longLoad (c : Nat) (exit : Bool) (a size pops : Nat) (signed : Bool) (v : View) (s : State) : State :=
  if reachesD2 s c = false then crossingError c a s
  else match addrClass (coreOf c) a with
  | .sram => enterLong c exit (.load (wd a) size pops signed false) v s
  | _ =>
    if holdsError s c a then raiseTrap c 0x0B a (dropLine c s)
    else if !holdsLine s c a && lineWaits s c a then s
    else if bridgeAccepts s (coreOf c) a then
      let t := enterLong c exit (.far (wd a) size pops signed) v s
      if holdsLine s c a then t else startFetch c false a t
    else raiseTrap c 0x0B a (noteRefused (coreOf c) a s)

/-- LDB to LDW (R113). -/
def loadInstr (op size : Nat) (signed : Bool) (c : Nat) (f : BitVec 4) (u : Upset) (s : State) : Out :=
  .next (issue true c (fun s =>
    if legalOp s c op f = false then raiseTrap c 0x01 0 s
    else match need false 1 (viewOf s c) with
      | .error t => raiseOr c (exitBit f) t s
      | .ok v =>
        let a := (v.1.ds.headD 0).toNat
        memAccess c (exitBit f) .load size a v (shortLoad c (exitBit f) 1 a size signed u v)
          (longLoad c (exitBit f) a size 1 signed v) s) s)

def execLdb (c : Nat) (f : BitVec 4) (u : Upset) (s : State) : Out := loadInstr 0x40 1 true c f u s
def execLdbu (c : Nat) (f : BitVec 4) (u : Upset) (s : State) : Out := loadInstr 0x41 1 false c f u s
def execLdh (c : Nat) (f : BitVec 4) (u : Upset) (s : State) : Out := loadInstr 0x42 2 true c f u s
def execLdhu (c : Nat) (f : BitVec 4) (u : Upset) (s : State) : Out := loadInstr 0x43 2 false c f u s
def execLdw (c : Nat) (f : BitVec 4) (u : Upset) (s : State) : Out := loadInstr 0x44 4 false c f u s

/-- The address that LDS and STS form: DBANK[31:12] joined to off12 (R114). -/
def bankAddr (x : Ctx) (off : BitVec 12) : Nat := x.dbank.toNat * 4096 + off.toNat

/-- LDS (R114): pushes; a long one ends by pushing. -/
def execLds (c : Nat) (off : BitVec 12) (u : Upset) (s : State) : Out :=
  .next (issue true c (fun s =>
    let a := bankAddr (s.ctx c) off
    match room false 1 (viewOf s c) with
    | .error t => raiseTrap c t.1 t.2 s
    | .ok v => memAccess c false .load 4 a v (shortLoad c false 0 a 4 false u v)
        (longLoad c false a 4 0 false v) s) s)

/-- The store buffer of a core has room (R111). -/
def bufferRoom (s : State) (c : Nat) : Bool := decide ((s.core (coreOf c)).sbuf.length < 4)

/-- A store updates a D-cache line that is present, in its own core (R78). -/
def updateDcache (c a size : Nat) (w : Word) (s : State) : State :=
  s.modCore (coreOf c) fun k =>
    { k with dcache := k.dcache.map fun l =>
        if l.addr = lineAddr a then
          let i := a % 32 / 4
          let old := nthW l.ws i
          { l with ws := setNth l.ws i (wd (readLE (writeLE (writeWord [] 0 old) (a % 4) size w.toNat) 0 4)) }
        else l }

/-- A store of a context once its operands are read: D-local at once, any other into the store buffer, and at once to its bank from
a deterministic core (R80, R86, R111). `fin` ends the instruction on its view. -/
def storeVia (c a size : Nat) (w : Word) (v : View) (fin : View → State → State) (s : State) : State :=
  let det := (s.core (coreOf c)).det
  match addrClass (coreOf c) a with
  | .short => fin (v.1, writeLE v.2.1 a size w.toNat, v.2.2) s
  | _ =>
    if det then performStore c a size w .none (updateDcache c a size w (fin v (
      if heldByOther s (bankOf a) (some c) then breakBank (bankOf a) s else s)))
    else if bufferRoom s c then
      let t := noteOwnStore c a size w (updateDcache c a size w (fin v s))
      t.modCore (coreOf c) fun k => { k with sbuf := k.sbuf ++ [⟨c, .mem (wd a) size w⟩] }
    else s

/-- A store instruction's store. -/
def storeAct (c : Nat) (exit : Bool) (a size : Nat) (w : Word) (v : View) (s : State) : State :=
  storeVia c a size w v (finishShort c exit) s

/-- STB, STH and STW ( x addr -- ) (R113). -/
def storeInstr (op size : Nat) (c : Nat) (f : BitVec 4) (s : State) : Out :=
  .next (issue false c (fun s =>
    if legalOp s c op f = false then raiseTrap c 0x01 0 s
    else match need false 2 (viewOf s c) with
      | .error t => raiseOr c (exitBit f) t s
      | .ok v =>
        let a := (v.1.ds.headD 0).toNat
        let go := storeAct c (exitBit f) a size (v.1.ds.tail.headD 0) ({ v.1 with ds := v.1.ds.drop 2 }, v.2)
        memAccess c (exitBit f) .store size a v go go s) s)

def execStb (c : Nat) (f : BitVec 4) (s : State) : Out := storeInstr 0x45 1 c f s
def execSth (c : Nat) (f : BitVec 4) (s : State) : Out := storeInstr 0x46 2 c f s
def execStw (c : Nat) (f : BitVec 4) (s : State) : Out := storeInstr 0x47 4 c f s

/-- STS ( x -- ) (R114). -/
def execSts (c : Nat) (off : BitVec 12) (s : State) : Out :=
  .next (issue false c (fun s =>
    let a := bankAddr (s.ctx c) off
    match need false 1 (viewOf s c) with
    | .error t => raiseTrap c t.1 t.2 s
    | .ok v =>
      let go := storeAct c false a 4 (v.1.ds.headD 0) ({ v.1 with ds := v.1.ds.tail }, v.2)
      memAccess c false .store 4 a v go go s) s)

/-! ## LDTRY -/

/-- Both cells of LDTRY land 3 ic after issue: x in the cell of the address, the flag above it (R116). -/
def lateTwo (det : Bool) (w fl : Word) (x : Ctx) : Ctx :=
  let y := lateTop det w none x
  lateTop det fl none { y with ds := x.ds.headD 0 :: y.ds }

/-- LDTRY of a far address (R116): the held word, a fetch started or still in flight, or the held error; a fetch starts once the context's own earlier
stores to the line have left (R81). `fin` ends the instruction on x and f. -/
def farTry (c a : Nat) (fin : Word → Word → State → State) (s : State) : State :=
  if reachesD2 s c = false then crossingError c a s
  else if holdsError s c a then raiseTrap c 0x0B a (dropLine c s)
  else match heldWords s c a with
  | some ws => fin (lineDatum ws a 4 false) 0xFFFFFFFF (dropLine c s)
  | none =>
    if holdsLine s c a then fin 0 0 s
    else if lineWaits s c a then s
    else if bridgeAccepts s (coreOf c) a then startFetch c true a (fin 0 0 s)
    else raiseTrap c 0x0B a (noteRefused (coreOf c) a s)

/-- LDTRY of shared SRAM performs an LDW and pushes its flag with it (R66, R116). -/
def longTry (c : Nat) (exit : Bool) (a : Nat) (v : View) (s : State) : State :=
  if reachesD2 s c = false then crossingError c a s else enterLong c exit (.load (wd a) 4 1 false true) v s

/-- LDTRY ( addr -- x f ) (R116, R117). -/
def execLdtry (c : Nat) (f : BitVec 4) (u : Upset) (s : State) : Out :=
  .next (issue true c (fun s =>
    if legalOp s c 0x48 f = false then raiseTrap c 0x01 0 s
    else match stackOp 1 0 1 0 (fun x => .ok x) (viewOf s c) with
      | .error t => raiseOr c (exitBit f) t s
      | .ok v =>
        let e := exitBit f
        let a := (v.1.ds.headD 0).toNat
        memAccess c e .load 4 a v
          (fun s => if u ≠ .none then coreFatal (coreOf c) 0 s
            else finishShort c e
              (lateTwo (s.core (coreOf c)).det (wd (readLE v.2.1 a 4)) 0xFFFFFFFF v.1, v.2) s)
          (fun s => if addrClass (coreOf c) a = .sram then longTry c e a v s
            else farTry c a (fun x fl t => finishShort c e (lateTwo (t.core (coreOf c)).det x fl { v.1 with line := (t.ctx c).line }, v.2) t) s) s) s)

/-! ## Atomics -/

/-- What an atomic leaves in its word (R118). -/
def atomicNew (op : Atomic) (old : Word) : Word :=
  match op with
  | .fadd n => old + n
  | .cas e n => if old = e then n else old

/-- Cells that an atomic pops. -/
def atomicPops : Atomic → Nat
  | .fadd _ => 2
  | .cas _ _ => 3

/-- A host atomic takes a tag and leaves, or waits for a tag (R197, R202). -/
def sendAtomic (c host : Nat) (a : Word) (op : Atomic) (s : State) : State :=
  match coreTag s with
  | some i => sendTlp (.atomic i host op (winNs s c a)) (s.setTag i (some ⟨.atomic c host, [], false, none⟩))
  | none => s.modFab fun f => { f with hbWait := f.hbWait ++ [.core c a] }

/-- A far access to another line drops the line that is held (R117). -/
def dropOther (c a : Nat) (s : State) : State := if holdsLine s c a then s else dropLine c s

/-- An atomic beyond the core enters LONG: at its bank, or through a bridge without a retry (R118, R119). -/
def longAtomic (c a : Nat) (op : Atomic) (enter : LongOp → State → State) (s : State) : State :=
  if reachesD2 s c = false then crossingError c a s
  else match addrClass (coreOf c) a with
  | .sram => enter (.atomic (wd a) op) s
  | .host n x =>
    if canSend s then sendAtomic c (hostAddr s n x) (wd a) op (enter (.farAtomic (wd a) op none) (dropOther c a s))
    else raiseTrap c 0x0B a (noteRefused (coreOf c) a s)
  | _ =>
    if twinAccepts s then requestTwin (.atomic c (wd a) op) (enter (.farAtomic (wd a) op none) (dropOther c a s))
    else raiseTrap c 0x0B a (noteRefused (coreOf c) a s)

/-- AFADD and ACAS: ordered as a FENCE before and after, so they wait for the context's stores (R82, R118); in D-local memory the
access is performed at the core and the old value lands 3 ic later. -/
def atomicInstr (op n : Nat) (mk : List Word → Nat × Atomic) (c : Nat) (f : BitVec 4) (u : Upset) (s : State) : Out :=
  .next (issue false c (fun s =>
    if legalOp s c op f = false then raiseTrap c 0x01 0 s
    else match need false n (viewOf s c) with
      | .error t => raiseOr c (exitBit f) t s
      | .ok v =>
        let e := exitBit f
        let a := (mk v.1.ds).1
        let op := (mk v.1.ds).2
        memAccess c e .atomic 4 a v
          (fun s => if u ≠ .none then coreFatal (coreOf c) 0 s
            else if storesVisible s c = false then s
            else
              let old := wd (readLE v.2.1 a 4)
              let x : Ctx := { v.1 with ds := v.1.ds.headD 0 :: v.1.ds.drop n }
              finishShort c e (lateTop (s.core (coreOf c)).det old none x, writeLE v.2.1 a 4 (atomicNew op old).toNat, v.2.2) s)
          (fun s => if storesVisible s c then longAtomic c a op (fun q t => enterLong c e q v t) s else s) s) s)

/-- AFADD ( addr n -- old ). -/
def execAfadd (c : Nat) (f : BitVec 4) (u : Upset) (s : State) : Out :=
  atomicInstr 0x49 2 (fun ds => ((ds.getD 1 0).toNat, .fadd (ds.getD 0 0))) c f u s

/-- ACAS ( addr expected new -- old ). -/
def execAcas (c : Nat) (f : BitVec 4) (u : Upset) (s : State) : Out :=
  atomicInstr 0x4A 3 (fun ds => ((ds.getD 2 0).toNat, .cas (ds.getD 1 0) (ds.getD 0 0))) c f u s

/-! ## Locks -/

/-- LOCK is illegal for the context: it holds a lock, or its core is deterministic (R122). -/
def mayNotLock (s : State) (c : Nat) : Bool := (s.ctx c).hold.isSome || (s.core (coreOf c)).det

/-- The trap of LOCK (R120, R122, R123): illegal while a lock is held or on a deterministic core; D for D-local, host or unmapped
addresses; P without the lock right; L while a break is pending. -/
def lockTrap (s : State) (c a : Nat) : Option TrapCA :=
  let k := coreOf c
  if mayNotLock s c then some (0x01, 0)
  else match addrClass k a with
    | .sram | .twin =>
      if (s.rights k).lock = false then some (0x08, a)
      else if (s.ctx c).brk ≠ none then some (0x0C, a)
      else none
    | _ => some (0x07, a)

/-- LOCK of a bank: the free bank is taken; otherwise the context waits in LONG. The twin's bank is asked for over the link. -/
def lockVia (c a : Nat) (fin : Bank → State → State) (enter : LongOp → State → State) (s : State) : State :=
  if reachesD2 s c = false then crossingError c a s
  else match addrClass (coreOf c) a with
  | .sram =>
    if s.bankHolder (bankOf a) = none ∧ (s.fab.lockWait.all fun d =>
        match (s.ctx d).long with | some (.lock b) => bankOf b.toNat != bankOf a | _ => true) then
      (fin ⟨false, bankOf a⟩ s).setBank (bankOf a) (some (.ctx c))
    else (enter (.lock (wd a)) s).modFab fun f => { f with lockWait := f.lockWait ++ [c] }
  | _ =>
    if twinAccepts s then requestTwin (.lock c (bankOf a)) (enter (.lock (wd a)) s)
    else raiseTrap c 0x0B a (noteRefused (coreOf c) a s)

/-- LOCK's act on its operand. -/
def lockAct (c : Nat) (exit : Bool) (a : Nat) (v : View) (s : State) : State :=
  lockVia c a (fun b t => finishShort c exit ({ v.1 with ds := v.1.ds.tail, hold := some b }, v.2) t)
    (fun q t => enterLong c exit q v t) s

/-- LOCK ( addr -- ) (R120 to R123). -/
def execLock (c : Nat) (f : BitVec 4) (s : State) : Out :=
  .next (issue false c (fun s =>
    if legalOp s c 0x4B f = false then raiseTrap c 0x01 0 s
    else match need false 1 (viewOf s c) with
      | .error t => raiseOr c (exitBit f) (if mayNotLock s c then firstTrap t (0x01, 0) else t) s
      | .ok v =>
        let a := (v.1.ds.headD 0).toNat
        match joinTrap (lockTrap s c a) (exitTrap (exitBit f) v) with
        | some t => raiseAccess c t s
        | none => lockAct c (exitBit f) a v s) s)

/-- The trap of UNLOCK: L for a pending break, I without a lock or on a deterministic core (R122, R123). -/
def unlockTrap (s : State) (c : Nat) : Option TrapCA :=
  if (s.core (coreOf c)).det then some (0x01, 0)
  else if (s.ctx c).brk ≠ none then some (0x0C, 0)
  else if (s.ctx c).hold = none then some (0x01, 0)
  else none

/-- UNLOCK ends the sequence once every earlier store is visible (R120, R121); the twin's bank over the link. -/
def unlockVia (c : Nat) (fin : State → State) (enter : LongOp → State → State) (s : State) : State :=
  match (s.ctx c).hold with
  | some ⟨false, b⟩ => settleDue c ((fin s).setBank b none)
  | some ⟨true, b⟩ => requestTwin (.unlock c b) (enter .unlock s)
  | none => s

/-- UNLOCK's act. -/
def unlockAct (c : Nat) (exit : Bool) (s : State) : State :=
  unlockVia c (finishShort c exit (({ s.ctx c with hold := none } : Ctx), (viewOf s c).2))
    (fun q t => enterLong c exit q (viewOf t c) t) s

/-- UNLOCK ( -- ). -/
def execUnlock (c : Nat) (f : BitVec 4) (s : State) : Out :=
  .next (issue false c (fun s =>
    if legalOp s c 0x4C f = false then raiseTrap c 0x01 0 s
    else match joinTrap (unlockTrap s c) (exitTrap (exitBit f) (viewOf s c)) with
      | some t => raiseAccess c t s
      | none => if storesVisible s c then unlockAct c (exitBit f) s else s) s)

/-! ## Fences, caches and banks -/

/-- FENCE waits until every earlier store is visible (R82, R127). -/
def execFence (c : Nat) (f : BitVec 4) (s : State) : Out :=
  .next (opInstr 0x4D false c f 1 (fun s => !storesVisible s c) (fun _ v => .ok v) (fun _ t => t) s)

/-- DFLUSH: once the context's stores have drained, every D-cache line of the core is invalid (R128). -/
def execDflush (c : Nat) (f : BitVec 4) (s : State) : Out :=
  .next (opInstr 0x4E false c f 2 (fun s => (s.core (coreOf c)).sbuf.any fun e => e.c == c) (fun _ v => .ok v)
    (fun _ t => t.modCore (coreOf c) fun k => { k with dcache := [] }) s)

/-- DINVAL ( addr -- ): the line that holds addr is invalid (R128). -/
def execDinval (c : Nat) (f : BitVec 4) (s : State) : Out :=
  .next (opInstr 0x4F false c f 1 (fun _ => false) (fun _ => stackOp 1 0 0 0 fun x => .ok { x with ds := x.ds.tail })
    (fun s t => t.modCore (coreOf c) fun k =>
      { k with dcache := k.dcache.filter fun l => l.addr != lineAddr ((topCells s c 1).headD 0).toNat }) s)

/-- IFLUSH: the I-cache and the fetch buffers of all four contexts are invalid (R129). -/
def execIflush (c : Nat) (f : BitVec 4) (s : State) : Out :=
  .next (opInstr 0x50 false c f 2 (fun _ => false) (fun _ v => .ok v)
    (fun _ t => (ctxsOf (coreOf c)).foldl (fun t d => t.modCtx d fun x => { x with fbuf := false })
      (t.modCore (coreOf c) fun k => { k with icache := [] })) s)

/-- SETDB writes a[31:12] (R130). -/
def execSetdb (c : Nat) (f : BitVec 4) (s : State) : Out :=
  .next (opInstr 0x51 false c f 1 (fun _ => false)
    (fun _ => stackOp 1 0 0 0 fun x => .ok { x with ds := x.ds.tail, dbank := (x.ds.headD 0).extractLsb' 12 20 })
    (fun _ t => t) s)

/-- GETDB pushes DBANK × 4,096. -/
def execGetdb (c : Nat) (f : BitVec 4) (s : State) : Out :=
  .next (opInstr 0x52 true c f 1 (fun _ => false)
    (fun _ => stackOp 0 0 1 0 fun x => .ok { x with ds := wd (x.dbank.toNat * 4096) :: x.ds }) (fun _ t => t) s)

/-- SETIB writes n[7:0] and discards the context's fetch buffer (R130). -/
def execSetib (c : Nat) (f : BitVec 4) (s : State) : Out :=
  .next (opInstr 0x53 false c f 1 (fun _ => false)
    (fun _ => stackOp 1 0 0 0 fun x => .ok { x with ds := x.ds.tail, ibank := (x.ds.headD 0).extractLsb' 0 8 })
    (fun _ t => t.modCtx c fun x => { x with fbuf := false }) s)

/-- GETIB pushes IBANK. -/
def execGetib (c : Nat) (f : BitVec 4) (s : State) : Out :=
  .next (opInstr 0x54 true c f 1 (fun _ => false)
    (fun _ => stackOp 0 0 1 0 fun x => .ok { x with ds := wd x.ibank.toNat :: x.ds }) (fun _ t => t) s)

end Sys2Proof.Machine
end

