-- ==== Sys2Proof/Machine/Control.lean ====
section
/-! DEFINITION. Branches, calls, returns, IRET, TRAP and BRK (R69 to R73, R131 to R134, R166), and the thread instructions WAIT,
SEND, YIELD, TIMER, CSWRD and CSWWR (R137 to R142). -/

namespace Sys2Proof.Machine

open Sys2Proof

/-- The predictor entry of a BZ (R70). -/
def predIndex (pc : BitVec 24) : Nat := fld pc 8 1

/-- What the core predicts for a BZ (R70, R76): the entry when it is valid and prediction is on, else the static rule, taken for a
backward target. -/
def predicts (k : Core) (pc : BitVec 24) (rel : BitVec 12) : Bool :=
  match (if k.bpEn then tget none k.pred (predIndex pc) else none) with
  | some n => bit n 1
  | none => rel.msb

/-- The predictor's counter after a branch (R70). -/
def trained (old : Option (BitVec 2)) (taken : Bool) : BitVec 2 :=
  match old with
  | none => if taken then 2 else 1
  | some n => if taken then (if n = 3 then 3 else n + 1) else (if n = 0 then 0 else n - 1)

/-- BZ ( f -- ): branches if f = 0 (R131, R133). In normal mode the context goes on where the core predicts, and what a squash
restores is kept until the branch resolves (R71); in deterministic mode it takes one slot either way (R73). -/
def bz (c : Nat) (rel : BitVec 12) (s : State) : State :=
  issue true c (fun s =>
    match need false 1 (viewOf s c) with
    | .error t => raiseTrap c t.1 t.2 s
    | .ok v =>
      let pc := (s.ctx c).pc
      let target := relTarget pc rel
      let taken := decide (v.1.ds.headD 0 = 0)
      let x : Ctx := { v.1 with ds := v.1.ds.tail }
      let k := s.core (coreOf c)
      if k.det then
        let t := commit c 1 (x, v.2) (if taken then target else pc + 2) s
        if taken then trailFlow c pc 0 target t else t
      else
        let p := predicts k pc rel
        let snap : Snap :=
          { ds := x.ds, rs := x.rs, dspPtr := x.dspPtr, rspPtr := x.rspPtr, cf := x.cf, vf := x.vf, lands := x.lands, bzPc := pc
            target := target, taken := taken, predicted := p, undo := [], due := [], cxIssue := x.cxIssue, cxTags := [], starved := false
            cycles := x.cycles + 1, t0 := x.t0, t1 := x.t1 }
        commit c 1 ({ x with snaps := x.snaps ++ [snap] }, v.2) (if p then target else pc + 2) s) s

/-- BZ. -/
def execBz (c : Nat) (rel : BitVec 12) (s : State) : Out := .next (bz c rel s)

/-- BRA (R131). -/
def execBra (c : Nat) (rel : BitVec 12) (s : State) : Out :=
  .next (issue true c (fun s =>
    let pc := (s.ctx c).pc
    trailFlow c pc 1 (relTarget pc rel) (commit c 1 (viewOf s c) (relTarget pc rel) s)) s)

/-- The return cell of a call (R132). -/
def returnCell (pc : BitVec 24) : Word := (pc + 2).setWidth 32

/-- CALL R:( -- ret ) (R131, R132). -/
def execCall (c : Nat) (rel : BitVec 12) (s : State) : Out :=
  .next (issue true c (fun s =>
    let pc := (s.ctx c).pc
    match stackOp 0 0 0 1 (fun x => .ok { x with rs := returnCell pc :: x.rs }) (viewOf s c) with
    | .error t => raiseTrap c t.1 t.2 s
    | .ok v => trailFlow c pc 2 (relTarget pc rel) (commit c 1 v (relTarget pc rel) s)) s)

/-- A control opcode with EXIT = 1, with bits [11:9] not zero or with a dispatch entry that is not loaded is illegal (R90, R93, R169). -/
def controlInstr (op : Nat) (spec : Bool) (c : Nat) (f : BitVec 4) (go : State → State) (s : State) : State :=
  issue spec c (fun s => if f = 0 ∧ opLoaded s c op then go s else raiseTrap c 0x01 0 s) s

/-- JMPX ( a -- ) (R132, R133). -/
def execJmpx (c : Nat) (f : BitVec 4) (s : State) : Out :=
  .next (controlInstr 0x60 true c f (fun s =>
    match need false 1 (viewOf s c) with
    | .error t => raiseTrap c t.1 t.2 s
    | .ok v =>
      let a := v.1.ds.headD 0
      if badTarget a then raiseTrap c 0x09 a.toNat s
      else
        let d := BitVec.ofNat 24 a.toNat
        trailFlow c (s.ctx c).pc 3 d (commit c 1 ({ v.1 with ds := v.1.ds.tail }, v.2) d s)) s)

/-- CALLX ( a -- ) R:( -- ret ) (R132, R133). -/
def execCallx (c : Nat) (f : BitVec 4) (s : State) : Out :=
  .next (controlInstr 0x61 true c f (fun s =>
    let pc := (s.ctx c).pc
    match need false 1 (viewOf s c) with
    | .error t => raiseTrap c t.1 t.2 s
    | .ok v =>
      let a := v.1.ds.headD 0
      if badTarget a then raiseTrap c 0x09 a.toNat s
      else match stackOp 0 0 0 1 (fun x => .ok { x with ds := x.ds.tail, rs := returnCell pc :: x.rs }) v with
        | .error t => raiseTrap c t.1 t.2 s
        | .ok u =>
          let d := BitVec.ofNat 24 a.toNat
          trailFlow c pc 2 d (commit c 1 u d s)) s)

/-- RET R:( a -- ) (R132, R133). -/
def execRet (c : Nat) (f : BitVec 4) (s : State) : Out :=
  .next (controlInstr 0x62 true c f (fun s =>
    match popReturn (viewOf s c) with
    | .error t => raiseTrap c t.1 t.2 s
    | .ok r => trailFlow c (s.ctx c).pc 4 r.2 (commit c 1 r.1 r.2 s)) s)

/-- IRET (R134, R166): pops the CSW cell and the return cell, checks the latter, and restores C, V, IE, INH and PRI. A refused return cell goes before
INH = 0, and INH = 0 before cells that are not there (R132, R147). -/
def execIret (c : Nat) (f : BitVec 4) (s : State) : Out :=
  .next (controlInstr 0x63 false c f (fun s =>
    match need true 2 (viewOf s c) with
    | .error t => if (s.ctx c).inh then raiseTrap c t.1 t.2 s else raiseTrap c 0x01 0 s
    | .ok v =>
        let csw := v.1.rs.headD 0
        let r := v.1.rs.tail.headD 0
        if badTarget r then raiseTrap c 0x09 r.toNat s
        else if (s.ctx c).inh = false then raiseTrap c 0x01 0 s
        else
          let d := BitVec.ofNat 24 r.toNat
          let x : Ctx := { v.1 with
            rs := v.1.rs.drop 2, cf := bit csw 0, vf := bit csw 1, ie := bit csw 2, inh := bit csw 5
            pri := BitVec.ofNat 2 (fld csw 7 6) }
          trailFlow c (s.ctx c).pc 5 d (commit c 1 (x, v.2) d s)) s)

/-- TRAP ( n -- ): raises software-trap with n[7:0]; the operand is popped at the entry (R134, R148). -/
def execTrap (c : Nat) (f : BitVec 4) (s : State) : Out :=
  .next (controlInstr 0x64 false c f (fun s =>
    match need false 1 (viewOf s c) with
    | .error t => raiseTrap c t.1 t.2 s
    | .ok v => raiseSoft c 0x0E ((v.1.ds.headD 0).extractLsb' 0 8) 1
        (chargeCore c v.2.2 ((s.modCore (coreOf c) fun k => { k with dlocal := v.2.1 }).setCtx c v.1))) s)

/-- BRK raises breakpoint (R134). -/
def execBrk (c : Nat) (f : BitVec 4) (s : State) : Out :=
  .next (controlInstr 0x65 false c f (fun s => raiseSoft c 0x0F 0 0 s) s)

/-! ## Events of a context -/

/-- A flag of a context is set; a flag already pending counts in EV_DUP (R237). -/
def setFlag (c : Nat) (i : Nat) (s : State) : State :=
  (unsettle c s).modCtx c fun x => if bit x.evPend i then { x with evDup := satInc x.evDup } else { x with evPend := putBit x.evPend i true }

/-- A context in WAIT with a pending flag in its mask completes it: the flags are cleared and hit replaces the mask (R138, R241). -/
def wakeWait (c : Nat) (s : State) : State :=
  let x := s.ctx c
  let hit := x.evPend &&& x.evWmask
  if x.st = .wait ∧ hit ≠ 0 then
    finishLong c (fun y => popPush 1 hit { y with evPend := y.evPend &&& ~~~hit }) s
  else s

/-- A post reaches its context (R237, R241, R247). -/
def postArrives (src : Option Nat) (c : Nat) (flag : BitVec 5) (s : State) : State :=
  wakeWait c (setFlag c flag.toNat (intrudeCheck src c flag s))

/-- WAIT ( mask -- hit ) (R138): completes at once with the pending flags of its mask, or with 0 for a mask of 0; otherwise the
context enters WAIT with the mask on the stack. -/
def execWait (c : Nat) (f : BitVec 4) (s : State) : Out :=
  .next (issue false c (fun s =>
    if legalOp s c 0x72 f = false then raiseTrap c 0x01 0 s
    else match need false 1 (viewOf s c) with
      | .error t => raiseOr c (exitBit f) t s
      | .ok v =>
        match exitTrap (exitBit f) v with
        | some t => raiseTrap c t.1 t.2 s
        | none =>
          let mask := v.1.ds.headD 0
          let hit := v.1.evPend &&& mask
          if hit ≠ 0 ∨ mask = 0 then
            finishShort c (exitBit f) ({ v.1 with ds := hit :: v.1.ds.tail, evPend := v.1.evPend &&& ~~~hit }, v.2) s
          else
            account c 1 v.2.2 (((fetchLine c s).modCore (coreOf c) fun k => { k with dlocal := v.2.1 }).setCtx c
              { v.1 with st := .wait, evWmask := mask, longExit := exitBit f })) s)

/-- SEND ( target -- ) (R139): waits until every earlier access is visible; a post to itself sets the flag directly, any other
crosses to D_2 and back. A core above 16 is illegal. -/
def execSend (c : Nat) (f : BitVec 4) (s : State) : Out :=
  .next (opInstr 0x73 false c f 1 (fun s => !storesVisible s c)
    (fun _ => stackOp 1 0 0 0 fun x =>
      if 16 < fld (x.ds.headD 0) 11 7 then .error (0x01, 0) else .ok { x with ds := x.ds.tail })
    (fun s t =>
      let w := (topCells s c 1).headD 0
      let d := 4 * fld w 11 7 + fld w 6 5
      let flag := BitVec.ofNat 5 (fld w 4 0)
      if d = c then setFlag c flag.toNat t
      else sendEvents (domOf (coreOf c)) true (.post (some c) d flag true) 1 t) s)

/-- YIELD (R140): only time passes. -/
def execYield (c : Nat) (f : BitVec 4) (s : State) : Out :=
  .next (opInstr 0x74 false c f 1 (fun _ => false) (fun _ v => .ok v) (fun _ t => t) s)

/-- TIMER ( n e -- ) (R141): the arming crosses to D_2; it stalls while its queue is full (R42). -/
def execTimer (c : Nat) (f : BitVec 4) (s : State) : Out :=
  .next (opInstr 0x75 false c f 1 (fun s => queueFull s (domOf (coreOf c)) true)
    (fun _ => stackOp 2 0 0 0 fun x => .ok { x with ds := x.ds.drop 2 })
    (fun s t =>
      let ds := topCells s c 2
      sendItem (domOf (coreOf c)) true (.timerArm c (ds.getD 1 0) ((ds.getD 0 0).extractLsb' 0 5)) t) s)

/-- CSWRD pushes CSW (R142). -/
def execCswrd (c : Nat) (f : BitVec 4) (s : State) : Out :=
  .next (opInstr 0x76 true c f 1 (fun _ => false)
    (fun _ v => stackOp 0 0 1 0 (fun x => .ok { x with ds := cswOf s c :: x.ds }) v) (fun _ t => t) s)

/-- CSWWR writes C, V and IE (R142). -/
def execCswwr (c : Nat) (f : BitVec 4) (s : State) : Out :=
  .next (opInstr 0x77 false c f 1 (fun _ => false)
    (fun _ => stackOp 1 0 0 0 fun x =>
      let w := x.ds.headD 0
      .ok { x with ds := x.ds.tail, cf := bit w 0, vf := bit w 1, ie := bit w 2 })
    (fun _ t => t) s)

end Sys2Proof.Machine
end

