-- ==== Sys2Proof/Machine/CoreEvents.lean ====
section
/-! DEFINITION. The events of the cores: results landing (R64), branch resolution (R70, R71), the arrival of far lines (R67, R196),
locks granted and broken (R120, R123), trap and interrupt entry (R147 to R167), and interrupt lines and doorbells (R150 to R154). -/

namespace Sys2Proof.Machine

open Sys2Proof


/-- A user op that stands between two microwords, with its working copy changed. -/
def onWork (g : UWork → UWork) (x : Ctx) : Ctx :=
  match x.mid with
  | some (.user op f w) => { x with mid := some (.user op f (g w)) }
  | _ => x

/-- RESULT_LAND (R63 to R65, R176): the i-th result due lands in its cell, for the working copy of a user op under way as well; behind the context's
own results come those of the op's microwords. -/
def execResultLand (c i : Nat) (s : State) : Out :=
  .next (match (s.ctx c).lands[i]? with
    | none => s.modCtx c fun x => onWork (UWork.landOne (i - x.lands.length)) x
    | some l => s.modCtx c fun x =>
        onWork (landWork x l) { applyLand x l with lands := x.lands.eraseIdx i, snaps := x.snaps.map (landSnap x l) })

/-- The predictor entry of a resolved BZ is trained (R70, R73). -/
def trainBz (c : Nat) (h : Snap) (s : State) : State :=
  s.modCore (coreOf c) fun k =>
    let i := predIndex h.bzPc
    let miss := decide (h.taken ≠ h.predicted)
    { k with
      pred := tput i (some (trained (tget none k.pred i) h.taken)) k.pred
      bpMiss := if miss then satInc k.bpMiss else k.bpMiss }

/-- The trail entry of a taken BZ (R480). -/
def bzTrail (c : Nat) (h : Snap) (s : State) : State :=
  if h.taken then
    let w := trailWords c h.bzPc 0 h.target 0
    trailPut (coreOf c) w.1 w.2 s
  else s

/-- The oldest BZ completes and everything younger is squashed, its speculative Cauldron ops with it (R71, R161, R233). -/
def squashYounger (c : Nat) (s : State) : State :=
  match (s.ctx c).snaps with
  | [] => s
  | h :: t =>
    let tags := ((h :: t).map fun q => q.cxTags).flatten
    bzTrail c h (squash c (trainBz c h (tags.foldl (fun u tag => cancelOp false tag u) s)))

/-- A refused CX_GO starves its context's account of the Cauldron, unless D_4 has FLOOR_UNMET (R263). -/
def noteCxStarved (refused : Bool) (c : Nat) (s : State) : State :=
  if refused && !(s.dom 4).floorBad then noteStarved (s.ctx c).acct.toNat 1 s else s

/-- BRANCH_RESOLVE (R70 to R72): the oldest BZ resolves; a misprediction squashes the younger instructions. -/
def execBranchResolve (c : Nat) (s : State) : Out :=
  .next (match (s.ctx c).snaps with
    | [] => s
    | h :: t =>
      if h.taken = h.predicted then
        let u := noteCxStarved h.starved c (bzTrail c h (trainBz c h s))
        (h.due.foldl (fun v w => trailPut (coreOf c) w.1 w.2 v) u).modCtx c fun x => { x with snaps := t }
      else squashYounger c s)

/-- FAR_LINE_ARRIVAL (R67, R196): the load is re-issued against the map in force and retires from the holder, which is released. -/
def execFarLineArrival (c : Nat) (s : State) : Out :=
  .next (match (s.ctx c).long with
    | some (.far a size pops signed) =>
      match heldWords s c a.toNat with
      | none => s
      | some ws =>
        match accessTrap s c .load size a.toNat with
        | some t => trapLong c t.1 t.2 s
        | none => finishLong c (fun x => { popPush pops (lineDatum ws a.toNat size signed) x with line := none }) s
    | _ => s)

/-- LOCK_GRANT (R120, R189): a waiting context takes its free bank. -/
def execLockGrant (c : Nat) (s : State) : Out :=
  .next (match (s.ctx c).long with
    | some (.lock a) =>
      let b := bankOf a.toNat
      if c ∈ s.fab.lockWait ∧ s.bankHolder b = none then
        finishLong c (fun x => { x with ds := x.ds.tail, hold := some ⟨false, b⟩ })
          ((s.setBank b (some (.ctx c))).modFab fun f => { f with lockWait := f.lockWait.filter fun d => d != c })
      else s
    | _ => s)

/-- LOCK_BREAK (R123, R207): the fabric breaks the lock on a bank after 64 fc. -/
def execLockBreak (b : Nat) (s : State) : Out :=
  .next (breakBank b s)

/-- The vector read of an entry meets a parity error: the core is lost, and the entry does not complete ("When things go wrong", chapter 6).
An entry whose save step faults reads no vector. -/
def entryParity (c : Nat) (vpar : Bool) (saved s : State) (enter : State) : State :=
  match room true 2 (viewOf saved c) with
  | .ok _ => if vpar then coreFatal (coreOf c) 0 s else enter
  | .error _ => enter

/-- TRAP_ENTRY (R148, R149, R157 to R160): a raised trap that no older BZ holds back is entered through word 0 of the table; a
lock-broken trap ends the pending break (R123). -/
def execTrapEntry (c delay : Nat) (vpar : Bool) (s : State) : Out :=
  .next (match (s.ctx c).trap with
    | none => s
    | some q =>
      if (s.ctx c).snaps ≠ [] ∨ islandRuns s (domOf (coreOf c)) = false then s
      else
        let x := landAll (s.ctx c)
        let y : Ctx := { x with ds := x.ds.drop q.pops, line := none, brk := if q.cause = 0x0C then none else x.brk }
        entryParity c vpar (s.setCtx c y) s (enterHandler c (if q.after then x.pc + 2 else x.pc) q.cause.toNat q.cause.toNat 0 none delay
          (fun z => { z with trapArg := q.arg, trapAddr := q.addr, trapPc := x.pc }) id (s.setCtx c y)))

/-- The line selected for a context: highest priority, then lowest number (R155). -/
def bestLine (k : Core) (x : Ctx) (t : Nat) : Option Nat :=
  (List.range 16).foldl (fun b l =>
    if deliverable k x t l then
      match b with
      | none => some l
      | some m => if linePri k m < linePri k l then some l else b
    else b) none

/-- The controller does not recognise a line for the context now (R119, R124, R156), nor before the first instruction of a handler has issued (R163). -/
def entryDeferred (s : State) (c : Nat) : Bool :=
  let x := s.ctx c
  decide (x.st = .halted ∨ x.st = .parked ∨ x.hold ≠ none) || x.entered ||
  (match x.long with
    | some (.load _ _ _ _ _) | some (.atomic _ _) | some (.farAtomic _ _ _) | some (.io _ _) | some (.value _ _)
    | some .unlock => true
    | _ => false) ||
  ((s.core (coreOf c)).det && x.trap.isSome) || !islandRuns s (domOf (coreOf c))

/-- The receiver of a channel of crossing x consumes its new events (R44). -/
def takeChan (x : Nat) (toD2 : Bool) (q : EvChan) (s : State) : State :=
  s.modXing x fun v => v.setDir toD2 { v.dir toD2 with chans := (v.dir toD2).chans.map fun r => if r.ev = q.ev then r.take else r }

/-- The word of a supervisor doorbell under way to a core arrives (R153). -/
def takeDbWord (k : Nat) (s : State) : State :=
  match (s.xing (domOf k)).fromD2.items.find? fun i => match i with | .svdb j _ => j == k | _ => false with
  | some (.svdb j w) =>
    (s.modXing (domOf k) fun q => { q with fromD2 := { q.fromD2 with items := q.fromD2.items.erase (.svdb j w) } }).modCore k
      fun q => { q with svDb := w }
  | _ => s

/-- New events on an interrupt line reach its controller, each in turn; a doorbell's word comes with its event (R44, R153, R154). -/
def lineArrives (k l n : Nat) (s : State) : State :=
  (List.range n).foldl (fun t _ => lineEvent k l (if l = 15 then takeDbWord k t else t)) s

/-- The channel of a line under way to a core, if it has new events. -/
def lineChan (s : State) (k l : Nat) : Option EvChan :=
  (s.xing (domOf k)).fromD2.chans.find? fun q => q.ev == .line k l && decide (0 < q.new)

/-- The new events of a line that is under way to a core arrive (R44, R154). -/
def takeLine (k l : Nat) (s : State) : State :=
  match lineChan s k l with
  | some q => lineArrives k l q.new (takeChan (domOf k) false q s)
  | none => s

/-- INTERRUPT_ENTRY (R154 to R165): the best deliverable line is recognised; a newer line that is visible by the selection step and
wins takes the entry over (R162), and selection takes the best request still pending, or the provisional one where none is; the context's work is
stopped (R161) and the handler is entered. -/
def execInterruptEntry (c : Nat) (newer : BitVec 16) (delay : Nat) (vpar : Bool) (s : State) (raised cleared : BitVec 16 := 0) : Out :=
  let k := coreOf c
  .next (if entryDeferred s c then s
    else match bestLine (s.core k) (s.ctx c) (ctxIx c) with
      | none => s
      | some p =>
        let x0 := s.ctx c
        let s0 := lineEvents k raised ((List.range 16).foldl (fun t l => if bit newer l then takeLine k l t else t) s)
        let s1 := s0.modCore k fun q => { q with pend := q.pend &&& ~~~cleared }
        let n := (bestLine (s1.core k) x0 (ctxIx c)).getD p
        let s2 := unsettle c (abandonWork c (squashYounger c s1))
        let s3 := s2.modCtx c fun x => { landAll x with trap := none }
        entryParity c vpar s3 s (enterHandler c (s3.ctx c).pc (0x20 + p) (0x20 + n) (1 + n) (some (BitVec.ofNat 2 (linePri (s1.core k) n))) delay
          (fun z => { z with trapArg := 0, trapAddr := 0 })
          (fun t => t.modCore k fun q => { q with pend := putBit q.pend n false }) s3))

/-- What new events of a channel from D_2 do at island x: they ungate an island that the Gorgar gated (R26), a line of S brings D_3 back
to RUN (R27), and an island whose clock runs consumes them (R43, R44, R154, R237). -/
def arriveEvents (x : Nat) (q : EvChan) (s : State) : State :=
  let t := ungate x (match q.ev with | .line 16 _ => wakeS s | _ => s)
  if islandRuns t x then
    let u := takeChan x false q t
    match q.ev with
    | .line k l => lineArrives k l q.new u
    | .post src dst flag _ => (List.range q.new).foldl (fun v _ => postArrives src dst flag v) u
  else s

/-- INT_LINE_EVENT (R44, R154): the new events of a line under way to a core become visible at its controller. -/
def execIntLineEvent (k l : Nat) (s : State) : Out :=
  .next (match lineChan s k l with
    | some q => arriveEvents (domOf k) q s
    | none => s)

/-- INT_RAISE (R151, R152): a context raises lines of its own core directly; S raises lines of a work core across its crossing. -/
def execIntRaise (c k : Nat) (mask : BitVec 16) (s : State) : Out :=
  .next (if k = coreOf c then lineEvents k mask s
    else if isS c ∧ k < 16 then raiseMask 3 k mask s
    else s)

/-- S writes SV_DOORBELL_n (R153): the word and one event on line 15 leave D_3 for W_n, by way of D_2 (R40). -/
def ringDoorbell (k : Nat) (w : Word) (s : State) : State :=
  if k < 16 then raiseFrom 3 k 15 (sendItem 3 true (.svdb k w) s) else s

/-- SV_DOORBELL: S stalls while the queue of its crossing is full (R42). -/
def execSvDoorbell (k : Nat) (w : Word) (s : State) : Out := .next (if queueFull s 3 true then s else ringDoorbell k w s)

/-- SV_DB_READ (R153): returns the word and clears it. -/
def execSvDbRead (k : Nat) (s : State) : Out :=
  .next ((s.withRdata (s.core k).svDb).modCore k fun q => { q with svDb := 0 })

/-! ## Halting and parking -/

/-- CTXCTL HALT, CORE_STOP and a job's end: the context halts at its next boundary, but not while it holds a lock, waits for a
shared-SRAM access or has a far atomic outstanding; a WAIT or far load is abandoned (R54, R119, R124, R146). DESIGN CHOICE: the line that LDTRY or a
far load holds is dropped as at an entry, which R117's list does not name (log 105). -/
def haltRequest (c : Nat) (s : State) : State :=
  let x := s.ctx c
  if x.st = .halted then s
  else if x.hold ≠ none then s.modCtx c fun y => { y with haltDue := true }
  else match x.long with
    | some (.load _ _ _ _ _) | some (.atomic _ _) | some (.farAtomic _ _ _) | some (.io _ _) | some (.value _ _)
    | some .unlock => s.modCtx c fun y => { y with haltDue := true }
    | _ =>
      let t := abandonWork c (squashYounger c s)
      haltCtx c 0 (t.modCtx c fun y => { landAll y with trap := none, haltDue := false, parkDue := false })

end Sys2Proof.Machine
end

