-- ==== Sys2Proof/Machine/Miller.lean ====
section
/-! DEFINITION. The Miller (R251 to R269): capacities, users, admission, refill, slack lending, ADAPT, parking and its registers'
writes. Resources are numbered 0 core cycles, 1 Cauldron cycles, 2 host DMA bytes, 3 twin bytes. -/

namespace Sys2Proof.Machine

open Sys2Proof

/-- One resource of four. -/
def Quad.get (q : Quad) (r : Nat) : Nat :=
  match r with
  | 0 => q.core
  | 1 => q.cx
  | 2 => q.dma
  | _ => q.twin

/-- One resource of four replaced. -/
def Quad.put (q : Quad) (r v : Nat) : Quad :=
  match r with
  | 0 => { q with core := v }
  | 1 => { q with cx := v }
  | 2 => { q with dma := v }
  | _ => { q with twin := v }

/-- The turn length that will stand at the next boundary (R261). -/
def turnAhead (s : State) : Nat := (s.mill.turnNext.map fun p => p.1.toNat).getD s.mill.turnUs.toNat

/-- A shift chosen by ADAPT is made at the boundary unless ACCOUNT_SET touches either account (R264). -/
def shiftKept (s : State) (p : Nat × Nat × Nat × Nat) : Bool := (s.acct p.1).next.isNone && (s.acct p.2.1).next.isNone

/-- An effective guarantee as it will stand once what is accepted, and each shift that is due, has taken effect (R260, R261, R264). -/
def guarAhead (s : State) (r a : Nat) : Nat :=
  let q := s.acct a
  match q.next with
  | some n => (n.g.getD r none).getD (q.guar.get r)
  | none => (s.mill.shiftNext.filter fun p => p.2.2.1 == r && shiftKept s p).foldl
      (fun n p => if p.1 = a then n - p.2.2.2 else if p.2.1 = a then n + p.2.2.2 else n) (q.eff.get r)

/-- The host-set guarantee as it will stand. -/
def hostAhead (q : Acct) (r : Nat) : Nat :=
  match q.next with
  | some n => ((n.g.getD r none).getD (q.guar.get r))
  | none => q.guar.get r

/-- Accounts with a bound context on core k, without repeats (R253). -/
def boundOn (s : State) (k : Nat) : List Nat := ((ctxsOf k).map fun c => (s.ctx c).acct.toNat).dedup

/-- Users of core cycles on core k: those, and ACCT_0 on D_3 (R521). -/
def coreUsers (s : State) (k : Nat) : List Nat := if k = 16 ∧ 0 ∉ boundOn s k then 0 :: boundOn s k else boundOn s k

/-- Every account. -/
def allAccts : List Nat := List.range 64

/-- Accounts that are users of Cauldron cycles and twin bytes (R521). -/
def cxUsers (s : State) : List Nat := (0 :: allCtxs.map fun c => (s.ctx c).acct.toNat).dedup

/-- Accounts that are users of host DMA bytes (R521). -/
def dmaUsers (s : State) : List Nat :=
  (0 :: (s.host.rings.filter fun e => e.2.st ≠ .absent).map fun e => e.2.acct.toNat).dedup

/-- Capacity per turn of a resource at given floors; for core cycles, of the island of core k (Table 11.1). -/
def capacityAt (floor : Nat → Nat) (turn r k : Nat) : Nat :=
  match r with
  | 0 => floor (domOf k) * turn
  | 1 => 2 * floor 4 * turn
  | 2 => 1500 * turn
  | _ => 1000 * turn

/-- FLOOR_MHZ in force, and as it will stand at the next boundary (R261). -/
def floorNow (s : State) (d : Nat) : Nat := (s.dom d).floorMhz.toNat
def floorAhead (s : State) (d : Nat) : Nat := ((s.dom d).floorNext.getD (s.dom d).floorMhz).toNat

/-- Capacity at the floors in force. -/
def capacity (s : State) (turn r k : Nat) : Nat := capacityAt (floorNow s) turn r k

/-- Sum over accounts. -/
def sumOver (l : List Nat) (g : Nat → Nat) : Nat := l.foldl (fun n a => n + g a) 0

/-- Accounts whose guarantees count against a capacity: for core cycles those with a bound context on the island, otherwise all (R260). -/
def counted (s : State) (r k : Nat) : List Nat := if r = 0 then boundOn s k else s.mill.accts.map fun e => e.1

/-- At most 90 % of a capacity is promised by the guarantees in force (R260). -/
def fitsNow (s : State) (r k : Nat) : Bool :=
  decide (10 * sumOver (counted s r k) (fun a => (s.acct a).eff.get r) ≤ 9 * capacity s s.mill.turnUs.toNat r k)

/-- At most 90 % will be promised after the next boundary: the test counts the floor in force and never more than the floor that will stand
(R260, R261, the Advice of R267, log 108). -/
def fitsAhead (s : State) (r k : Nat) : Bool :=
  decide (10 * sumOver (counted s r k) (guarAhead s r) ≤
    9 * capacityAt (fun d => min (floorNow s d) (floorAhead s d)) (turnAhead s) r k)

/-- ACCT_0 keeps at least 10 % of each capacity, for core cycles of that of D_3 (R257, log 108). -/
def acct0Fits (s : State) (r : Nat) : Bool :=
  decide (capacityAt (fun d => max (floorNow s d) (floorAhead s d)) (turnAhead s) r 16 ≤ 10 * hostAhead (s.acct 0) r)

/-- Every capacity: core cycles on each island, the others once. -/
def allPools : List (Nat × Nat) := (List.range 17).map (fun k => (0, k)) ++ [(1, 0), (2, 0), (3, 0)]

/-- Whether the Miller admits a configuration (R260): as bindings make it now, and as it will stand after the next boundary. -/
def admissible (s : State) : Bool :=
  allPools.all (fun p => fitsNow s p.1 p.2 && fitsAhead s p.1 p.2) && [0, 1, 2, 3].all (acct0Fits s)

/-- A refused change sets ADMIT_REFUSED (R260). -/
def admitRefuse (s : State) : State := s.modMill fun m => { m with admitRefused := true }

/-- ACCT_CTL with a legal WARN_PCT, and LIMITS with legal percentages (Table 11.3, R14). -/
def ctlOk (w : Word) : Bool := decide (fld w 14 8 ≤ 100) && decide (w &&& ~~~(0x7FF3#32) = 0)
def limitsOk (w : Word) : Bool := decide (fld w 7 0 ≤ 100) && decide (100 ≤ fld w 15 8) && decide (fld w 31 16 = 0)
def guarOk (w : Word) : Bool := decide (w.toNat < 2 ^ 24)

/-- A change of an account is staged for the next boundary when the Miller admits it (R260, R261). -/
def stageAcct (a : Nat) (ctl : Option Word) (g : List (Option Nat)) (limits : Option Word) (s : State) : State × Bool :=
  let q := s.acct a
  let old : AcctNext := q.next.getD {}
  let merged := (List.range 4).map fun r => match g.getD r none with | some v => some v | none => old.g.getD r none
  let t := s.setAcct a { q with next := some ⟨ctl.or old.ctl, merged, limits.or old.limits⟩ }
  if admissible t then (t, true) else (admitRefuse s, false)

/-- A turn length or ADAPT_EN is staged (R261). -/
def stageTurn (us : BitVec 14) (adapt : Bool) (s : State) : State × Bool :=
  let t := s.modMill fun m => { m with turnNext := some (us, adapt) }
  if admissible t then (t, true) else (admitRefuse s, false)

/-- A binding of a context takes effect at once when admitted (R260, R522): a new user's core meter on the island is set to its
share of the rest of the turn. -/
def bindCtx (c a : Nat) (s : State) : State × Bool :=
  let k := coreOf c
  let fresh := decide (a ∉ boundOn s k)
  let t := s.modCtx c fun x => { x with acct := BitVec.ofNat 6 a }
  if admissible t then
    (if fresh then t.modAcct a fun q =>
        { q with coreMeters := tput k ((q.eff.core * (s.mill.turnUs.toNat - s.mill.turnPos) / s.mill.turnUs.toNat : Nat) : Int) q.coreMeters }
      else t, true)
  else (admitRefuse s, false)

/-! ## Parking -/

/-- A parked context returns to RUN, and a parking that was due is due no more (R256). -/
def unpark (x : Ctx) : Ctx := { x with st := if x.st = .parked then .run else x.st, parkDue := false }

/-- Contexts of an account on a core leave PARKED (R256). -/
def unparkOn (k a : Nat) (s : State) : State :=
  (ctxsOf k).foldl (fun t c => if (t.ctx c).acct.toNat = a then t.modCtx c unpark else t) s

/-- The Miller parks a context whose meter is spent: one in RUN at its microword boundary, one that holds a lock after it, and one in WAIT or LONG
when it leaves them (R54, R124, R255, R266). -/
def parkCtx (c : Nat) (s : State) : State :=
  let x := s.ctx c
  if coreSpent s c = false ∨ x.st = .halted ∨ x.st = .parked then s
  else if x.st = .run ∧ x.hold = none then parkNow c s
  else s.modCtx c fun y => { y with parkDue := true }

/-- Twin-window requests held for budget leave once their accounts may send again, in their order (R256). -/
def releaseTwin (s : State) : State :=
  s.fab.twinHold.foldl (fun t u => if twinAccepts t then requestTwin u t else failTwin u (noteTbErr 4 u.addr t))
    (s.modFab fun f => { f with twinHold := [] })

/-- What was held or deferred for budget goes on (R256). -/
def releaseHeld (s : State) : State := resumeDmas (releaseTwin s)

/-- METER_ZERO (R54, R255, Table 11.2): an account whose meter stands at or below zero without slack credit has its contexts on
the island parked; issues, segments and requests of the other resources are refused, deferred or held when they come. -/
def execMeterZero (a r d : Nat) (s : State) : Out :=
  let k := if d = 3 then 16 else d - 5
  .next (if r = 0 ∧ (d = 3 ∨ (5 ≤ d ∧ d ≤ 20)) then
      ((ctxsOf k).filter fun c => (s.ctx c).acct.toNat == a).foldl (fun t c => parkCtx c t) s
    else s)

/-! ## The turn boundary -/

/-- The largest charge of a table of charges. -/
def maxOf (t : Table Nat) : Nat := t.foldl (fun m e => max m e.2) 0

/-- What the Miller records of an account's turn (R263). -/
def turnRecord (q : Acct) : TurnRec :=
  ⟨(List.range 4).map fun r => decide (r ∈ q.starvedNow), [maxOf q.chargedCore, q.chargedCx, q.chargedDma, q.chargedTwin]⟩

/-- The end of an account's turn: its record, and the counters of the next turn start (R263, Table 11.3). -/
def closeTurn (q : Acct) : Acct :=
  { q with
    history := newest 16 (q.history ++ [turnRecord q])
    parks := if q.parkedNow then satInc q.parks else q.parks
    parkedNow := false, starvedNow := [], chargedCore := [], chargedCx := 0, chargedDma := 0, chargedTwin := 0
    restLeft := q.restLeft.map fun n => n - 1 }

/-- What ACCOUNT_SET staged takes effect: guarantees, effective guarantees and a cleared history (R261). -/
def applyNext (q : Acct) : Acct :=
  match q.next with
  | none => q
  | some n =>
    let g := (List.range 4).foldl (fun g r => match n.g.getD r none with | some v => g.put r v | none => g) q.guar
    let q1 : Acct := { q with guar := g, eff := g, history := [], next := none }
    let q2 : Acct := match n.ctl with
      | none => q1
      | some w => { q1 with
          adapt := bit w 0, lend := bit w 1, borrowW := BitVec.ofNat 4 (fld w 7 4), warnPct := BitVec.ofNat 7 (fld w 14 8) }
    match n.limits with
    | none => q2
    | some w => { q2 with floorPct := BitVec.ofNat 8 (fld w 7 0), ceilPct := BitVec.ofNat 8 (fld w 15 8) }

/-- A meter at the start of a turn: the effective guarantee less the debt, and whether debt was forgiven (R251, R255). -/
def refillMeter (eff : Nat) (m : Int) : Int × Bool :=
  if -m ≤ (eff : Int) then ((eff : Int) + min m 0, false) else (0, true)

/-- Every meter of an account at the start of a turn; slack credit has expired (R251, R255, R262). -/
def refill (users : List Nat) (q : Acct) : Acct :=
  let cs := users.map fun k => (k, refillMeter q.eff.core (tget 0 q.coreMeters k))
  let x := refillMeter q.eff.cx q.cxMeter
  let d := refillMeter q.eff.dma q.dmaMeter
  let w := refillMeter q.eff.twin q.twinMeter
  let n := (cs.filter fun e => e.2.2).length + b2n x.2 + b2n d.2 + b2n w.2
  { q with
    coreMeters := cs.map fun e => (e.1, e.2.1)
    cxMeter := x.1, dmaMeter := d.1, twinMeter := w.1, overrun := satAdd q.overrun n
    coreSlack := [], cxSlack := 0, dmaSlack := 0, twinSlack := 0 }

/-- Cores on which an account has a bound context. -/
def coresOf (s : State) (a : Nat) : List Nat := (List.range 17).filter fun k => decide (a ∈ coreUsers s k)

/-- Capacity as measured (R262). -/
def measured (s : State) (r k : Nat) : Nat :=
  match r with
  | 0 => (s.dom (domOf k)).freqMhz.toNat * s.mill.turnUs.toNat
  | 1 => 2 * (s.dom 4).freqMhz.toNat * s.mill.turnUs.toNat
  | _ => capacity s s.mill.turnUs.toNat r k

/-- Users of a resource (R521). -/
def usersOf (s : State) (r k : Nat) : List Nat :=
  match r with
  | 0 => coreUsers s k
  | 1 => cxUsers s
  | 2 => dmaUsers s
  | _ => cxUsers s

/-- Capacity that no guarantee claims (R262). -/
def unguaranteed (s : State) (r k : Nat) : Nat :=
  measured s r k - sumOver (counted s r k) fun a => (s.acct a).eff.get r

/-- An account's meter and slack credit of a resource. -/
def Acct.meter (q : Acct) (r k : Nat) : Int :=
  match r with
  | 0 => tget 0 q.coreMeters k
  | 1 => q.cxMeter
  | 2 => q.dmaMeter
  | _ => q.twinMeter

/-- Slack credit is added. -/
def Acct.addSlack (q : Acct) (r k n : Nat) : Acct :=
  match r with
  | 0 => { q with coreSlack := tput k (tget 0 q.coreSlack k + n) q.coreSlack }
  | 1 => { q with cxSlack := q.cxSlack + n }
  | 2 => { q with dmaSlack := q.dmaSlack + n }
  | _ => { q with twinSlack := q.twinSlack + n }

/-- What an account could lend (R262). -/
def Acct.lendable (q : Acct) (r k : Nat) : Nat := (q.meter r k - ((q.eff.get r / 2 : Nat) : Int)).toNat

/-- A pool is shared in proportion to BORROW_W, each share rounded down; parked contexts of an account that gains core credit
resume (R256, R262). -/
def sharePool (r k pool : Nat) (who : List Nat) (s : State) : State :=
  let total := sumOver who fun a => (s.acct a).borrowW.toNat
  if total = 0 then s
  else who.foldl (fun t a =>
    let n := pool * (s.acct a).borrowW.toNat / total
    let u := t.modAcct a fun q => q.addSlack r k n
    if r = 0 ∧ 0 < n then unparkOn k a u else u) s

/-- The boundary grant of one pool: half the unguaranteed capacity among the users that borrow (R262). -/
def boundaryGrant (p : Nat × Nat) (s : State) : State :=
  sharePool p.1 p.2 (unguaranteed s p.1 p.2 / 2) ((usersOf s p.1 p.2).filter fun a => decide ((s.acct a).borrowW ≠ 0)) s

/-- The mid-turn grant of one pool: the other half and what the lenders can lend, among the users that borrow and have nothing to
lend (R262). -/
def midGrant (p : Nat × Nat) (s : State) : State :=
  let u := unguaranteed s p.1 p.2
  let lenders := if p.1 = 0 then coreUsers s p.2 else s.mill.accts.map fun e => e.1
  let lent := sumOver lenders fun a => if (s.acct a).lend then (s.acct a).lendable p.1 p.2 else 0
  sharePool p.1 p.2 (u - u / 2 + lent)
    ((usersOf s p.1 p.2).filter fun a => decide ((s.acct a).borrowW ≠ 0) && decide ((s.acct a).lendable p.1 p.2 = 0)) s

/-- Turns of the record in which a resource was starved, and what was charged over them (R263). -/
def starvedTurns (q : Acct) (r : Nat) : Nat := (q.history.filter fun t => t.starved.getD r false).length
def chargedTotal (q : Acct) (r : Nat) : Nat := sumOver (q.history.map fun t => t.charged.getD r 0) id

/-- An account takes part in ADAPT for a resource (R264). -/
def adapting (q : Acct) (r : Nat) : Bool := q.adapt && decide (q.history.length = 16) && decide (q.restLeft.getD r 0 = 0)

def isDonor (q : Acct) (r : Nat) : Bool :=
  adapting q r && decide (starvedTurns q r = 0) && decide (chargedTotal q r ≤ 8 * q.eff.get r)

def isBorrower (q : Acct) (r : Nat) : Bool := adapting q r && decide (8 ≤ starvedTurns q r)

/-- What a donor left unspent over the record. -/
def unspent (q : Acct) (r : Nat) : Nat := 16 * q.eff.get r - chargedTotal q r

/-- The account of a list that is best by a measure, the lower number winning a tie. -/
def bestBy (f : Nat → Nat) : List Nat → Option Nat
  | [] => none
  | a :: t => match bestBy f t with
    | none => some a
    | some b => if f b ≤ f a then some a else some b

/-- The amount of a shift (R264). -/
def shiftAmount (d b : Acct) (r : Nat) : Nat :=
  min (min (d.eff.get r / 4) (d.eff.get r - d.floorPct.toNat * d.guar.get r / 100))
    (min (b.ceilPct.toNat * b.guar.get r / 100 - b.eff.get r) (unspent d r / 32))

/-- A shift's effect on the effective guarantees. -/
def shiftEff (d b r n : Nat) (s : State) : State :=
  (s.modAcct d fun q => { q with eff := q.eff.put r (q.eff.get r - n) }).modAcct b fun q =>
    { q with eff := q.eff.put r (q.eff.get r + n) }

/-- ADAPT's choice for one resource (R264): donor, borrower, resource and amount, when the shift keeps R260. -/
def adaptShift (r : Nat) (s : State) : Option (Nat × Nat × Nat × Nat) :=
  match bestBy (fun a => (s.acct a).borrowW.toNat) (allAccts.filter fun a => isBorrower (s.acct a) r),
      bestBy (fun a => unspent (s.acct a) r) (allAccts.filter fun a => isDonor (s.acct a) r) with
  | some b, some d =>
    let n := shiftAmount (s.acct d) (s.acct b) r
    if n = 0 ∨ admissible (s.modMill fun m => { m with shiftNext := [(d, b, r, n)] }) = false then none else some (d, b, r, n)
  | _, _ => none

/-- A shift chosen at the boundary before takes effect when it still keeps R260 (R264). -/
def applyShift (p : Nat × Nat × Nat × Nat) (s : State) : State :=
  let d := p.1
  let b := p.2.1
  let r := p.2.2.1
  let t := shiftEff d b r p.2.2.2 s
  if admissible t = false then s
  else
    let rest := fun q : Acct => { q with restLeft := ((List.range 4).map fun i => if i = r then 16 else q.restLeft.getD i 0) }
    ((t.modAcct d rest).modAcct b rest).modMill fun m => { m with shifts := satInc m.shifts }

/-- Accounts whose core meter starts the turn below its warning level raise line 5 (R258). -/
def warnAtStart (k : Nat) (s : State) : State :=
  (coreUsers s k).foldl (fun t a =>
    let q := t.acct a
    if q.warnPct ≠ 0 ∧ tget 0 q.coreMeters k * 100 < ((q.warnPct.toNat * q.eff.core : Nat) : Int) then
      raiseLine k 5 (t.modCore k fun x => { x with warned := a :: x.warned })
    else t) (s.modCore k fun x => { x with warned := [] })

/-- COLD reads 1 until 16 turns are recorded (R265). -/
def isCold (s : State) : Bool := decide (s.mill.turns < 16)

/-- Every parked context returns to RUN at the boundary (R256). -/
def unparkAll (s : State) : State := allCtxs.foldl (fun t c => t.modCtx c unpark) s

/-- A floor that was accepted takes effect (R261). -/
def applyFloors (s : State) : State :=
  (List.range 21).foldl (fun t d => if (t.dom d).floorNext.isSome then
    t.modDom d fun m => { m with floorMhz := m.floorNext.getD m.floorMhz, floorNext := none } else t) s

/-- What was accepted for MILL_CTL and MILL_BIND takes effect (R261, R265). -/
def applyMill (s : State) : State :=
  let m := s.mill
  let changed := match m.turnNext with | some p => decide (p.1 ≠ m.turnUs) | none => false
  let t := s.modMill fun m =>
    { m with
      turnUs := (m.turnNext.map fun p => p.1).getD m.turnUs
      adaptEn := (m.turnNext.map fun p => p.2).getD m.adaptEn
      turnNext := none
      bindA := (m.bindNext.map fun w => BitVec.ofNat 6 (fld w 5 0)).getD m.bindA
      bindB := (m.bindNext.map fun w => BitVec.ofNat 6 (fld w 13 8)).getD m.bindB
      bindNext := none
      turns := if changed then 0 else m.turns + 1 }
  if changed then t.modMill fun m => { m with accts := m.accts.map fun e => (e.1, { e.2 with history := [] }) } else t

/-- The boundary of a mill turn (R251). -/
def turnBoundary (s : State) : State :=
  let s1 := raiseFrom 1 16 9 s
  let s2 := s1.modMill fun m => { m with accts := m.accts.map fun e => (e.1, closeTurn e.2) }
  let s3 := applyFloors (applyMill (s2.modMill fun m => { m with accts := m.accts.map (fun e => (e.1, applyNext e.2)), shiftNext := [] }))
  let s4 := (s2.mill.shiftNext.filter (shiftKept s2)).foldl (fun t p => applyShift p t) s3
  let s5 := s4.modMill fun m => { m with accts := m.accts.map fun e => (e.1, refill (coresOf s4 e.1) e.2) }
  let s6 := (cxUsers s5).foldl (fun t a => if (t.mill.accts.any fun e => e.1 == a) then t else
    t.setAcct a (refill (coresOf s5 a) (t.acct a))) s5
  let s7 := allPools.foldl (fun t p => boundaryGrant p t) s6
  let s8 := releaseHeld (unparkAll (s7.modMill fun m => { m with turn := m.turn + 1, turnPos := 0, midDone := false }))
  let s9 := (List.range 16).foldl (fun t k => warnAtStart k t) s8
  s9.modMill fun m =>
    { m with shiftNext := if m.adaptEn && !isCold s9 then [0, 1, 2, 3].filterMap fun r => adaptShift r s9 else [] }

/-- MILL_TURN (R251): TURN_US have passed since the last boundary. -/
def execMillTurn (s : State) : Out := .next (if s.mill.turnPos < s.mill.turnUs.toNat then s else turnBoundary s)

/-- MID_TURN_GRANT (R262): once in a turn, at its middle; with the boundary due it is not made. -/
def execMidTurnGrant (s : State) : Out :=
  .next (if s.mill.midDone ∨ 2 * s.mill.turnPos < s.mill.turnUs.toNat ∨ s.mill.turnUs.toNat ≤ s.mill.turnPos then s
    else releaseHeld ((allPools.foldl (fun t p => midGrant p t) s).modMill fun m => { m with midDone := true }))

/-! ## Register writes -/

/-- A write of MILL_CTL (Table 11.3): a reserved TURN_US leaves that field (R14). -/
def writeMillCtl (w : Word) (s : State) : State :=
  let us := fld w 13 0
  let keep : BitVec 14 := (s.mill.turnNext.map fun p => p.1).getD s.mill.turnUs
  (stageTurn (if 100 ≤ us ∧ us ≤ 10000 then BitVec.ofNat 14 us else keep) (bit w 14) s).1

/-- A write by S to a Miller port (R268): a word of an account acts as ACCOUNT_SET with that word selected. -/
def writeMiller (p : Nat) (w : Word) (s : State) : State :=
  if 0x8800 ≤ p ∧ p < 0x8C00 then
    let a := (p - 0x8800) / 16
    let q := s.acct a
    let n := q.next.getD {}
    match (p - 0x8800) % 16 with
    | 0 =>
      let v := if fld w 14 8 ≤ 100 then w &&& 0x7FF3#32
        else putFld (w &&& 0x7FF3#32) 8 7 (n.ctl.elim q.warnPct.toNat fun u => fld u 14 8)
      (stageAcct a (some v) [] none s).1
    | 5 =>
      let lo := if fld w 7 0 ≤ 100 then fld w 7 0 else n.limits.elim q.floorPct.toNat fun u => fld u 7 0
      let hi := if 100 ≤ fld w 15 8 then fld w 15 8 else n.limits.elim q.ceilPct.toNat fun u => fld u 15 8
      (stageAcct a none [] (some (wd (lo + hi * 256))) s).1
    | n => if 1 ≤ n ∧ n ≤ 4 then
        (stageAcct a none ((List.range 4).map fun r => if r + 1 = n then some (fld w 23 0) else none) none s).1
      else s
  else match p with
    | 0x8C00 => writeMillCtl w s
    | 0x8C01 => if bit w 1 then s.modMill fun m => { m with admitRefused := false } else s
    | 0x8C02 => if 3 ≤ fld w 4 0 ∧ fld w 4 0 ≤ 20 then s.modMill fun m => { m with sel := BitVec.ofNat 5 (fld w 4 0) } else s
    | 0x8C03 => s.modMill fun m => { m with bindNext := some w }
    | _ => s

/-- MILLER_REGISTER_WRITE. -/
def execMillerRegisterWrite (port : BitVec 16) (w : Word) (s : State) : Out := .next (writeMiller port.toNat w s)

end Sys2Proof.Machine
end

