-- ==== Sys2Proof/Machine/Samples.lean ====
section
/-! DEFINITION. Front-end sample buffers and the two streams of a port (R213, R214, R375, R490). -/

namespace Sys2Proof.Machine

open Sys2Proof

/-- Bytes that a buffer holds between its two pointers, each of them taken modulo the size (R213). DESIGN CHOICE: no rule says what a pointer beyond
the size names (log 107). -/
def fillOf (log2 wr rd : Nat) : Nat := (wr % 2 ^ log2 + 2 ^ log2 - rd % 2 ^ log2) % 2 ^ log2

/-- The port's line on every core that NOTIFY names (Table 8.6). -/
def notifyFe (p : Nat) (mask : BitVec 16) (s : State) : State :=
  raiseLines ((List.range 16).filter fun k => bit mask k) (8 + p) s

/-- A write of RX_CTL or TX_CTL: setting EN to 1 zeroes both pointers of that direction (R213). -/
def writeFeCtl (p : Nat) (tx : Bool) (w : Word) (s : State) : State :=
  s.modFe p fun f =>
    if tx then
      let g := if bit w 0 && !f.txEn then { f with txRd := 0, txWr := 0 } else f
      { g with txEn := bit w 0, txNotify := BitVec.ofNat 16 (fld w 31 16) }
    else
      let g := if bit w 0 && !f.rxEn then { f with rxRd := 0, rxWr := 0 } else f
      { g with rxEn := bit w 0, rxNotify := BitVec.ofNat 16 (fld w 31 16) }

/-- FE_STREAM_ENABLE. -/
def execFeStreamEnable (p : Nat) (tx : Bool) (w : Word) (s : State) : Out :=
  .next (if p < 2 then writeFeCtl p tx w s else s)

/-- An RX sample word (R375): 12 bits each in [15:4] and [31:20]. -/
def rxWord (i q : BitVec 12) : Word := (q ++ (0 : BitVec 4) ++ i ++ (0 : BitVec 4)).setWidth 32

/-- A port's sample counts in the STREAM_BYTES of its account (R254, Table 11.3). -/
def streamBytes (p : Nat) (s : State) : State :=
  s.modAcct (if p = 0 then s.mill.bindA else s.mill.bindB).toNat fun q => { q with streamBytes := q.streamBytes + 4 }

/-- A sample that has crossed into D_2 is written at RX_WR, or dropped and counted when the buffer is full (R213, R214). -/
def writeRxSample (p : Nat) (w : Word) (s : State) : State :=
  let f := s.fe p
  let n := f.rxLog2.toNat
  let fill := fillOf n f.rxWr.toNat f.rxRd.toNat
  if f.rxEn = false then s
  else if fill + 4 = 2 ^ n then s.setFe p { f with overrun := satInc f.overrun }
  else
    let t := (streamBytes p (sramWord (f.rxBase.toNat + f.rxWr.toNat) w s)).setFe p
      { f with rxWr := BitVec.ofNat 20 ((f.rxWr.toNat + 4) % 2 ^ n) }
    if fill < f.rxThresh.toNat ∧ f.rxThresh.toNat ≤ fill + 4 then notifyFe p f.rxNotify t else t

/-- The samples at the head of a port's crossing leave it, up to one whose bank is held or at which D_2 does not run (R41, R43, R120). -/
def takeSamples (p : Nat) : Nat → State → State
  | 0, s => s
  | n + 1, s =>
    match ((s.xing (23 + p)).toD2).items with
    | .rxSample _ w :: rest =>
      let f := s.fe p
      if rangeHeld s (f.rxBase.toNat + f.rxWr.toNat) 4 ∨ islandRuns s 2 = false then s
      else takeSamples p n (writeRxSample p w (s.modXing (23 + p) fun x => { x with toD2 := { x.toD2 with items := rest } }))
    | _ => s

/-- A broken or partial sample is counted in FRAME_ERRS (Table 21.7; chapter 21, "When things go wrong"). -/
def frameError (p : Nat) (s : State) : State := s.modFe p fun f => { f with frameErrs := satInc f.frameErrs }

/-- FE_RX_SAMPLE (R213, R214, R490): a sample whose RX_FR keeps its pattern; one that breaks it is discarded and counted. The sample enters its port's
crossing, where it waits behind one that cannot be written yet, and goes into the buffer; a crossing that is down discards it (R41, R47). -/
def execFeRxSample (p : Nat) (i q : BitVec 12) (s : State) (frameOk : Bool := true) : Out :=
  let x := 23 + p
  .next (if 2 ≤ p ∨ (s.fe p).stalled then s
    else if frameOk = false then frameError p s
    else if (s.fe p).rxEn = false ∨ ((s.xing x).up = true ∧ queueFull s x true = true) then s
    else
      let t := sendItem x true (.rxSample p (rxWord i q)) s
      takeSamples p (t.xing x).toD2.items.length t)

/-- The next TX sample: its word, or a free value when it is uncorrectable. -/
def txWord (a : Nat) (s : State) : State × Word :=
  let r := eccRead (.other 0x7F 2) a .none s
  if r.2 then (r.1, readWord r.1.fab.sram a)
  else
    let fr := r.1.freshWord
    (fr.2, fr.1)

/-- A sample that the engine sends goes across the port's crossing to its pins; a crossing that is down discards it (R41, R47). -/
def sendSample (p : Nat) (w : Word) (s : State) : State :=
  if (s.xing (23 + p)).up then s.modFe p fun f => { f with sentSamples := f.sentSamples ++ [w] } else countDiscards 1 0 s

/-- FE_TX_SAMPLE (R213, R214, R375): the next sample while OWNED is 1, or the idle sample counted in UNDERRUN. The engine waits for a bank that is
held (R120). -/
def execFeTxSample (p : Nat) (s : State) : Out :=
  let f := s.fe p
  let n := f.txLog2.toNat
  let fill := fillOf n f.txWr.toNat f.txRd.toNat
  let a := f.txBase.toNat + f.txRd.toNat
  .next (if 2 ≤ p ∨ f.txEn = false ∨ f.stalled ∨ s.twin.feOwn = false ∨ islandRuns s 2 = false then s
    else if fill = 0 then sendSample p 0 (s.setFe p { f with underrun := satInc f.underrun })
    else if rangeHeld s a 4 then s
    else
      let r := txWord a s
      let t := sendSample p (r.2 &&& 0xFFF0FFF0) ((streamBytes p r.1).setFe p { f with txRd := BitVec.ofNat 20 ((f.txRd.toNat + 4) % 2 ^ n) })
      if f.txThresh.toNat < fill ∧ fill - 4 ≤ f.txThresh.toNat then notifyFe p f.txNotify t else t)

/-- FE_CLOCK_LOSS (R24, R43, R490): the port's domain stops, its crossing holds what it has, and STALLED sets; a transmission on
that port ends short and no ACK follows (chapter 16, "When things go wrong"). `mid`: the clock stops within a sample, whose part is discarded
and counted (chapter 21, "When things coincide"). -/
def execFeClockLoss (p : Nat) (s : State) (mid : Bool := false) : Out :=
  .next (if 2 ≤ p then s
    else
      let t := ((if mid then frameError p s else s).modDom (23 + p) fun m => { m with state := .stopped, clockOn := false }).modFe p
        fun f => { f with stalled := true }
      t.modPass fun q => { q with exchs := q.exchs.map fun x => if x.onAir && x.port == p then { x with ackDue := none } else x })

/-- FE_CLOCK_RETURN (R24, R490). -/
def execFeClockReturn (p : Nat) (s : State) : Out :=
  .next (if 2 ≤ p then s
    else (s.modDom (23 + p) fun m => { m with state := .run, clockOn := true }).modFe p fun f => { f with stalled := false })

end Sys2Proof.Machine
end

