-- ==== Sys2Proof/Machine/Clock.lean ====
section
/-! DEFINITION. Clock islands: estimated frequencies (R28, R462, R463), safe codes and the policy tick (R29 to R32, R518), reference
lock (R35 to R38, R516, R517), run states (R25 to R27), and the crossings' delivery and resynchronisation (R41 to R48). -/

namespace Sys2Proof.Machine

open Sys2Proof

/-! ## The calibration page in force -/

/-- Word i of the calibration page that the last bring-up loaded (R462, R464). -/
def calWord (s : State) (i : Nat) : Word :=
  match s.boot.calLive with
  | some ws => nthW ws i
  | none => Config.calPage i

/-- Byte o of the page. -/
def calByte (s : State) (o : Nat) : Nat := (calWord s (o / 4)).toNat / 256 ^ (o % 4) % 256

/-- The signed halfword at offset o. -/
def calHalf (s : State) (o : Nat) : Int := sgn 16 (calByte s o + 256 * calByte s (o + 1))

/-- The largest n below lo + 2^k for which p holds, p falling from true to false; lo when none. -/
def bisect (p : Nat → Bool) : Nat → Nat → Nat
  | 0, lo => lo
  | k + 1, lo => if p (lo + 2 ^ k) then bisect p k (lo + 2 ^ k) else bisect p k lo

/-- 250 × 16^(c/63) × k/2000 in tenths of a MHz, rounded half up: decided exactly with 63rd powers (R463). -/
def tenthMHz (c k : Nat) : Nat := bisect (fun n => decide (((2 * n - 1) * 4) ^ 63 ≤ 16 ^ c * k ^ 63)) 14 0

/-- The table frequency of code c of island d at calibration temperature t, in tenths of a MHz (R463, Table 19.8); under
CAL_DEFAULTS the deviations are 0. -/
def tableFreq (s : State) (d c t : Nat) : Nat :=
  let base := 0x020 + 198 * (d - 2)
  let dev := if s.clk.calDefaults then 0
    else calHalf s (base + 2 * t) + sgn 8 (calByte s (base + 6 + 3 * c + t))
  tenthMHz c (2000 + dev).toNat

/-- The sensor nearest to an island (Table 2.9). -/
def sensorOf (d : Nat) : Nat :=
  if d = 2 ∨ d = 3 then 0 else if d = 4 then 1 else if d ≤ 8 then 2 else if d ≤ 12 then 3 else if d ≤ 16 then 4 else 5

/-- Common denominator of the two interpolations of R28: 1,040 and 1,360 sixteenths of a degree. -/
def tempDenom : Nat := 17680

/-- The interpolated frequency at temperature t (in sixteenths of a degree), in 1/17,680 of a tenth of a MHz (R28). -/
def interpolated (s : State) (d c : Nat) (t : Int) : Nat :=
  let f0 : Int := tableFreq s d c 0
  let f1 : Int := tableFreq s d c 1
  let f2 : Int := tableFreq s d c 2
  let v : Int :=
    if t ≤ -640 then f0 * 17680
    else if 1760 ≤ t then f2 * 17680
    else if t < 400 then f0 * 17680 + (f1 - f0) * (t + 640) * 17
    else f1 * 17680 + (f2 - f1) * (t - 400) * 13
  v.toNat

/-- The temperature that R28 takes for an island. -/
def islandTemp (s : State) (d : Nat) : Int := (tget 0 s.clk.temps (sensorOf d)).toInt

/-- The island's ageing correction as parts per million of 1 (R28, R29). -/
def ageing (s : State) (d : Nat) : Nat := (1000000 + (s.dom d).agePpm).toNat

/-- The estimated frequency of R28 in 1/(17,680 × 10^6) of a tenth of a MHz. -/
def estimate (s : State) (d c : Nat) : Nat := interpolated s d c (islandTemp s d) * ageing s d

/-- One MHz in the unit of `estimate`. -/
def estimateMHz : Nat := 10 * tempDenom * 1000000

/-! ## Guarantees and safe codes -/

/-- The island carries a guarantee (R30, R37): an account with a nonzero guarantee for a context or stream on it. -/
def carriesGuarantee (s : State) (d : Nat) : Bool :=
  if d = 2 then s.mill.accts.any fun e => decide (e.2.guar.dma ≠ 0 ∨ e.2.guar.twin ≠ 0)
  else if d = 4 then s.mill.accts.any fun e => decide (e.2.guar.cx ≠ 0)
  else (coreUsers s (if d = 3 then 16 else d - 5)).any fun a => decide ((s.acct a).guar.core ≠ 0)

/-- The safe code (R30). -/
def safeCode (s : State) (d : Nat) : Nat :=
  if carriesGuarantee s d then
    ((List.range 64).find? fun c => decide (103 * (s.dom d).floorMhz.toNat * estimateMHz ≤ 100 * estimate s d c)).getD 63
  else 0

/-- The code whose estimated frequency lies nearest a target in MHz, the lower code winning a tie (R516, Table 19.2). -/
def nearestCode (s : State) (d mhz : Nat) : Nat :=
  let dist := fun c => let e := estimate s d c; let t := mhz * estimateMHz; (e - t) + (t - e)
  (List.range 64).foldl (fun b c => if dist c < dist b then c else b) 0

/-- The adaptive islands. -/
def adaptive : List Nat := (List.range 19).map fun i => i + 2

/-- Reference lock is asked for, or held under CAL_DEFAULTS while the island is in RUN (R38). -/
def lockAsked (s : State) (d : Nat) : Bool := (s.dom d).refLock || (s.clk.calDefaults && decide ((s.dom d).state = .run))

/-- An acquisition starts: LOCKED clears at once (R35). -/
def acquire (d : Nat) (s : State) : State := s.modDom d fun m => { m with locked := false, goodWins := 0 }

/-! ## The policy tick -/

/-- The sensors are sampled; the page's offsets are added (R28, R465). -/
def sampleTemps (ts : List (BitVec 16)) (s : State) : State :=
  s.modClk fun k => { k with temps := (List.range 8).map fun n =>
    (n, ts.getD n 0 + (if k.calDefaults then 0 else BitVec.ofInt 16 (calHalf s (0xF00 + 2 * n)))) }

/-- The junction temperature: the highest reading, 8 °C higher under CAL_DEFAULTS (R31, R38). -/
def junction (s : State) : Int :=
  let ts := (List.range 8).map fun n => (tget 0 s.clk.temps n).toInt
  ts.foldl max (ts.headD 0) + (if s.clk.calDefaults then 128 else 0)

/-- The thermal hold: the junction is at or above tj_limit less 5 °C (R31, R508). -/
def thermalHold (s : State) : Bool := decide ((if Config.gradeE then 2000 else 1760) - 80 ≤ junction s)

/-- An island whose measurement strays by more than 6 % is placed under reference lock at the nearest whole MHz at or above 1.03 ×
FLOOR_MHZ, and the stray is logged. -/
def strayLock (d : Nat) (s : State) : State :=
  let mhz := min 400 ((103 * (s.dom d).floorMhz.toNat + 99) / 100)
  logFault 0x0E 1 0 0x7F d none 0 0 (acquire d (s.modDom d fun m => { m with refLock := true, lockMhz := BitVec.ofNat 9 mhz }))

/-- The measurement of one island in RUN (R29, R518): FREQ_MHZ, FLOOR_UNMET, the ageing correction and the 6 % test. The spec reports the
frequency in MHz without a rounding; the model drops the fraction (log 49). -/
def measureIsland (d khz : Nat) (s : State) : State :=
  let m := s.dom d
  if m.state ≠ .run then s.modDom d fun m => { m with floorBad := false }
  else
    let bad := decide (m.code = 63) && decide (khz < 1000 * m.floorMhz.toNat)
    let s1 := s.modDom d fun m => { m with freqMhz := BitVec.ofNat 9 (khz / 1000), floorBad := bad }
    let s2 := if bad then raiseFrom 1 16 7 (s1.modClk fun k => { k with floorUnmet := true }) else s1
    let s3 := if bad && !m.floorBad then logFault 0x0F 1 0 0x7F d none 0 0 s2 else s2
    if lockAsked s d then s3
    else
      let base := interpolated s d m.code.toNat (islandTemp s d)
      let got := khz * tempDenom * 1000000
      let est := base * 100 * ageing s d
      let ppm : Int := if base = 0 then 0 else (got / (base * 100) : Nat) - 1000000
      let s4 := s3.modDom d fun m => { m with agePpm := max (-30000) (min 30000 ppm) }
      if 6 * est < 100 * ((got - est) + (est - got)) then strayLock d s4 else s4

/-- A front-end clock above 66 MHz holds its port's crossing in reset; at 66 MHz or less the crossing is released (R518). -/
def measureFe (p khz : Nat) (s : State) : State :=
  let d := 23 + p
  let m := s.dom d
  let s1 := s.modDom d fun m => { m with freqMhz := BitVec.ofNat 9 (khz / 1000) }
  if 66000 < khz then
    if m.feFast then s1
    else logFault 0x10 1 0 0x7F d none 0 0 (crossingDown d (s1.modDom d fun m => { m with feFast := true, inRst := true }))
  else if m.feFast then s1.modDom d fun m => { m with feFast := false, inRst := false }
  else s1

/-- What one tick decides for an island: its safe code, the code before the cap, and what the rules would have chosen without
the holds (R31, R32). -/
structure Plan where
  d : Nat
  need : Nat
  code : Nat
  free : Nat
deriving DecidableEq, Repr

/-- The code of one island before the power cap (R31, R32). -/
def planIsland (s : State) (hold : Bool) (d busy slots : Nat) : Plan :=
  let c := (s.dom d).code.toNat
  let need := safeCode s d
  if s.clk.policyEn then
    let step := if 85 * slots < 100 * busy then c + 1 else if 2 * busy < slots then c - 1 else c
    let lim := min (s.dom d).codeCap.toNat (c + 8)
    ⟨d, need, max need (min (if hold then need else step) lim), min step lim⟩
  else ⟨d, need, if hold then need else max need c, c⟩

/-- What est_power is asked for: per adaptive island 0 when it does not run, else its code and one. -/
def powerCodes (s : State) (ps : List Plan) : List Nat :=
  adaptive.map fun d =>
    if (s.dom d).state = .run then
      (match ps.find? fun p => p.d == d with | some p => p.code | none => (s.dom d).code.toNat) + 1
    else 0

/-- One island's code lowered by one. -/
def lowerPlan (d : Nat) (ps : List Plan) : List Plan := ps.map fun p => if p.d = d then { p with code := p.code - 1 } else p

/-- What lowering island d would save. -/
def saving (s : State) (ps : List Plan) (d : Nat) : Int :=
  (Config.estPower (powerCodes s ps) : Int) - Config.estPower (powerCodes s (lowerPlan d ps))

/-- The island with the largest saving among those above their safe codes, the lowest domain winning a tie (R31). -/
def bestSaving (s : State) (ps : List Plan) : Option Nat :=
  (ps.filter fun p => decide (p.need < p.code)).foldl (fun b p =>
    match b with
    | none => some p.d
    | some d => if saving s ps d < saving s ps p.d then some p.d else some d) none

/-- The power-cap loop of R31. -/
def capLoop (s : State) : Nat → List Plan → List Plan
  | 0, ps => ps
  | n + 1, ps =>
    if Config.estPower (powerCodes s ps) ≤ s.clk.capMw.toNat then ps
    else match bestSaving s ps with
      | none => ps
      | some d => capLoop s n (lowerPlan d ps)

/-- The codes of one tick and what CLK_STATUS reads after it (R31, R32). THERMAL_LIMIT is set in every tick in which the thermal limit is
reached (R32); Table 2.8 speaks of an island held, which differs only where every running island is under reference lock (log 101). -/
def chooseCodes (t : TickIn) (s : State) : State :=
  let hold := thermalHold s
  let mine := adaptive.filter fun d => decide ((s.dom d).state = .run) && !lockAsked s d
  let ps0 := mine.map fun d => planIsland s hold d (t.busy.getD (d - 2) 0) (t.slots.getD (d - 2) 0)
  let cap := s.clk.capMw.toNat
  let ps := if cap ≠ 0 ∧ s.clk.policyEn = true then capLoop s 1300 ps0 else ps0
  let est := Config.estPower (powerCodes s ps)
  let unmet := decide (cap ≠ 0) && decide (cap < est)
  let s1 := adaptive.foldl (fun u d => u.modDom d fun m => { m with atFloor := false }) s
  let s2 := ps.foldl (fun u p => u.modDom p.d fun m =>
    { m with code := BitVec.ofNat 6 p.code, atFloor := decide (p.code = p.need ∧ p.need < p.free) }) s1
  s2.modClk fun k =>
    { k with
      capUnmet := unmet, capSeen := k.capSeen || unmet, thermal := hold
      estMw := BitVec.ofNat 16 (min est 65535) }

/-- POLICY_TICK (R29, R31, R32, R518): suspended until bring-up phase 4 and while the utility PLL is unlocked (R34). -/
def execPolicyTick (t : TickIn) (s : State) : Out :=
  .next (if s.clk.policyOn = false ∨ s.clk.pllLocked = false then s
    else
      let s1 := sampleTemps t.temps s
      let s2 := adaptive.foldl (fun u d => measureIsland d (t.khz.getD (d - 2) 0) u) s1
      let s3 := measureFe 1 (t.feKhz.getD 1 0) (measureFe 0 (t.feKhz.getD 0 0) s2)
      chooseCodes t s3)

/-! ## ISL_CTL_d -/

/-- STATE_REQ as coded (Table 2.5). -/
def RunState.ofCode (n : Nat) : RunState := if n = 0 then .run else if n = 1 then .gated else if n = 2 then .stopped else .off
def RunState.code (r : RunState) : Nat :=
  match r with
  | .run => 0
  | .gated => 1
  | .stopped => 2
  | .off => 3

/-- A reserved value of LOCK_MHZ, FLOOR_MHZ or STATE_REQ is refused in its field (R14, R38, Table 2.5). -/
def mhzOk (n : Nat) : Bool := decide (25 ≤ n ∧ n ≤ 400)
def lockMhzOk (s : State) (n : Nat) : Bool := mhzOk n && (!s.clk.calDefaults || decide (n ≤ 200))
def stateOk (d : Nat) (r : RunState) : Bool := decide (4 ≤ d) || decide (r ≠ .off)

/-- The island runs a core in deterministic mode, or is D_4 or a lane core's island while a lane is enabled (R36, R224). -/
def lockFrozen (s : State) (d : Nat) : Bool :=
  if d = 4 then s.cx.lane0.en || s.cx.lane1.en
  else decide (5 ≤ d) && ((s.core (d - 5)).det || (s.cx.lane0.en && s.cx.lane0.core.toNat + 5 == d) ||
    (s.cx.lane1.en && s.cx.lane1.core.toNat + 5 == d))

/-- A refused clock write sets CFG_REFUSED and interrupts S (R36, R37, Table 6.2). -/
def cfgRefuse (s : State) : State := raiseFrom 1 16 7 (s.modClk fun k => { k with cfgRefused := true })

/-- A FLOOR_MHZ accepted for the next boundary (R261). -/
def stageFloor (d v : Nat) (s : State) : State :=
  s.modDom d fun m => { m with floorNext := if v = m.floorMhz.toNat then none else some (BitVec.ofNat 9 v) }

/-- FLOOR_MHZ as it will stand: a reserved value or one that R260 refuses leaves it. -/
def floorAfter (d v : Nat) (s : State) : State × Nat :=
  let old := floorAhead s d
  if mhzOk v = false ∨ v = old then (s, old)
  else if admissible (stageFloor d v s) then (s, v)
  else (admitRefuse s, old)

/-- The floor that a lock is held against (R37): the higher of the one in force and the one that will stand (log 108). -/
def lockFloor (s : State) (d floor : Nat) : Nat := max (s.dom d).floorMhz.toNat floor

/-- REF_LOCK and LOCK_MHZ take new values: an acquisition starts, or the lock ends with the code kept (R35, R517). -/
def setLock (d : Nat) (lock : Bool) (mhz : Nat) (s : State) : State :=
  let m := s.dom d
  let t := s.modDom d fun m => { m with refLock := lock, lockMhz := BitVec.ofNat 9 mhz }
  if lock ∧ (m.refLock = false ∨ m.lockMhz.toNat ≠ mhz) then acquire d t
  else if lock = false ∧ m.refLock then
    t.modDom d fun m => { m with locked := false, goodWins := 0, trim := Config.phase4Trim d }
  else t

/-- The lock and floor fields of a write of ISL_CTL_d (R36, R37). -/
def writeLockFloor (d : Nat) (lock : Option (Bool × Nat)) (floor : Option Nat) (s : State) : State :=
  let m := s.dom d
  let old := (m.refLock, m.lockMhz.toNat)
  let asked := match lock with
    | some p => (p.1 || (s.clk.calDefaults && decide (m.state = .run)), if lockMhzOk s p.2 then p.2 else old.2)
    | none => old
  let f := match floor with
    | some v => floorAfter d v s
    | none => (s, floorAhead s d)
  let frozen := lockFrozen s d && decide (asked ≠ old)
  let l := if frozen then old else asked
  let s1 := if frozen then cfgRefuse f.1 else f.1
  if l.1 ∧ l.2 < lockFloor s d f.2 ∧ carriesGuarantee s d ∧ (l, f.2) ≠ (old, floorAhead s d) then cfgRefuse s1
  else setLock d l.1 l.2 (stageFloor d f.2 s1)

/-- An island enters STOPPED: its crossing holds what it has, and a locked one clears LOCKED (R43, R516). -/
def islandStop (d : Nat) (s : State) : State :=
  s.modDom d fun m =>
    { m with state := .stopped, clockOn := false, autoGated := false, locked := m.locked && !m.refLock, goodWins := 0 }

/-- An island is gated: its oscillator and its lock loop go on (R25, R516). -/
def islandGate (d : Nat) (auto : Bool) (s : State) : State :=
  s.modDom d fun m => { m with state := .gated, clockOn := false, autoGated := auto }

/-- A written STATE_REQ (R25, R27): D_2 enters its state under R27, RUN is reached by ISLAND_WAKE, any other state at once. -/
def requestState (d : Nat) (r : RunState) (s : State) : State :=
  let t := s.modDom d fun m => { m with stateReq := r }
  if d = 2 ∨ (s.dom d).state = r then
    (if d ≠ 2 ∧ r = .gated then islandGate d false t else t)
  else match r with
    | .run => t
    | .gated => islandGate d false t
    | .stopped => islandStop d t
    | .off => islandOff d t

/-- A write of the fields of ISL_CTL_d that `cap`, `lock`, `floor` and `st` name (R39, Table 2.5). -/
def writeIslFields (d : Nat) (cap lock floor st : Bool) (w : Word) (s : State) : State :=
  if d < 2 ∨ 20 < d then s
  else
    let s1 := if cap then s.modDom d fun m => { m with codeCap := BitVec.ofNat 6 (fld w 5 0) } else s
    let s2 := writeLockFloor d (if lock then some (bit w 6, fld w 15 7) else none) (if floor then some (fld w 24 16) else none) s1
    let r := RunState.ofCode (fld w 27 26)
    if st ∧ stateOk d r then requestState d r s2 else s2

/-- ISL_CTL_WRITE (R36, R37, R39, R260). -/
def execIslCtlWrite (d : Nat) (w : Word) (s : State) : Out := .next (writeIslFields d true true true true w s)

/-! ## Run states -/

/-- Nothing of a work core asks for its clock (R26): every context waits or is halted, no op and no far request is outstanding. -/
def coreIdle (s : State) (k : Nat) : Bool :=
  ((ctxsOf k).all fun c => decide ((s.ctx c).st = .wait ∨ (s.ctx c).st = .halted)) &&
  ((ctxsOf k).all fun c => !fetching (s.ctx c)) &&
  (s.cx.ops.all fun o => coreOf o.c != k) && (s.core k).sbuf.isEmpty &&
  (s.fab.treqs.all fun r => coreOf r.use.ctx != k) && (s.fab.twinHold.all fun u => coreOf u.ctx != k)

/-- ISLAND_AUTO_GATE (R26). -/
def execIslandAutoGate (d : Nat) (s : State) : Out :=
  let m := s.dom d
  .next (if m.state = .run ∧ m.stateReq = .run ∧
      ((5 ≤ d ∧ d ≤ 20 ∧ coreIdle s (d - 5) = true) ∨ (d = 4 ∧ s.cx.ops = [])) then islandGate d true s else s)

/-- Every domain from D_3 to D_24 is STOPPED, OFF or without its clock (R27). -/
def othersStopped (s : State) : Bool :=
  (List.range 22).all fun i =>
    let m := s.dom (i + 3)
    if i + 3 ≤ 20 then decide (m.state = .stopped ∨ m.state = .off) else !m.clockOn

/-- FABRIC_ISLAND_STATE (R27). -/
def execFabricIslandState (s : State) : Out :=
  let m := s.dom 2
  .next (if othersStopped s then
    (if m.stateReq = m.state then s
     else match m.stateReq with
      | .gated => islandGate 2 false s
      | .stopped => islandStop 2 s
      | _ => s)
  else if m.state = .run then s
  else
    let t := s.modDom 2 fun m => { m with state := .run, clockOn := true }
    if m.state = .stopped ∧ lockAsked s 2 then acquire 2 t else t)

/-- A core whose island leaves OFF starts with cleared memories and the mask-ROM default in its stores, whatever was written in OFF (R182, R519). -/
def powerUpCore (d : Nat) (s : State) : State :=
  if (s.dom d).state = .off ∧ 5 ≤ d ∧ d ≤ 20 then powerLossCore (d - 5) s else s

/-- An island is in RUN again (R25, R35, R38, R516): from OFF it starts at its reset state, and its lock loop at the code nearest
LOCK_MHZ. -/
def islandRun (d : Nat) (s : State) : State :=
  let m := s.dom d
  let lock := m.refLock || s.clk.calDefaults
  let t := (powerUpCore d s).modDom d fun m => { m with
    state := .run, clockOn := true, autoGated := false, refLock := lock
    code := if lock ∧ m.state = .off then BitVec.ofNat 6 (nearestCode s d m.lockMhz.toNat) else m.code }
  if lock ∧ (m.state = .stopped ∨ m.state = .off) then acquire d t else t

/-! ## The lock loop and the utility PLL -/

/-- LOCK_LOOP_WINDOW (R35): four windows within ±0.1 % set LOCKED, one beyond ±0.5 % clears it and sets LOCK_LOST; trim and code
move as the loop has it (free values, log 13). The loop needs its reference and its oscillator (R516). -/
def execLockLoopWindow (d : Nat) (errPpm : Int) (s : State) : Out :=
  let m := s.dom d
  .next (if d < 2 ∨ 20 < d ∨ lockAsked s d = false ∨ s.clk.pllLocked = false ∨ m.state = .stopped ∨ m.state = .off then s
    else
      let p := Config.loopStep s.free
      let good := if errPpm.natAbs ≤ 1000 then min (m.goodWins + 1) 4 else 0
      let lost := m.locked && decide (5000 < errPpm.natAbs)
      let t := ({ s with free := s.free + 1 }).modDom d fun m =>
        { m with
          code := p.1, trim := p.2, goodWins := good
          locked := decide (good = 4) || (m.locked && !lost), lockLost := m.lockLost || lost }
      if lost then raiseFrom 1 16 7 t else t)

/-- UTILITY_PLL_UNLOCK: every locked island holds its code and trim, clears LOCKED and sets LOCK_LOST; REF_UNLOCK sets, S is
interrupted, and policy ticks are suspended ("When things go wrong", chapter 2). -/
def execUtilityPllUnlock (s : State) : Out :=
  .next (if s.clk.pllLocked = false then s
    else
      let t := adaptive.foldl (fun u d =>
        if (u.dom d).locked then u.modDom d fun m => { m with locked := false, lockLost := true, goodWins := 0 } else u) s
      raiseFrom 1 16 7 (t.modClk fun k => { k with pllLocked := false, refUnlock := true }))

/-- UTILITY_PLL_RELOCK: policy ticks resume. -/
def execUtilityPllRelock (s : State) : Out := .next (s.modClk fun k => { k with pllLocked := true })

/-- CORE_CTL_BP_FLUSH (R73, R76). -/
def execCoreCtlBpFlush (k : Nat) (s : State) : Out := .next (s.modCore k fun x => { x with pred := [] })

/-! ## Crossings -/

/-- A timer is armed, or disarmed by n = 0, when its arming reaches D_2 (R141). -/
def armTimer (c : Nat) (n : Word) (ev : BitVec 5) (s : State) : State :=
  s.modCtx c fun x => { x with tmrLeft := n, tmrArmed := decide (n ≠ 0), tmrEv := ev }

/-- A direction of crossing x after its receiver has consumed the oldest value. -/
def dropItem (x : Nat) (toD2 : Bool) (s : State) : State :=
  s.modXing x fun v => v.setDir toD2 { v.dir toD2 with items := (v.dir toD2).items.tail }

/-- A value from an island is visible in D_2: an arming takes effect (R141), a doorbell word goes on to its core's crossing, unless that
queue is full, and then it stalls where it is (R40, R42). -/
def itemAtD2 (x : Nat) (it : XItem) (s : State) : State :=
  match it with
  | .timerArm c n ev => armTimer c n ev (dropItem x true s)
  | .rxSample p _ => takeSamples p 1 s
  | .svdb k _ => if queueFull s (domOf k) false then s else sendItem (domOf k) false it (dropItem x true s)

/-- A value from D_2 reaches its island (R26, R41, R43, R153). -/
def itemAtIsland (x : Nat) (it : XItem) (s : State) : State :=
  let t := ungate x s
  if islandRuns t x then
    match it with
    | .svdb k w => (dropItem x false t).modCore k fun q => { q with svDb := w }
    | .timerArm _ _ _ => dropItem x false t
    | .rxSample _ _ => dropItem x false t
  else s

/-- XING_DELIVER (R40 to R45): the oldest value of a direction's queue, or the new events of one of its channels, become visible at a
receiver whose clock runs. Events that reach D_2 go on across the crossing of their target; those of crossing 0 reach D_1 and go on across
crossing 1. -/
def execXingDeliver (x : Nat) (toD2 : Bool) (s : State) (ch : Option Nat := none) : Out :=
  let d := (s.xing x).dir toD2
  .next (match ch with
    | none => match d.items with
      | [] => s
      | it :: _ => if toD2 then (if islandRuns s 2 then itemAtD2 x it s else s) else itemAtIsland x it s
    | some i => match d.chans[i]? with
      | none => s
      | some q =>
        if q.new = 0 then s
        else if toD2 = false then arriveEvents x q s
        else if islandRuns s (if x = 0 then 1 else 2) then
          eventFrom (if x = 0 then 1 else 2) q.ev q.new (takeChan x true q s)
        else s)

/-- The clock of a domain runs (R48). -/
def clockRuns (s : State) (d : Nat) : Bool := (s.dom d).clockOn && !(s.dom d).inRst

/-- XING_RESYNC (R48): with both sides out of reset and both clocks running the crossing comes up, empty. The resynchronisation
that follows a pointer error of crossing 3 starts its interval of 1 ms (Table 20.3). -/
def execXingResync (x : Nat) (s : State) : Out :=
  .next (if (s.xing x).up ∨ x = 2 ∨ 24 < x ∨ clockRuns s (if x = 0 then 1 else 2) = false ∨ clockRuns s x = false then s
    else
      let t := s.setXing x { up := true }
      let u := if x = 3 ∧ s.clk.x3Err then t.modClk fun k => { k with x3Err := false, x3Timer := some 0 } else t
      if x = 21 then bridgeBack u else u)

end Sys2Proof.Machine
end

