-- ==== Sys2Proof/Machine/Thornhedge.lean ====
section
/-! DEFINITION. Event flags and timers as ports and events act on them (R237 to R241), and the Thornhedge (R242 to R250). -/

namespace Sys2Proof.Machine

open Sys2Proof

/-- Every set bit of a mask sets a flag of the context itself (R237, R241). -/
def setFlags (c : Nat) (w : Word) (s : State) : State :=
  wakeWait c ((List.range 32).foldl (fun t i => if bit w i then setFlag c i t else t) s)

/-- EV_SET (R241). -/
def execEvSet (c : Nat) (w : Word) (s : State) : Out := .next (setFlags c w s)

/-- EV_CLR (R240). -/
def execEvClr (c : Nat) (w : Word) (s : State) : Out :=
  .next (s.modCtx c fun x => { x with evPend := x.evPend &&& ~~~w })

/-- A channel with new posts of this flag to the context. -/
def isPost (c : Nat) (flag : BitVec 5) (q : EvChan) : Bool :=
  match q.ev with
  | .post _ d f _ => d == c && f == flag && decide (0 < q.new)
  | _ => false

/-- EVENT_POST_DELIVER (R44, R237, R241): the new posts of this flag on the first channel that has some arrive at the context. -/
def execEventPostDeliver (c : Nat) (flag : BitVec 5) (s : State) : Out :=
  let x := domOf (coreOf c)
  .next (match (s.xing x).fromD2.chans.find? (isPost c flag) with
    | some q => arriveEvents x q s
    | none => s)

/-- TIMER_EXPIRY (R141, R239): an armed timer of D_2 reaches zero, and its post enters the crossing. -/
def execTimerExpiry (c : Nat) (s : State) : Out :=
  let x := s.ctx c
  .next (if x.tmrArmed && decide (x.tmrLeft = 0) && islandRuns s 2 then
    eventFrom 2 (.post (some c) c x.tmrEv false) 1
      (s.modCtx c fun y => { y with tmrArmed := false, tmrLeft := 0 })
  else s)

/-! ## Hedges -/

/-- Members in ascending context number. -/
def Group.members (g : Group) : List Nat := allCtxs.filter g.member

/-- An arming of the context's timer is still crossing to D_2; the timer counts as armed from the arming on (R141). -/
def armingUnderWay (s : State) (c : Nat) : Bool :=
  (s.xing (domOf (coreOf c))).toD2.items.any fun i => match i with | .timerArm d n _ => d == c && decide (n ≠ 0) | _ => false

/-- Conditions 1 to 5 of Table 10.3 for one member; an LDTRY line is outstanding until it is released or dropped (R117). -/
def memberHedged (s : State) (g : Group) (c : Nat) : Bool :=
  let x := s.ctx c
  let k := coreOf c
  (decide (x.st = .halted) || decide ((s.dom (domOf k)).state = .off) ||
    (decide (x.st = .wait) && decide (x.evWmask ≠ 0) && decide (x.evWmask &&& ~~~g.internal = 0))) &&
  !x.tmrArmed && !armingUnderWay s c && (s.cx.ops.all fun o => o.c != c) &&
  x.line.isNone &&
  ((List.range 16).all fun l => !deliverable (s.core k) x (ctxIx c) l)

/-- A post to a member in flight on any crossing (Table 10.3, conditions 6 and 7). -/
def postInFlight (s : State) (g : Group) : Bool :=
  s.clk.xings.any fun e => (e.2.toD2.chans ++ e.2.fromD2.chans).any fun q =>
    match q.ev with
    | .post _ d _ _ => g.member d && decide (0 < q.inFlight)
    | _ => false

/-- The group is hedged (R243). -/
def hedged (s : State) (g : Group) : Bool := g.en && (g.members.all (memberHedged s g)) && !postInFlight s g

/-- The snapshot (Table 10.5). -/
def hedgeSnapshot (s : State) (n : Nat) (g : Group) : List Word :=
  wd (n + g.members.length * 2 ^ 4 + s.thorn.settle.toNat * 2 ^ 16) ::
    (g.members.map fun c =>
      let x := s.ctx c
      let halted := decide (x.st = .halted) || decide ((s.dom (domOf (coreOf c))).state = .off)
      [wd (c + b2n halted * 2 ^ 8), if halted then 0 else x.evWmask, x.evPend]).flatten

/-- HEDGE_FIRE (R245, R246, R250): a hedged group that has not fired in this hedge fires. -/
def execHedgeFire (n : Nat) (s : State) : Out :=
  let g := s.group n
  .next (if 8 ≤ n then s
    else if hedged s g = false then s.modGroup n fun q => { q with settled := false }
    else if g.settled then s
    else
      let s1 := s.setGroup n
        { g with
          snap := if g.fired then g.snap else hedgeSnapshot s n g
          fired := true, fires := satInc g.fires, settled := true }
      let s2 := match g.woodcutter with
        | some w => eventFrom 2 (.post none w 31 true) 1 s1
        | none => s1
      if g.supv then raiseLine 16 6 s2 else s2)

/-! ## Registers -/

/-- A write of the fields of HG_CTL_g to a group that is not enabled (R249): the whole write is refused when it would enable an
inconsistent group. -/
def enableGroup (n : Nat) (w : Word) (s : State) : State :=
  let g := s.group n
  let k := fld w 8 4
  let g1 : Group := { g with
    wood := bit w 1, supv := bit w 2, wcore := if k ≤ 16 then BitVec.ofNat 5 k else g.wcore, wctx := BitVec.ofNat 2 (fld w 10 9) }
  let shared := (List.range 8).any fun m => m != n && (s.group m).en && allCtxs.any fun c => g1.member c && (s.group m).member c
  let cut : Bool := match g1.woodcutter with | some c => g1.member c | none => false
  if bit w 0 = false then s.setGroup n g1
  else if g1.members = [] ∨ cut ∨ shared ∨ (g1.wood = false ∧ g1.supv = false) then s.setGroup n { g with cfgErr := true }
  else s.setGroup n { g1 with en := true, settled := false }

/-- A write of HG_CTL_g to an enabled group (R249). -/
def adjustGroup (n : Nat) (w : Word) (s : State) : State :=
  let g := s.group n
  let cutter := g.member (4 * g.wcore.toNat + g.wctx.toNat)
  let badCut := decide (fld w 8 4 ≠ g.wcore.toNat ∨ fld w 10 9 ≠ g.wctx.toNat)
  let keep := bit w 0 && ((!bit w 1 && !bit w 2) || (bit w 1 && cutter))
  s.setGroup n { g with
    en := bit w 0
    wood := if keep then g.wood else bit w 1
    supv := if keep then g.supv else bit w 2
    cfgErr := g.cfgErr || badCut || keep }

/-- A write of HG_CTL_g: its W1C bits, then its fields (R248, R249). -/
def writeHgCtl (n : Nat) (w : Word) (s : State) : State :=
  if 8 ≤ n then s
  else
    let t := s.modGroup n fun g => { g with cfgErr := g.cfgErr && !bit w 16, intrude := g.intrude && !bit w 17 }
    if (t.group n).en then adjustGroup n w t else enableGroup n w t

/-- HG_CTL_WRITE. -/
def execHgCtlWrite (n : Nat) (w : Word) (s : State) : Out := .next (writeHgCtl n w s)

/-- A write of HG_MEM0_g to HG_MEM2_g or HG_INTERNAL_g is ignored, with CFG_ERR, while EN is 1 (R249). -/
def writeHgField (n i : Nat) (w : Word) (s : State) : State :=
  s.modGroup n fun g =>
    if g.en then { g with cfgErr := true }
    else match i with
      | 1 => { g with mem0 := w }
      | 2 => { g with mem1 := w }
      | 3 => { g with mem2 := w.extractLsb' 0 4 }
      | _ => { g with internal := w }

/-- HG_SNAP_DATA_READ (R248, R250): the word at INDEX of the selected group, 0 beyond the last entry. -/
def execHgSnapDataRead (s : State) : Out :=
  .next ((s.withRdata (nthW (s.group s.thorn.snapSel.toNat).snap s.thorn.snapIdx.toNat)).modThorn fun t =>
    { t with snapIdx := t.snapIdx + 1 })

end Sys2Proof.Machine
end

