-- ==== Sys2Proof/Machine/Cauldron.lean ====
section
/-! DEFINITION. The Cauldron (chapter 9): issue and its checks (R219, R220, R223, R224, R232), the eight ops (R216, R217, R226 to
R228), starting and completing them (R221, R222, R229 to R231, R234), taking, cancelling and the reserved lanes. -/

namespace Sys2Proof.Machine

open Sys2Proof

/-! ## Fields of an op -/

/-- Fields of the GO word (Table 9.3). -/
def CxOp.accIx (o : CxOp) : Nat := fld o.go 6 4
def CxOp.unord (o : CxOp) : Bool := bit o.go 7
def CxOp.rlane (o : CxOp) : Bool := bit o.go 8
def CxOp.even (o : CxOp) : Bool := bit o.go 9
def CxOp.ev (o : CxOp) : BitVec 5 := BitVec.ofNat 5 (fld o.go 14 10)
def CxOp.conj (o : CxOp) : Bool := bit o.go 15
def CxOp.shift (o : CxOp) : Nat := fld o.go 20 16

/-- CMAC, NORM, ACCRD and ACCCLR name an accumulator (Table 9.3, R230). -/
def namesAcc (op : Nat) : Bool := op == 1 || op == 6 || op == 7 || op == 8
/-- FIR and ACCRD write shared SRAM. -/
def writesSram (op : Nat) : Bool := op == 3 || op == 7

/-! ## Issue -/

/-- One core's issue unit draws the lowest general tag that is neither in flight nor drawn (R223). -/
def drawOne (k : Nat) (s : State) : State :=
  match (s.core k).drawn with
  | some _ => s
  | none =>
    let used := tagsInFlight s ++ (List.range 17).filterMap fun j => (s.core j).drawn
    match (List.range 28).find? fun t => decide (t ∉ used) with
    | some t => s.modCore k fun q => { q with drawn := some t }
    | none => s

/-- Every issue unit draws ahead when it can (R223). -/
def drawAll (s : State) : State := (List.range 17).foldl (fun t k => drawOne k t) s

/-- The lane that an op of core k with this GO word runs on (R224). -/
def laneFor (s : State) (k : Nat) (go : Word) : Option Nat :=
  let mine := [(0, s.cx.lane0), (1, s.cx.lane1)].filter fun l => l.2.en && l.2.core.toNat == k
  if (s.core k).det then
    (mine.find? fun l => !namesAcc (fld go 3 0) || fld go 6 4 == 6 + l.1).map fun l => l.1
  else none

/-- An accumulator of an enabled lane (R224). -/
def laneAcc (s : State) (a : Nat) : Bool := (a == 6 && s.cx.lane0.en) || (a == 7 && s.cx.lane1.en)

/-- A free tag of a lane. -/
def laneTag (s : State) (j : Nat) : Option Nat := [28 + 2 * j, 29 + 2 * j].find? fun t => decide (t ∉ tagsInFlight s)

/-- Ops of a context issued and not taken (R223). -/
def untaken (s : State) (c : Nat) : Nat := (s.cx.ops.filter fun o => o.c == c).length + (s.ctx c).recs.length

/-- The checks of Table 9.4 in order: the first reason that fails, or the tag (R220). -/
def checkGo (c : Nat) (go : Word) (s : State) : Except Nat Nat :=
  let k := coreOf c
  let op := fld go 3 0
  let q := s.acct (s.ctx c).acct.toNat
  let rl := bit go 8
  let lane := laneFor s k go
  if op = 0 ∨ 8 < op ∨ fld go 31 21 ≠ 0 then .error 1
  else if (rl = true ∧ lane = none) ∨ (rl = false ∧ namesAcc op = true ∧ laneAcc s (fld go 6 4) = true) then .error 2
  else if (s.dom 4).state = .off then .error 3
  else if 8 ≤ untaken s c then .error 4
  else if rl = false ∧ mayGo (s.ctx c).acct.toNat q.cxMeter q.cxSlack = false then .error 5
  else
    let tag := match (if rl then lane else none) with
      | some j => laneTag s j
      | none => (s.core k).drawn
    match tag with
    | some t => .ok t
    | none => .error 6

/-- CX_ISSUE shows the outcome of a CX_GO to an IN that issues 4 ic after it; until then it shows the one before (R64, R65, R220). -/
def lateIssue (det : Bool) (w : Word) (x : Ctx) : Ctx :=
  if det then { x with cxIssue := w }
  else { x with lands := x.lands ++ [⟨x.nextLand, 0, w, none, .issue, none⟩], nextLand := x.nextLand + 1 }

/-- The newest unresolved BZ, changed. -/
def onNewest (g : Snap → Snap) (x : Ctx) : Ctx :=
  { x with snaps := match x.snaps.reverse with
    | [] => []
    | h :: t => (g h :: t).reverse }

/-- A CX_GO (R219, R220): accepted with its tag, or refused with the reason. The TAG field of a refusal is not stated: a free
value. What a speculative one leaves besides is kept with the newest BZ: its tag, and that its refusal starves the account (R232, R263). -/
def issueOp (c : Nat) (go : Word) (s : State) : State :=
  let s0 := drawAll s
  let x := s0.ctx c
  let det := (s0.core (coreOf c)).det
  match checkGo c go s0 with
  | .error r =>
    let fr := s0.freshWord
    let t := fr.2.modCtx c fun y => lateIssue det (wd (fld fr.1 4 0 + r * 2 ^ 8)) y
    if x.snaps = [] then noteCxStarved (r == 5) c t
    else t.modCtx c (onNewest fun h => { h with starved := h.starved || r == 5 })
  | .ok tag =>
    let o : CxOp := ⟨tag, c, go, x.cxArg0, x.cxArg1, x.cxArg2, x.cxArg3, x.acct, false, false, 0, 0, 0, 0, false, false, false⟩
    let s1 := s0.modCx fun k => { k with ops := k.ops ++ [o] }
    let s2 := if tag < 28 then s1.modCore (coreOf c) fun q => { q with drawn := none } else s1
    s2.modCtx c fun y => lateIssue det (wd tag) (onNewest (fun h => { h with cxTags := tag :: h.cxTags }) y)

/-! ## Arithmetic -/

/-- A complex number in exact arithmetic. -/
abbrev Cplx := Int × Int

/-- A sample word (R217). -/
def cplx (w : Word) : Cplx := (sgn 16 (fld w 15 0), sgn 16 (fld w 31 16))
def cmul (a b : Cplx) : Cplx := (a.1 * b.1 - a.2 * b.2, a.1 * b.2 + a.2 * b.1)
def cconj (a : Cplx) : Cplx := (a.1, -a.2)
def cadd (a b : Cplx) : Cplx := (a.1 + b.1, a.2 + b.2)
/-- |a|². -/
def cabs2 (a : Cplx) : Nat := (a.1 * a.1 + a.2 * a.2).toNat
/-- The arithmetic right shift (R217). -/
def asr (a : Int) (n : Nat) : Int := a / (2 ^ n : Int)
def cshr (a : Cplx) (n : Nat) : Cplx := (asr a.1 n, asr a.2 n)
/-- Saturation to 16 bits. -/
def sat16 (a : Int) : Int := max (-32768) (min 32767 a)
/-- Saturation to an unsigned word. -/
def satWord (n : Nat) : Word := wd (min n 0xFFFFFFFF)
/-- Components that saturate. -/
def satCount (a : Cplx) : Nat := b2n (decide (sat16 a.1 ≠ a.1)) + b2n (decide (sat16 a.2 ≠ a.2))
/-- Two 16-bit components as a word. -/
def packCplx (a : Cplx) : Word := wd ((BitVec.ofInt 16 a.1).toNat + (BitVec.ofInt 16 a.2).toNat * 2 ^ 16)

/-- The components of an accumulator, and their 48-bit range (R226, R227). -/
def Acc.val (a : Acc) : Cplx := (a.re.toInt, a.im.toInt)
def in48 (v : Int) : Bool := decide (-(2 ^ 47) ≤ v ∧ v < 2 ^ 47)
/-- Bits [46:44] of a component differ from bit [47] (R226). -/
def guardUsed (v : Int) : Bool := decide (v < -(2 ^ 44) ∨ 2 ^ 44 ≤ v)
/-- The accumulator with a new value; GW is sticky. -/
def Acc.put (a : Acc) (v : Cplx) : Acc :=
  { a with re := BitVec.ofInt 48 v.1, im := BitVec.ofInt 48 v.2, gw := a.gw || guardUsed v.1 || guardUsed v.2 }
/-- What an overflowing component becomes (R227). -/
def sat48 (old v : Int) : Int := if v < -(2 ^ 47) then -(2 ^ 47) else if 2 ^ 47 ≤ v then 2 ^ 47 - 1 else old

/-- A term that would overflow freezes the accumulator (R227). -/
def Acc.freeze (a : Acc) (v : Cplx) : Acc :=
  { a.put (sat48 a.re.toInt v.1, sat48 a.im.toInt v.2) with preRe := a.re, preIm := a.im, ovg := true, frozen := true }

/-! ## Operand blocks -/

/-- A block of n words is word-aligned and lies wholly within shared SRAM (R217). -/
def blockOk (a : Word) (n : Nat) : Bool :=
  decide (a.toNat % 4 = 0) && decide (0x10000000 ≤ a.toNat) && decide (a.toNat + 4 * n ≤ 0x10400000)

/-- Upsets that a step finds stand in the check bits of their words. -/
def applyUpsets (ups : List (Nat × Upset)) (s : State) : State :=
  ups.foldl (fun t e =>
    match eccFound t e.1 e.2, e.2 with
    | _, .none => t
    | f, _ => setEcc e.1 f t) s

/-- The Cauldron reads word i of a block for an op: the datum, unless it is uncorrectable (R191, R192). -/
def cxRead (c : Nat) (a : Word) (i : Nat) (s : State) : State × Option Cplx :=
  let p := a.toNat + 4 * i
  let r := eccRead (.other c 4) p .none s
  (r.1, if r.2 then some (cplx (readWord r.1.fab.sram p)) else none)

/-- n words of a block from index i on, up to the first uncorrectable one: the data in order. -/
def cxReads (c : Nat) (a : Word) : Nat → Nat → State → State × List Cplx
  | 0, _, s => (s, [])
  | n + 1, i, s =>
    match cxRead c a i s with
    | (t, none) => (t, [])
    | (t, some v) =>
      let r := cxReads c a n (i + 1) t
      (r.1, v :: r.2)

/-- How an op ends: status, INDEX, RESULT when the op states one, and its cycles. -/
structure OpEnd where
  status : Nat
  index : Nat
  result : Option Word
  cyc : Nat

/-- The op with this tag has acted; a RESULT that the manual does not state is a free value. -/
def endOp (tag : Nat) (e : OpEnd) (s : State) : State :=
  let fr := s.freshWord
  let t := match e.result with
    | some _ => s
    | none => fr.2
  t.modCx fun k => { k with ops := k.ops.map fun o =>
    if o.tag = tag then
      { o with
        done := true, status := BitVec.ofNat 4 e.status, index := BitVec.ofNat 16 e.index, result := e.result.getD fr.1, cyc := e.cyc
        gw := namesAcc o.code && (t.acc o.accIx).gw, ovg := namesAcc o.code && (t.acc o.accIx).ovg }
    else o }

/-- The started op with this tag and op code, when it has not acted yet. -/
def liveOp (s : State) (tag op : Nat) : Option CxOp :=
  if islandRuns s 4 then s.cx.ops.find? fun o => o.tag == tag && o.code == op && o.started && !o.done else none

/-- The pipe of an op: 0 general, 1 and 2 the lanes. -/
def CxOp.pipe (o : CxOp) : Nat := if o.tag < 28 then 0 else 1 + (o.tag - 28) / 2

/-- An argument of the op is out of range (R217). -/
def CxOp.argBad (o : CxOp) : Bool :=
  match o.code with
  | 1 => decide (fld o.arg2 15 0 ≤ fld o.arg2 31 16)
  | 2 => decide (fld o.arg2 15 0 = 0 ∨ fld o.arg2 22 16 = 0 ∨ 64 < fld o.arg2 22 16)
  | 3 => decide (fld o.arg3 15 0 = 0 ∨ fld o.arg3 22 16 = 0 ∨ 64 < fld o.arg3 22 16)
  | 4 => decide (fld o.arg2 15 0 = 0)
  | _ => false

/-- The blocks that an op touches, each with its words (Table 9.1, R217). -/
def CxOp.blocks (o : CxOp) : List (Word × Nat) :=
  match o.code with
  | 1 => [(o.arg0, fld o.arg2 15 0), (o.arg1, fld o.arg2 15 0)]
  | 2 => [(o.arg0, fld o.arg2 15 0 + fld o.arg2 22 16 - 1), (o.arg1, fld o.arg2 22 16)]
  | 3 => [(o.arg0, fld o.arg3 15 0 + fld o.arg3 22 16 - 1), (o.arg1, fld o.arg3 22 16), (o.arg2, fld o.arg3 15 0)]
  | 4 => [(o.arg0, fld o.arg2 15 0)]
  | 7 => [(o.arg0, 4)]
  | _ => []

/-- INDEX of an op that has absorbed no term (Table 9.5): s for CMAC. -/
def CxOp.first (o : CxOp) : Nat := if o.code = 1 then fld o.arg2 31 16 else 0

/-- The banks of an op's blocks. -/
def CxOp.banks (o : CxOp) : List Nat := (o.blocks.map fun b => rangeBanks b.1.toNat (4 * b.2)).flatten

/-- An op acts, on nothing unless it is started. Its arguments and its blocks are checked first (R217), and a CMAC on a frozen accumulator completes at
once (R227). A general op waits for a bank that is held, and a lane op, whose accesses are of class 1, breaks the lock (R120, R125, R225). -/
def actOp (tag op : Nat) (ups : List (Nat × Upset)) (go : CxOp → State → State) (s : State) : State :=
  match liveOp s tag op with
  | none => s
  | some o =>
    if o.argBad then endOp tag ⟨4, o.first, none, 0⟩ s
    else if o.blocks.any fun b => !blockOk b.1 b.2 then endOp tag ⟨2, o.first, none, 0⟩ s
    else if op = 1 ∧ (s.acc o.accIx).frozen = true then endOp tag ⟨1, o.first, none, 0⟩ s
    else if o.pipe = 0 ∧ (o.banks.any fun b => (s.bankHolder b).isSome) = true then s
    else go o (applyUpsets ups (o.banks.foldl (fun t b => breakBank b t) s))

/-! ## The ops -/

/-- The terms of a CMAC from k on (R216, R227): n are left. -/
def cmacTerms (o : CxOp) : Nat → Nat → State → State × OpEnd
  | 0, k, s => (s, ⟨0, k, none, 0⟩)
  | n + 1, k, s =>
    match cxRead o.c o.arg0 k s with
    | (t, none) => (t, ⟨3, k, none, 1⟩)
    | (t, some x) => match cxRead o.c o.arg1 k t with
      | (u, none) => (u, ⟨3, k, none, 1⟩)
      | (u, some y) =>
        let a := u.acc o.accIx
        let v := cadd a.val (cshr (cmul x (if o.conj then cconj y else y)) o.shift)
        if in48 v.1 && in48 v.2 then cmacTerms o n (k + 1) (u.setAcc o.accIx (a.put v))
        else (u.setAcc o.accIx (a.freeze v), ⟨1, k, none, 1⟩)

/-- CMAC. -/
def actCmac (o : CxOp) (s : State) : State :=
  let n := fld o.arg2 15 0
  let k := fld o.arg2 31 16
  let r := cmacTerms o (n - k) k s
  endOp o.tag { r.2 with cyc := 8 + (r.2.index - k) + r.2.cyc } r.1

def execCmac (tag : Nat) (ups : List (Nat × Upset)) (s : State) : Out := .next (actOp tag 1 ups actCmac s)

/-- Σ a[i] × b[i] over the shorter list. -/
def dot : List Cplx → List Cplx → Cplx
  | a :: as, b :: bs => cadd (cmul a b) (dot as bs)
  | _, _ => (0, 0)

/-- The peak of |c_p|² over n lags: its value and lag, the lowest lag on a tie. -/
def corrPeak (r : List Cplx) : Nat → Nat → List Cplx → Nat × Nat → Nat × Nat
  | 0, _, _, best => best
  | n + 1, p, xs, best =>
    let m := cabs2 (dot xs r)
    corrPeak r n (p + 1) xs.tail (if best.1 < m then (m, p) else best)

/-- CORR. -/
def actCorr (o : CxOp) (s : State) : State :=
  let n := fld o.arg2 15 0
  let l := fld o.arg2 22 16
  let r := cxReads o.c o.arg1 l 0 s
  if r.2.length < l then endOp o.tag ⟨3, 0, none, 0⟩ r.1
  else
    let x := cxReads o.c o.arg0 (n + l - 1) 0 r.1
    if x.2.length < n + l - 1 then endOp o.tag ⟨3, x.2.length - (l - 1), none, 0⟩ x.1
    else
      let best := corrPeak (r.2.map cconj) n 0 x.2 (0, 0)
      endOp o.tag ⟨0, best.2, some (satWord (best.1 / 2 ^ o.shift)), 8 + l + n * ((l + 3) / 4)⟩ x.1

def execCorr (tag : Nat) (ups : List (Nat × Upset)) (s : State) : Out := .next (actOp tag 2 ups actCorr s)

/-- The outputs of a FIR from index i on: n are left, `sat` components have saturated. -/
def firOutputs (o : CxOp) (h : List Cplx) : Nat → Nat → Nat → State → State × OpEnd
  | 0, _, sat, s => (s, ⟨0, 0, some (wd sat), 0⟩)
  | n + 1, i, sat, s =>
    let x := cxReads o.c o.arg0 h.length i s
    if x.2.length < h.length then (x.1, ⟨3, i, none, 0⟩)
    else
      let v := cshr (dot h x.2) o.shift
      firOutputs o h n (i + 1) (sat + satCount v) (sramWord (o.arg2.toNat + 4 * i) (packCplx (sat16 v.1, sat16 v.2)) x.1)

/-- FIR. -/
def actFir (o : CxOp) (s : State) : State :=
  let n := fld o.arg3 15 0
  let t := fld o.arg3 22 16
  let h := cxReads o.c o.arg1 t 0 s
  if h.2.length < t then endOp o.tag ⟨3, 0, none, 0⟩ h.1
  else
    let r := firOutputs o h.2 n 0 0 h.1
    endOp o.tag { r.2 with cyc := if r.2.status = 0 then 8 + t + n * ((t + 3) / 4) else 0 } r.1

def execFir (tag : Nat) (ups : List (Nat × Upset)) (s : State) : Out := .next (actOp tag 3 ups actFir s)

/-- MAG. -/
def actMag (o : CxOp) (s : State) : State :=
  let n := fld o.arg2 15 0
  let x := cxReads o.c o.arg0 n 0 s
  if x.2.length < n then endOp o.tag ⟨3, x.2.length, none, 0⟩ x.1
  else endOp o.tag ⟨0, 0, some (satWord ((x.2.foldl (fun m v => m + cabs2 v) 0) / 2 ^ o.shift)), 8 + n⟩ x.1

def execMag (tag : Nat) (ups : List (Nat × Upset)) (s : State) : Out := .next (actOp tag 4 ups actMag s)

/-- π × 2^160. -/
def pi160 : Nat := 0x3243F6A8885A308D313198A2E03707344A4093822

/-- The terms of Euler's series of arctan(y / x) × 2^160 for 0 ≤ y ≤ x, of which each is less than half the one before. -/
def atanTerms (num den : Nat) : Nat → Nat → Nat → Nat
  | 0, _, _ => 0
  | k + 1, i, t => t + atanTerms num den k (i + 1) (t * (2 * i) * num / ((2 * i + 1) * den))

/-- arctan(y / x) × 2^160 for 0 ≤ y ≤ x, x > 0. -/
def atan160 (x y : Nat) : Nat := atanTerms (y * y) (x * x + y * y) 170 1 (2 ^ 160 * x * y / (x * x + y * y))

/-- The angle in units of 2^-16 turn, rounded to nearest (R216); no rational point has an angle halfway between two units. -/
def angleOf (v : Cplx) : Nat :=
  let x := v.1.natAbs
  let y := v.2.natAbs
  let q := if y ≤ x then atan160 x y else pi160 / 2 - atan160 y x
  let t := if 0 ≤ v.1 then (if 0 ≤ v.2 then q else 2 * pi160 - q) else (if 0 ≤ v.2 then pi160 - q else pi160 + q)
  ((t * 65536 + pi160) / (2 * pi160)) % 65536

/-- √(I² + Q²) rounded to nearest. -/
def magnitudeOf (v : Cplx) : Nat := bisect (fun n => decide ((2 * n - 1) * (2 * n - 1) ≤ 4 * cabs2 v)) 17 0

/-- PHASE. -/
def actPhase (o : CxOp) (s : State) : State :=
  let v := cplx o.arg0
  endOp o.tag ⟨0, 0, some (if v = (0, 0) then 0 else wd (angleOf v + magnitudeOf v * 2 ^ 16)), 20⟩ s

def execPhase (tag : Nat) (s : State) : Out := .next (actOp tag 5 [] actPhase s)

/-- NORM (R228). -/
def actNorm (o : CxOp) (s : State) : State :=
  let a := s.acc o.accIx
  let v : Cplx := if a.frozen then (a.preRe.toInt, a.preIm.toInt) else a.val
  let w := cshr v o.shift
  endOp o.tag ⟨0, 0, none, 4⟩
    (s.setAcc o.accIx { a with re := BitVec.ofInt 48 w.1, im := BitVec.ofInt 48 w.2, gw := false, frozen := false })

def execNorm (tag : Nat) (s : State) : Out := .next (actOp tag 6 [] actNorm s)

/-- ACCRD (R216, R217). -/
def actAccrd (o : CxOp) (s : State) : State :=
  let a := s.acc o.accIx
  let ws := [a.re.setWidth 32, (a.re.extractLsb' 32 16).signExtend 32, a.im.setWidth 32, (a.im.extractLsb' 32 16).signExtend 32]
  let v := cshr a.val o.shift
  endOp o.tag ⟨0, 0, some (packCplx (sat16 v.1, sat16 v.2)), 8⟩ (sramWords o.arg0.toNat ws s)

def execAccrd (tag : Nat) (s : State) : Out := .next (actOp tag 7 [] actAccrd s)

/-- ACCCLR. -/
def actAccclr (o : CxOp) (s : State) : State := endOp o.tag ⟨0, 0, none, 2⟩ (s.setAcc o.accIx {})

def execAccclr (tag : Nat) (s : State) : Out := .next (actOp tag 8 [] actAccclr s)

/-! ## Starting and completing -/

/-- Ops accepted before the one with this tag. -/
def olderOps (tag : Nat) : List CxOp → List CxOp
  | [] => []
  | o :: t => if o.tag = tag then [] else o :: olderOps tag t

/-- An op may start (R229, R230): its older ops of the context that write shared SRAM have completed, and so has every older op that names
its accumulator. An op has completed when it has acted: its record may still be held back. -/
def mayStartOp (s : State) (o : CxOp) : Bool :=
  let old := olderOps o.tag s.cx.ops
  !o.started &&
  (o.unord || old.all fun p => p.c != o.c || p.done || !writesSram p.code) &&
  (!namesAcc o.code || old.all fun p => p.done || !namesAcc p.code || p.accIx != o.accIx)

/-- Ops that occupy a pipe: a general one of two, or a lane's own. -/
def pipeFree (s : State) (p : Nat) : Bool :=
  decide ((s.cx.ops.filter fun o => o.started && !o.done && o.pipe == p).length < (if p = 0 then 2 else 1))

/-- The op's account is within its budget (R231); ACCT_0 beyond its meter is served as one that borrows (R257, R259). -/
def inBudget (s : State) (o : CxOp) : Bool := decide (0 < (s.acct o.acct.toNat).cxMeter)

/-- The op that a pipe starts next: the oldest allowed one, those within budget first (R231). -/
def nextOp (s : State) (p : Nat) : Option CxOp :=
  let l := s.cx.ops.filter fun o => o.pipe == p && mayStartOp s o
  (l.find? (inBudget s)).or l.head?

/-- CX_OP_START (R231). -/
def execCxOpStart (tag : Nat) (s : State) : Out :=
  .next (match s.cx.ops.find? fun o => o.tag == tag with
    | none => s
    | some o =>
      if islandRuns s 4 && pipeFree s o.pipe && ((nextOp s o.pipe).map fun p => p.tag) == some tag then
        s.modCx fun k => { k with ops := k.ops.map fun p => if p.tag = tag then { p with started := true } else p }
      else s)

/-- The record of a completed op (Table 9.5). -/
def recordOf (o : CxOp) (status : Nat) : CxRec :=
  ⟨wd (o.tag + 2 ^ 5 + o.code * 2 ^ 6 + status * 2 ^ 10 + b2n o.gw * 2 ^ 14 + b2n o.ovg * 2 ^ 15 + o.index.toNat * 2 ^ 16),
   o.result, some o.tag, o.go, o.acct⟩

/-- The record reaches its context: takeable, with line 4 for a status other than OK, and the event after it (R221, R222). -/
def deliverRecord (o : CxOp) (status : Nat) (s : State) : State :=
  let s1 := s.modCtx o.c fun x => { x with recs := x.recs ++ [recordOf o status] }
  let s2 := if status ≠ 0 then raiseFrom 4 (coreOf o.c) 4 s1 else s1
  if o.even then eventFrom 4 (.post none o.c o.ev false) 1 s2 else s2

/-- CX_OP_COMPLETE (R221, R222, R225, R229, R233 to R235), while D_4 runs: `waits` are the pipe's cycles beyond C, `late` says that a lane op missed
its latency. -/
def execCxOpComplete (tag waits : Nat) (late : Bool) (s : State) : Out :=
  .next (match s.cx.ops.find? fun o => o.tag == tag with
    | none => s
    | some o =>
      let held := !o.cancelled && !o.unord && (olderOps tag s.cx.ops).any fun p => p.c == o.c && !p.unord && !p.cancelled
      if o.done = false ∨ held ∨ islandRuns s 4 = false then s
      else
        let s1 := chargeCx o.acct.toNat (o.cyc + waits) (s.modCx fun k => { k with ops := k.ops.filter fun p => p.tag != tag })
        if o.cancelled then countDiscarded s1
        else
          let isLate := late && decide (28 ≤ tag)
          let s2 := if isLate then logFault 0x0D 1 0 o.c 4 none 0 0 s1 else s1
          deliverRecord o (if isLate && o.status == 0 then 5 else o.status.toNat) s2)

/-! ## Taking, cancelling, lanes -/

/-- The oldest takeable record is taken, and its tag is free (R221). -/
def takeRecord (c : Nat) (s : State) : State × Word :=
  match (s.ctx c).recs with
  | [] => (s, 0)
  | r :: t => (s.modCtx c fun x => { x with recs := t, cxResult := r.result }, r.word)

/-- CX_TAKE. -/
def execCxTake (c : Nat) (s : State) : Out :=
  let r := takeRecord c s
  .next (r.1.withRdata r.2)

/-- A context cancels its own outstanding op (R233). -/
def cancelTag (c tag : Nat) (s : State) : State :=
  if s.cx.ops.any fun o => o.tag == tag && o.c == c && !o.cancelled then cancelOp false tag s else s

/-- CX_CANCEL. -/
def execCxCancel (c : Nat) (tag : BitVec 5) (s : State) : Out := .next (cancelTag c tag.toNat s)

/-- A reserved lane. -/
def laneOf (s : State) (j : Nat) : Lane := if j = 0 then s.cx.lane0 else s.cx.lane1

/-- Enabling a lane for a core is allowed (R224). -/
def laneAllowed (s : State) (j k : Nat) : Bool :=
  let d2 := s.dom 2
  let d4 := s.dom 4
  let dk := s.dom (k + 5)
  d4.locked && dk.locked && d4.lockMhz == dk.lockMhz && d2.locked && decide (d4.lockMhz.toNat ≤ d2.lockMhz.toNat) &&
  s.cx.ops.all fun o => !namesAcc o.code || o.accIx != 6 + j

/-- An op of the lane is outstanding. -/
def laneBusy (s : State) (j : Nat) : Bool := s.cx.ops.any fun o => o.pipe == 1 + j

/-- A write of CX_LANE_j (R224). -/
def writeLane (j : Nat) (w : Word) (s : State) : State :=
  let k := fld w 3 0
  let en := bit w 8
  if 2 ≤ j then s
  else if (if en then laneAllowed s j k else !((laneOf s j).en && laneBusy s j)) then
    let l : Lane := ⟨BitVec.ofNat 4 k, en⟩
    let t := s.modCx fun q => if j = 0 then { q with lane0 := l } else { q with lane1 := l }
    if en then t.setAcc (6 + j) {} else t
  else s.modCx fun q => { q with laneRefused := true }

/-- CX_LANE_WRITE. -/
def execCxLaneWrite (j : Nat) (w : Word) (s : State) : Out := .next (writeLane j w s)

end Sys2Proof.Machine
end

