-- ==== Sys2Proof/Machine/Fabric.lean ====
section
/-! DEFINITION. The fabric: patrol scrub (R193), mailboxes (R211), the ends of
far requests (R196 to R198, R206, R472), the junior's retry (R208) and pointer errors of crossings (R47, R48, R471). -/

namespace Sys2Proof.Machine

open Sys2Proof

/-- SCRUB_READ (R120, R193): the next word of an idle bank that no agent holds, while SCRUB_EN is 1. -/
def execScrubRead (b : Nat) (u : Upset) (s : State) : Out :=
  let i := tget 0 s.fab.scrubAt b
  .next (if s.fab.scrubEn = false ∨ 16 ≤ b ∨ (s.bankHolder b).isSome then s
    else (eccRead .scrub (0x10000000 + b * 0x40000 + 4 * i) u
      (s.modFab fun f => { f with scrubAt := tput b ((i + 1) % 0x10000) f.scrubAt })).1)

/-! ## Mailboxes -/

/-- A push lands: appended with a line event, or counted in LOST (R211). -/
def pushMailbox (k m : Nat) (w : Word) (s : State) : State :=
  let b := s.mbox (4 * k + m)
  if b.ws.length < 8 then raiseLine k m (s.setMbox (4 * k + m) { b with ws := b.ws ++ [w] })
  else s.setMbox (4 * k + m) { b with lost := satInc b.lost }

/-- MB_PUSH (R211): performed once every earlier store of the pushing context is visible. -/
def execMbPush (c k m : Nat) (w : Word) (s : State) : Out :=
  .next (if k < 16 ∧ m < 4 ∧ storesVisible s c = true then pushMailbox k m w s else s)

/-- A pop by a context: the oldest word of its own core's mailbox; 0 for an empty one or another core's (R211, Table 8.5). -/
def popMailbox (c k m : Nat) (s : State) : State × Word :=
  let b := s.mbox (4 * k + m)
  if coreOf c ≠ k then (s, 0) else (s.setMbox (4 * k + m) { b with ws := b.ws.tail }, b.ws.headD 0)

/-- MB_POP. -/
def execMbPop (c k m : Nat) (s : State) : Out :=
  let r := popMailbox c k m s
  .next (r.1.withRdata r.2)

/-! ## The ends of host requests -/

/-- A context's line arrives (R196). -/
def fillLine (c : Nat) (d : Word) (ws : List Word) (s : State) : State :=
  match (s.ctx c).line with
  | some l => if l.addr = d ∧ l.st = .fetching then s.modCtx c fun x => { x with line := some { l with st := .held ws } } else s
  | none => s

/-- A far atomic of a context returns the old value (R118). -/
def endAtomic (c : Nat) (old : Word) (s : State) : State :=
  match (s.ctx c).long with
  | some (.farAtomic _ op _) => finishLong c (popPush (atomicPops op) old) s
  | _ => s

/-- The requesters of a host tag see its error, already logged under `seq`: a core traps, a ring fails (R198, R470, R474). -/
def failTag (t : HbTag) (seq : BitVec 16) (s : State) : State :=
  match t.use with
  | .line c _ d => t.sharers.foldl (fun u e => failLine e.1 e.2 u) (failLine c d s)
  | .atomic c _ => failAtomic c s
  | .desc n _ _ => if (s.ring n).st = .active ∨ (s.ring n).st = .stopped then ringFailed n seq (bumpRepeat seq s) else s
  | .dma n cmd _ => (match dmaOf s n cmd with
    | some d => dmaFail d d.moved s
    | none => s)

/-- Context, domain, ring and host address of a tag's request. -/
def HbTag.who (s : State) (t : HbTag) : Nat × Nat × Option Nat × Nat :=
  match t.use with
  | .line c h _ => (c, domOf (coreOf c), none, h)
  | .atomic c h => (c, domOf (coreOf c), none, h)
  | .desc n i _ => (0x7F, 2, some n, (s.ring n).sqBase + 64 * i)
  | .dma n _ h => (0x7F, 2, some n, h)

/-- The context still waits for the line at d. -/
def awaitsLine (x : Ctx) (d : Word) : Bool :=
  match x.line with
  | some l => l.addr == d && l.st == .fetching
  | none => false

/-- A request that waited for a tag is served: it leaves now, or ends in error while the bridge cannot send; one that its context has abandoned takes
none (R197, R204). -/
def serveOne (w : HbWaiter) (s : State) : State :=
  match w with
  | .dma n cmd => (match dmaOf s n cmd with
    | some d => if d.tag = none then startSegment d s else s
    | none => s)
  | .core c d =>
    match addrClass (coreOf c) d.toNat with
    | .host n x =>
      let h := hostAddr s n x
      let atomic := match (s.ctx c).long with
        | some (.farAtomic a op _) => if a = d then some op else none
        | _ => none
      (match atomic with
       | some op => if canSend s then sendAtomic c h d op s else failAtomic c (noteHbErr 5 h s)
       | none =>
         if awaitsLine (s.ctx c) d = false then s
         else if canSend s then fetchHost c h d s
         else failLine c d (noteHbErr 5 h s))
    | _ => s

/-- A waiting request is within budget (R259): by the core meter of its context's account, or by the DMA meter of its ring's. -/
def HbWaiter.inBudget (s : State) : HbWaiter → Bool
  | .core c _ => decide (0 < tget 0 (s.acct (s.ctx c).acct.toNat).coreMeters (coreOf c))
  | .dma n _ => decide (0 < (s.acct (s.ring n).acct.toNat).dmaMeter)

/-- A tag is free for a waiting request. -/
def HbWaiter.hasTag (s : State) : HbWaiter → Bool
  | .core _ _ => (coreTag s).isSome
  | .dma _ _ => (dmaTag s).isSome

/-- The waiting request that is served next (R197, Table 8.1): those within budget first; within a class in the order in which they came (log 109). -/
def nextWaiter (s : State) : Option HbWaiter :=
  let able := s.fab.hbWait.filter fun w => w.hasTag s
  (able.find? fun w => w.inBudget s).or able.head?

/-- Waiting requests take the tags that are free (R197). -/
def serveWaiting : Nat → State → State
  | 0, s => s
  | n + 1, s =>
    match nextWaiter s with
    | none => s
    | some w => serveWaiting n (serveOne w (s.modFab fun f => { f with hbWait := f.hbWait.erase w }))

/-- While the bridge cannot send, nothing waits for a tag: each request ends in error (R204, R272). -/
def failWaiting (s : State) : State :=
  if canSend s then s else s.fab.hbWait.foldl (fun t w => serveOne w t) (s.modFab fun f => { f with hbWait := [] })

/-- A tag is free again, and waiting requests take it (R197). -/
def freeTag (i : Nat) (s : State) : State := serveWaiting s.fab.hbWait.length (s.setTag i none)

/-- A host request ends in error at its requester (R198, R470): HB_ERR, one report, and the requester's own outcome. -/
def endInError (t : HbTag) (cause status : Nat) (s : State) : State :=
  let w := t.who s
  let u := logOrRepeat t.log cause 1 0 w.1 w.2.1 w.2.2.1 status w.2.2.2 (noteHbErr status w.2.2.2 s)
  failTag t (t.log.getD u.faults.seq) u

/-- INTERNAL of Table 20.3: parity in the Ring Fetch Engine's state or the host bridge's tag table (R477). -/
def internalFault (s : State) : State := deviceFatal 0 (logFault 0x17 4 0 0x7F 0x1F none 0 0 s)

/-- HOST_READ_COMPLETION (R196, R198, R202, R473): the data of a line or atomic, or an error; a completion whose request has ended
is discarded by its tag. A parity error in the tag table is device-fatal (Table 20.3). -/
def execHostReadCompletion (i : Nat) (r : RdResult) (parity : Bool) (s : State) : Out :=
  .next (if parity then internalFault s else match s.hbTag i with
    | none => s
    | some t =>
      if t.dead then freeTag i s
      else match t.use, r with
        | .desc _ _ _, _ => s
        | .dma _ _ _, _ => s
        | .line c _ d, .data ws =>
          freeTag i (t.sharers.foldl (fun u e => fillLine e.1 e.2 ws u) (fillLine c d ws s))
        | .atomic c _, .data ws => freeTag i (endAtomic c (nthW ws 0) s)
        | _, .err st => freeTag i (endInError t 0x05 st s))

/-- FAR_READ_TIMEOUT (R198): after 100 µs the request ends in error, and its tag stays allocated. -/
def execFarReadTimeout (i : Nat) (s : State) : Out :=
  .next (match s.hbTag i with
    | some t =>
      if t.dead then s
      else endInError t 0x04 1 (s.setTag i (some { t with dead := true }))
    | none => s)

/-- CPL_TIMEOUT (R198, R472): the tag is free; a request that has not ended yet ends now, with cause CPL_TIMEOUT when the
completion timeout is below 100 µs. -/
def execCplTimeout (i : Nat) (s : State) : Out :=
  .next (match s.hbTag i with
    | none => s
    | some t =>
      if t.dead then freeTag i s
      else freeTag i (endInError t (if s.host.cplTimeoutUs < 100 then 0x06 else 0x04) 1 s))

/-- LDTRY_LINE_EXPIRE (R117): the line, its fetch in progress or its error is dropped, unless a far load waits for it. -/
def execLdtryLineExpire (c : Nat) (s : State) : Out :=
  .next (match (s.ctx c).line with
    | some l =>
      if l.ltry && !(match (s.ctx c).long with | some (.far _ _ _ _) => true | _ => false) then dropLine c s else s
    | none => s)

/-! ## The ends of twin requests -/

/-- The request with this tag. -/
def treqOf (s : State) (tag : BitVec 16) : Option TwinReq := s.fab.treqs.find? fun r => r.tag == tag

/-- A twin request is no longer awaited. -/
def dropTreq (tag : BitVec 16) (s : State) : State :=
  s.modFab fun f => { f with treqs := f.treqs.filter fun r => r.tag != tag }

/-- TWIN_REQUEST_TIMEOUT (R206, R470): no reply after 100 µs. -/
def execTwinRequestTimeout (tag : BitVec 16) (s : State) : Out :=
  .next (match treqOf s tag with
    | none => s
    | some r =>
      let c := r.use.ctx
      let t := noteTbErr 1 r.use.addr (dropTreq tag s)
      failTwin r.use (logOrRepeat r.log 0x04 1 0 c (domOf (coreOf c)) none 1 r.use.addr t))

/-- JUNIOR_RETRY (R208, R252): a request refused with NAK busy is sent again, and its bytes are charged again. -/
def execJuniorRetry (tag : BitVec 16) (s : State) : Out :=
  .next (match treqOf s tag with
    | none => s
    | some r =>
      if r.retry then
        chargeTwin (s.ctx r.use.ctx).acct.toNat r.use.bytes (twinPacket tag r.use (s.modFab fun f =>
          { f with treqs := f.treqs.map fun q => if q.tag = tag then { q with retry := false } else q }))
      else s)

/-! ## Crossings that fail -/

/-- A context's long request meets its crossing down: the error responses of Table 20.4. -/
def failLong (c : Nat) (s : State) : State :=
  match (s.ctx c).long with
  | some (.load a _ _ _ _) => trapLong c 0x0B a.toNat s
  | some (.far a _ _ _) => trapLong c 0x0B a.toNat s
  | some (.atomic a _) => trapLong c 0x0B a.toNat s
  | some (.farAtomic a _ _) => trapLong c 0x0B a.toNat s
  | some (.lock a) => trapLong c 0x0B a.toNat (s.modFab fun f => { f with lockWait := f.lockWait.filter fun d => d != c })
  | some (.io p _) => trapLong c 0x0B p.toNat s
  | some (.value _ n) => s.modCtx c fun x => { x with long := some (.value 4 n) }
  | some .unlock => s
  | none =>
    match (s.ctx c).line with
    | some l => if l.st = .fetching then s.modCtx c fun x => { x with line := some { l with st := .error } } else s
    | none => s

/-- Every outstanding host request of the cores ends in error with status 5 (R47, R471); the tags stay allocated. -/
def failHostTags (s : State) : State :=
  s.fab.tags.foldl (fun t e =>
    match e.2 with
    | some q =>
      if q.dead ∨ q.use.isCore = false then t
      else failTag q 0 (noteHbErr 5 (q.who t).2.2.2 (t.setTag e.1 (some { q with dead := true })))
    | none => t) s

/-- Outstanding descriptor reads of failed rings. -/
def descRings (s : State) : List Nat :=
  (s.fab.tags.filterMap fun e => match e.2 with
    | some q => (match q.use with | .desc n _ _ => if q.dead then none else some n | _ => none)
    | none => none).dedup

/-- Every outstanding descriptor read ends in error: its ring becomes ring-fatal, under the entry that the crossing has logged (R470, Table 20.4,
R474). -/
def failDescs (s : State) : State :=
  let rs := descRings s
  let t := s.modFab fun f => { f with tags := f.tags.map fun e =>
    match e.2 with
    | some q => (match q.use with | .desc _ _ _ => (e.1, some { q with dead := true }) | _ => e)
    | none => e }
  rs.foldl (fun u n => if (u.ring n).st = .active ∨ (u.ring n).st = .stopped then ringFailed n s.faults.seq (bumpRepeat s.faults.seq u) else u) t

/-- Every DMA transfer with the host stops and completes with DATA_ERROR (R302, Table 20.4). -/
def failDmas (s : State) : State := s.host.dmas.foldl (fun t d => if d.kind = 2 then t else dmaFail d d.moved t) s

/-- Requests on the host port's crossing fail (R47, R471). -/
def failHostPath (s : State) : State := failDmas (failDescs (failHostTags (failWaiting s)))

/-- Requests on Twinlink's crossing fail (R47, R471). -/
def failTwinPath (s : State) : State :=
  s.fab.treqs.foldl (fun t r => failTwin r.use (noteTbErr 4 r.use.addr t)) (s.modFab fun f => { f with treqs := [] })

/-- What expects a reply through a crossing receives its error response (Table 20.4). -/
def failCrossing (x : Nat) (s : State) : State :=
  if x = 4 then (abortOps s.cx.ops s).modCx fun k => { k with ops := [] }
  else if x = 21 then failHostPath s
  else if x = 22 then failTwinPath s
  else if x = 3 ∨ (5 ≤ x ∧ x ≤ 20) then
    let k := if x = 3 then 16 else x - 5
    let mine := s.cx.ops.filter fun o => coreOf o.c == k
    let t := (abortOps mine s).modCx fun q => { q with ops := q.ops.filter fun o => coreOf o.c != k }
    (ctxsOf k).foldl (fun u c => failLong c u) t
  else s

/-- XING_POINTER_ERROR (R47, R48, R471, Table 20.3): the crossing goes down and is logged; within 1 ms of an earlier one on
crossing 3 it is device-fatal. -/
def execXingPointerError (x : Nat) (s : State) : Out :=
  .next (if (s.xing x).up = false then s
    else
      let fatal := decide (x = 3) && s.clk.x3Timer.isSome
      let t := failCrossing x (logFault 0x03 (if fatal then 4 else 1) 0 0x7F x none x 0 (crossingDown x s))
      let u := if x = 3 then t.modClk fun k => { k with x3Err := true, x3Timer := none } else t
      if fatal then deviceFatal 0x0504 u else u)

end Sys2Proof.Machine
end

