-- ==== Sys2Proof/Machine/Rings.lean ====
section
/-! DEFINITION. RING_0's enabling (R277), doorbells (R280, R284, R345), the Ring Fetch Engine (R282, R295), timeouts (R293, R473),
MSI-X coalescing (R294), job commands (R297 to R300) and data movement (R201, R301, R302). -/

namespace Sys2Proof.Machine

open Sys2Proof

/-- What BAR 0 beyond the status page, and BAR 2, need to answer (R274, R477). -/
def hostOpen (s : State) : Bool := s.boot.ready && !s.host.fatal

/-! ## RING_0 -/

/-- RING_0 becomes ACTIVE with its indices at 0 in a new epoch (R277, R285, Table 12.5). -/
def startRing0 (s : State) : State :=
  let h := s.host
  let t := (s.modHost fun h => { h with adminEn := true }).modRing 0 fun r =>
    { st := .active, log2n := h.adminLog2.toNat
      sqBase := cat64 h.adminSqLo h.adminSqHi, cqBase := cat64 h.adminCqLo h.adminCqHi
      vector := 0, tmoMs := h.tmoMs.toNat, epoch := r.epoch + 1 }
  let u := if t.clk.calDefaults ∧ t.host.calPosted = false then
    postUnsol 0x0601 0 0 (t.modHost fun h => { h with calPosted := true })
  else t
  flushUnsol 17 u

/-- A write of ADMIN_CTL (R277): TMO_MS outside 10 to 65,535 is reserved; EN = 1 needs both addresses set. -/
def writeAdminCtl (w : Word) (s : State) : State :=
  let ms := fld w 31 16
  let t := if 10 ≤ ms then (s.modHost fun h => { h with tmoMs := BitVec.ofNat 16 ms }).modRing 0 fun r => { r with tmoMs := ms } else s
  let h := s.host
  if bit w 0 then
    (if h.adminEn ∨ (s.ring 0).resetting then t
     else if cat64 h.adminSqLo h.adminSqHi = 0 ∨ cat64 h.adminCqLo h.adminCqHi = 0 then t.modHost fun h => { h with admCfgErr := true }
     else startRing0 t)
  else if h.adminEn then
    stopRing0 (t.modHost fun h => { h with adminEn := false })
  else t

/-- ADMIN_ENABLE and ADMIN_DISABLE: the write of ADMIN_CTL with EN as the row says. -/
def execAdminEnable (w : Word) (s : State) : Out := .next (if hostOpen s then writeAdminCtl (putBit w 0 true) s else s)
def execAdminDisable (w : Word) (s : State) : Out := .next (if hostOpen s then writeAdminCtl (putBit w 0 false) s else s)

/-! ## Doorbells -/

/-- DOORBELL_INVALID on RING_0: RESULT0 the ring, RESULT1 the BAR 2 offset in [31:16] and the value in [15:0] (R280). -/
def badDoorbell (n off v : Nat) (s : State) : State := postUnsol 0x0104 (wd n) (wd (off * 2 ^ 16 + v)) s

/-- Completion entries of the ring whose records still wait for the standby: not yet written (R343). -/
def waitingEntries (s : State) (n : Nat) : Nat := (waitingRecs s n).length

/-- A primary forwards a doorbell (Table 14.5, KIND 3); RING_0 is never shadowed (R304). -/
def shadowDoorbell (n : Nat) (cq : Bool) (v : Nat) (s : State) : State :=
  if n = 0 then s else sendShadow (.doorbell n cq v) s

/-- Records of slots that a completion doorbell releases are no longer kept (R343). -/
def releaseSlots (n v : Nat) (s : State) : State :=
  let r := s.ring n
  s.modTwin fun t => { t with shadow := { t.shadow with cpls := t.shadow.cpls.filter fun e =>
    !(e.1 == n && decide (ringSpan r.size r.cqHead e.2.1 < ringSpan r.size r.cqHead v)) } }

/-- A submission doorbell acts (R280). -/
def actSqTail (n v : Nat) (s : State) : State :=
  let r := s.ring n
  if r.size ≤ v then badDoorbell n (4 * n) v s
  else
    let t := shadowDoorbell n false v (s.setRing n { r with sqTail := v })
    if n = 0 then raiseLine 16 2 t else t

/-- TAKEOVER follows the last entry of the takeover (R340; chapter 14, "When things go wrong"). -/
def postTakeover (r0 r1 : Word) (s : State) : State :=
  if s.host.rings.any fun e => !e.2.late.isEmpty then s.modTwin fun t => { t with takeoverDue := some (r0, r1) }
  else postUnsol 0x0106 r0 r1 s

/-- Entries of a takeover are written as CQ_HEAD makes room for them, oldest first, and TAKEOVER after the last of every ring (R282, R341). -/
def flushLate (n : Nat) : Nat → State → State
  | 0, s => s
  | k + 1, s =>
    let r := s.ring n
    match r.late with
    | [] => s
    | h :: rest =>
      if r.size ≤ ringSpan r.size r.cqHead r.cqTail + 1 then s
      else
        let t := deliverEntry n h.cmd h.status h.r0 h.r1 h.epoch h.noint (s.modRing n fun r => { r with late := rest })
        let u := match t.twin.takeoverDue with
          | some q => postTakeover q.1 q.2 (t.modTwin fun t => { t with takeoverDue := none })
          | none => t
        flushLate n k u

/-- A completion doorbell acts: it must lie within the entries written and not consumed (R280). -/
def actCqHead (n v : Nat) (s : State) : State :=
  let r := s.ring n
  let written := ringSpan r.size r.cqHead r.cqTail - waitingEntries s n
  if r.size ≤ v ∨ written < ringSpan r.size r.cqHead v then badDoorbell n (0x1000 + 4 * n) v s
  else
    let t := shadowDoorbell n true v ((releaseSlots n v s).setRing n { r with cqHead := v })
    if n = 0 then flushUnsol 17 (raiseLine 16 2 t) else flushLate n r.late.length t

/-- A doorbell is latched, one value for each (R284, R345). -/
def Ring.latch (cq : Bool) (v : Nat) (r : Ring) : Ring :=
  if cq then { r with latchCq := some v, latched := true } else { r with latchSq := some v, latched := true }

/-- A doorbell on ring n (Table 12.6, R307): acted on, latched, discarded during a reset, or invalid. In CATCHUP, whose rings have yet to come, every
ring but RING_0 latches it (R284). -/
def doorbell (n : Nat) (cq : Bool) (v : Nat) (s : State) : State :=
  let r := s.ring n
  match r.st with
  | .absent =>
    if n ≠ 0 ∧ s.twin.st = .catchup then s.setRing n (r.latch cq v)
    else badDoorbell n (if cq then 0x1000 + 4 * n else 4 * n) v s
  | .active => if cq then actCqHead n v s else if r.resetting then s else actSqTail n v s
  | _ =>
    if r.resetting then (if cq then actCqHead n v s else s) else s.setRing n (r.latch cq v)

/-- A write of SQ_TAIL_n or CQ_HEAD_n (R274, R279, R280). -/
def writeDoorbell (cq : Bool) (n : Nat) (v : Word) (s : State) : State :=
  if hostOpen s ∧ n < 1024 then doorbell n cq (fld v 11 0) s else s

/-- SQ_TAIL. -/
def execSqTail (n : Nat) (v : Word) (s : State) : Out := .next (writeDoorbell false n v s)

/-- CQ_HEAD. -/
def execCqHead (n : Nat) (v : Word) (s : State) : Out := .next (writeDoorbell true n v s)

/-! ## The Ring Fetch Engine -/

/-- The entries that one read of ring n would fetch (R282, R295). -/
def fetchCount (s : State) (n : Nat) : Nat :=
  let r := s.ring n
  let fl := inFlight s n
  let start := (r.sqHead + fl) % r.size
  let addr := r.sqBase + 64 * start
  if ringServed s n = false ∨ (n = 0 ∧ s.host.resyncBusy = true) then 0
  else if r.reruns ≠ [] then 1
  else if r.resetting ∨ r.st ≠ .active then 0
  else min (min (min 8 (ringSpan r.size r.sqHead r.sqTail - fl)) (min (r.size - 1 - r.used - fl) (r.size - start)))
    (min (min 512 s.host.mrrs / 64) ((4096 - addr % 4096) / 64))

/-- The ring that the rotation visits next among those a test admits. -/
def nextRing (s : State) (p : Nat → Bool) : Option Nat :=
  let l := (s.host.rings.map fun e => e.1).filter fun n => decide (0 < fetchCount s n) && p n
  (l.find? fun n => decide (s.host.rfePos < n)).or l.head?

/-- The read of one visit to a ring: an entry that a takeover runs again first, else the next unfetched ones. -/
def visitRead (i n : Nat) (s : State) : State :=
  let r := s.ring n
  match r.reruns with
  | slot :: rest =>
    sendTlp (.read i (r.sqBase + 64 * slot) 64)
      ((s.setTag i (some ⟨.desc n slot 0, [], false, none⟩)).setRing n { r with reruns := rest })
  | [] =>
    let start := (r.sqHead + inFlight s n) % r.size
    let k := fetchCount s n
    sendTlp (.read i (r.sqBase + 64 * start) (64 * k)) (s.setTag i (some ⟨.desc n start k, [], false, none⟩))

/-- A ring's account may have descriptors fetched: within budget, borrowing, or ACCT_0 (R255, R257). -/
def ringMayGo (s : State) (n : Nat) : Bool :=
  let a := (s.ring n).acct.toNat
  mayGo a (s.acct a).dmaMeter (s.acct a).dmaSlack

/-- Every ring with entries to fetch whose account may not go is deferred (R255, R263). -/
def starveDeferred (s : State) : State :=
  (s.host.rings.filter fun e => decide (0 < fetchCount s e.1) && !ringMayGo s e.1).foldl (fun t e => noteStarved e.2.acct.toNat 2 t) s

/-- RING_FETCH_VISIT (R255, R259, R295): rings of accounts within budget first, then borrowers and ACCT_0 beyond its meter; any other is deferred. A
parity error in the engine's state is device-fatal (Table 20.3). -/
def execRingFetchVisit (parity : Bool) (s : State) : Out :=
  let rich := nextRing s fun n => decide (0 < (s.acct (s.ring n).acct.toNat).dmaMeter)
  .next (if parity then internalFault s else if canSend s = false ∨ hostOpen s = false then s
    else
      let t := starveDeferred s
      match descTag s, rich.or (nextRing s (ringMayGo s)) with
      | some i, some n => visitRead i n (t.modHost fun h => { h with rfePos := n })
      | _, _ => t)

/-- Entries of sixteen words each from a slot on. -/
def splitEntries (epoch : BitVec 8) (size : Nat) : Nat → Nat → List Word → List SqEnt
  | 0, _, _ => []
  | k + 1, slot, ws => ⟨ws.take 16, slot % size, epoch, false⟩ :: splitEntries epoch size k (slot + 1) (ws.drop 16)

/-- DESCRIPTOR_ARRIVAL (R252, R295, R318, R474): the entries of the ring's oldest read are fetched, with line 0 of S for each; a read
error makes the ring ring-fatal. -/
def execDescriptorArrival (i : Nat) (res : RdResult) (s : State) : Out :=
  .next (match s.hbTag i with
    | none => s
    | some t =>
      match t.use with
      | .desc n start k =>
        let r := s.ring n
        if t.dead ∨ r.st = .absent then freeTag i s
        else match res with
          | .err st => freeTag i (endInError t 0x05 st s)
          | .data ws =>
            if k = 0 then
              raiseLine 16 0 (chargeDma r.acct.toNat 64 (freeTag i (s.setRing n
                { r with fetched := (r.fetched.filter fun e => e.rerun) ++ [⟨ws.take 16, start, r.epoch, true⟩] ++
                    (r.fetched.filter fun e => !e.rerun) })))
            else if start ≠ r.sqHead then s
            else
              let u := chargeDma r.acct.toNat (64 * k) (freeTag i (s.setRing n
                { r with sqHead := (r.sqHead + k) % r.size, fetched := r.fetched ++ splitEntries r.epoch r.size k start ws }))
              flushBad n (u.ring n).fetched.length ((List.range k).foldl (fun v _ => raiseLine 16 0 v) u)
      | _ => s)

/-! ## Jobs -/

/-- A context at an entry point: both stacks empty, its registers from the descriptor, HALTED (R146, R298, R308). -/
def prepareCtx (c : Nat) (e : EntryPt) (s : State) : State :=
  s.modCtx c fun x =>
    { x with
      dspBase := e.dspBase, dspLimit := e.dspLimit, dspPtr := e.dspBase
      rspBase := e.rspBase, rspLimit := e.rspLimit, rspPtr := e.rspBase, vecBase := e.vecBase }

/-- CTXCTL START: PC set, both stacks empty, RUN (R146). -/
def startCtx (c : Nat) (pc : BitVec 24) (s : State) : State :=
  (unsettle c s).modCtx c fun x =>
    { x with
      st := .run, pc := pc, ds := [], rs := [], dspPtr := x.dspBase, rspPtr := x.rspBase
      lands := [], snaps := [], trap := none, fbuf := false, mid := none }

/-- A core that ring n may dispatch to (R298, R354). -/
def mayDispatch (s : State) (n k : Nat) : Bool :=
  decide (k < 16) && bit (tget {} s.prot.map.rings n).cores k && !bit s.host.sessionCores k

/-- The island of a core can take up work: it runs, or it is gated by itself and S's first write ungates it (R26). -/
def islandServes (s : State) (d : Nat) : Bool := islandRuns s d || ((s.dom d).autoGated && !(s.dom d).inRst)

/-- A waiting JOB_RUN may use context c: a halted one without a job on a permitted core whose island serves and whose stores are loaded (R182, R298). -/
def jobFits (s : State) (n : Nat) (e : SqEnt) (c : Nat) : Bool :=
  let core := fld (e.dw 2) 7 0
  let ctx := fld (e.dw 2) 15 8
  mayDispatch s n (coreOf c) && (core == 0xFF || core == coreOf c) && (ctx == 0xFF || ctx == ctxIx c) &&
  decide ((s.ctx c).st = .halted) && (s.ctx c).job.isNone && islandServes s (domOf (coreOf c)) &&
  (s.core (coreOf c)).storesValid

/-- The entry of a started command. -/
def startedEnt (s : State) (n : Nat) (cmd : BitVec 16) : Option SqEnt := (startedCmd s n cmd).map fun t => t.ent

/-- JOB_RUN (R296 to R298): checked, and then waiting for a permitted halted context. -/
def execJobRun (n : Nat) (s : State) : Out :=
  .next (match headWith s n 0x60 with
    | none => s
    | some e =>
      let core := fld (e.dw 2) 7 0
      let ctx := fld (e.dw 2) 15 8
      if n = 0 then s
      else if e.reservedOk 14 = false ∨ fld (e.dw 3) 31 4 ≠ 0 ∨ 10 < fld (e.dw 3) 3 0 ∨ (3 < ctx ∧ ctx ≠ 0xFF) ∨
          (core ≠ 0xFF ∧ (15 < core ∨ bit s.host.sessionCores core = true)) then completeHead n e 0x0002 0 0 s
      else if core ≠ 0xFF ∧ mayDispatch s n core = false then completeHead n e 0x0207 0 0 s
      else if (tget none s.host.entries (fld (e.dw 2) 31 16)).isNone then completeHead n e 0x0502 0 0 s
      else (startHead n e s).modHost fun h => { h with jobs := h.jobs ++ [(n, e.cmd)] })

/-- The job block of a command (R298). -/
def jobBlock (n : Nat) (e : SqEnt) : List Word :=
  let argc := fld (e.dw 3) 3 0
  wd (n + e.cmd.toNat * 2 ^ 16) :: wd argc ::
    ((List.range 10).map (fun i => if i < argc then e.dw (4 + i) else 0) ++ [0, 0, 0, 0])

/-- JOB_DISPATCH (R298): context c goes to the oldest waiting command that may use it, when it is the lowest context that command
may use. A binding that R260 refuses completes the command with NO_RESOURCE. -/
def execJobDispatch (c : Nat) (s : State) : Out :=
  .next (match s.host.jobs.find? fun j => (startedEnt s j.1 j.2).any fun e => jobFits s j.1 e c with
    | none => s
    | some j =>
      match startedEnt s j.1 j.2 with
      | none => s
      | some e =>
        if (List.range c).any fun d => jobFits s j.1 e d then s
        else match tget none s.host.entries (fld (e.dw 2) 31 16) with
          | none => s
          | some p =>
            let blk := p.jobBlk.toNat + 64 * c
            let s1 := prepareCtx c p (ungate (domOf (coreOf c)) <|
              sramWords blk (jobBlock j.1 e) (s.modHost fun h => { h with jobs := h.jobs.filter fun k => k != j }))
            let b := bindCtx c (s.ring j.1).acct.toNat s1
            if b.2 then startCtx c p.start (b.1.modCtx c fun x => { x with job := some (j.1, j.2, blk) })
            else endCommand j.1 j.2 0x0003 0 0 b.1)

/-- JOB_DONE (R299): S sees DONE, halts the context and writes the completion, once a context that finishes other work first has halted (R124). -/
def execJobDone (c : Nat) (s : State) : Out :=
  .next (match (s.ctx c).job with
    | some j =>
      if jobDone s j.2.2 then
        let t := haltRequest c s
        if (t.ctx c).st = .halted then finishJob c j t else t
      else s
    | none => s)

/-- JOB_TRAP (R300): a job whose context is HALTED without DONE; RESULT0 is 0 where a CORE_STOP has halted it (R309). -/
def execJobTrap (c : Nat) (s : State) : Out :=
  .next (match (s.ctx c).job with
    | some j =>
      if (s.ctx c).st = .halted then
        (if jobDone s j.2.2 then finishJob c j s
         else endCommand j.1 j.2.1 0x0503 (if (s.ctx c).stopDue then 0 else wd (s.ctx c).trapCause.toNat) 0 (dropJob c s))
      else s
    | none => s)

/-- The contexts that run a job of this command. -/
def jobCtxs (s : State) (n : Nat) (cmd : BitVec 16) : List Nat :=
  allCtxs.filter fun c => (s.ctx c).job.any fun j => j.1 == n && j.2.1 == cmd

/-- They are asked to halt (R300, R473). -/
def haltJobs (n : Nat) (cmd : BitVec 16) (s : State) : State := (jobCtxs s n cmd).foldl (fun t c => haltRequest c t) s

/-- The pass closes: what is still open is lost, the standby hears of it and the journal has its entry (R22, R439, Table 14.5). -/
def closePass (s : State) : State :=
  let t := s.modPass fun p => { p with isOpen := false, ending := false, exchs := [], held := [] }
  journal 3 (sendShadow (.pass t.pass.dws false t.pass.ring) t)

/-- PASS_END has completed and its entry is written: no record of it waits for the standby, and none is held (R343, R474). -/
def passEndWritten (s : State) : Bool :=
  let p := s.pass
  (startedCmd s p.ring p.cmd).isNone &&
  (s.twin.wah.all fun w => w.ring != p.ring || BitVec.ofNat 16 (fld (nthW w.ws 2) 31 16) != p.cmd) &&
  ((s.ring p.ring).held.all fun h => h.cmd != p.cmd)

/-- A pass is open until the completion entry of its PASS_END is written (R22). -/
def settlePass (s : State) : State := if s.pass.isOpen ∧ s.pass.ending ∧ passEndWritten s then closePass s else s

/-- A PASS_END that has timed out ends the pass; readings that it had not written are lost (R22, R293). -/
def timeoutPass (n : Nat) (cmd : BitVec 16) (s : State) : State :=
  if s.pass.isOpen ∧ s.pass.ending ∧ s.pass.ring = n ∧ s.pass.cmd = cmd then
    settlePass (s.modPass fun p => { p with exchs := [], held := [] })
  else s

/-- COMMAND_TIMEOUT (R293, R300, R473): a started command's jobs halt, its transfer stops, and it completes with TIMEOUT; one report
(R470). A command at the head of its ring that has not come to its end ends so too, and a PASS_END closes the pass. -/
def execCommandTimeout (n : Nat) (cmd : BitVec 16) (s : State) : Out :=
  .next (match startedCmd s n cmd with
    | some q =>
      let t := haltJobs n cmd s
      let cs := jobCtxs s n cmd
      if cs.any fun c => decide ((t.ctx c).st ≠ .halted) then t
      else
        let s1 := cs.foldl (fun u c => dropJob c u) (logOrRepeat q.log 0x08 1 0x0012 0x7F 0x1F (some n) 0 0 t)
        let moved := (dmaOf s n cmd).elim 0 fun d => d.moved
        let s2 := dropDma n cmd (s1.modHost fun h => { h with jobs := h.jobs.filter fun j => j != (n, cmd) })
        timeoutPass n cmd (endCommand n cmd 0x0012 (wd moved) 0 s2)
    | none =>
      match headOf s n with
      | some e =>
        if e.cmd = cmd then completeHead n e 0x0012 0 0 (logFault 0x08 1 0x0012 0x7F 0x1F (some n) 0 0 s) else s
      | none => s)

/-- MSIX_COALESCE_TIMEOUT (R294): while the bridge cannot send, the entries stay unsignalled (R204). -/
def execMsixCoalesceTimeout (n : Nat) (s : State) : Out :=
  let r := s.ring n
  .next (if r.unsig = 0 ∨ r.vector = 0xFF ∨ canSend s = false then s else sendMsix r.vector.toNat (s.setRing n { r with unsig := 0 }))

/-! ## Data movement -/

/-- A range of shared SRAM (R301). -/
def sramRange (a len : Nat) : Bool := decide (0x10000000 ≤ a) && decide (a + len ≤ 0x10400000)

/-- The check of a data-movement command (R301): alignment and ranges, then the window's rights, then its size. -/
def dmCheck (s : State) (n : Nat) (e : SqEnt) (kind : Nat) : Nat :=
  let len := (e.dw 5).toNat
  let off := (e.dw 3).toNat
  let w := s.win (fld (e.dw 2) 7 0)
  let fill := kind == 2
  let res := if fill then e.reservedOk 7 && e.dw 2 == 0 && e.dw 3 == 0 else e.reservedOk 6 && fld (e.dw 2) 31 8 == 0
  if res = false ∨ len % 4 ≠ 0 ∨ len < 4 ∨ 1048576 < len ∨ (e.dw 4).toNat % 4 ≠ 0 ∨ sramRange (e.dw 4).toNat len = false ∨
      (fill = false ∧ off % 4 ≠ 0) then 0x0002
  else if fill then 0
  else if w.v = false ∨ (if kind = 0 then w.rd else w.wr) = false ∨ fld (e.dw 2) 7 0 ∉ (tget {} s.prot.map.rings n).win then 0x0004
  else if 2 ^ w.size < off + len then 0x0002
  else 0

/-- A data-movement command is checked and its transfer starts. -/
def dmStart (n kind : Nat) (s : State) : State :=
  match headWith s n (0x70 + kind) with
  | none => s
  | some e =>
    if n = 0 then s
    else match dmCheck s n e kind with
      | 0 =>
        let d : Dma := ⟨n, e.cmd, BitVec.ofNat 2 kind, hostAddr s (fld (e.dw 2) 7 0) (e.dw 3).toNat, (e.dw 4).toNat, (e.dw 5).toNat,
          0, e.dw 6, (s.win (fld (e.dw 2) 7 0)).ns && kind != 2, none⟩
        let t := (startHead n e s).modHost fun h => { h with dmas := h.dmas ++ [d] }
        if kind = 0 then startSegment d t else t
      | st => completeHead n e st 0 0 s

def execDmCopyIn (n : Nat) (s : State) : Out := .next (dmStart n 0 s)
def execDmCopyOut (n : Nat) (s : State) : Out := .next (dmStart n 1 s)
def execDmFill (n : Nat) (s : State) : Out := .next (dmStart n 2 s)

/-- Words read by the DMA engine up to the first uncorrectable one. -/
def dmaReads (a : Nat) : Nat → State → State × List Word
  | 0, s => (s, [])
  | n + 1, s =>
    let r := eccRead (.other 0x7F 2) a .none s
    if r.2 then
      let t := dmaReads (a + 4) n r.1
      (t.1, readWord r.1.fab.sram a :: t.2)
    else (r.1, [])

/-- A segment of k bytes has moved: the transfer goes on, with the read of the next segment of a copy from the host, or the command completes with the
bytes moved in RESULT0 (R201, R301). -/
def dmaAdvance (d : Dma) (k : Nat) (s : State) : State :=
  if d.moved + k < d.len then
    let e : Dma := { d with moved := d.moved + k, tag := none }
    let t := setDma e s
    if d.kind = 0 then startSegment e t else t
  else endCommand d.ring d.cmd 0 (wd d.len) 0 (dropDma d.ring d.cmd s)

/-- A read of k bytes for a transfer has ended: its tag is free, and its data move into shared SRAM, or the transfer stops (R197, R201, R302). -/
def dmaArrived (d : Dma) (i k : Nat) (res : RdResult) (s : State) : State :=
  let t := freeTag i s
  match res with
  | .data ws => dmaAdvance d k (sramWords (d.sram + d.moved) (ws.take (k / 4)) t)
  | .err st => dmaFail d d.moved (logFault 0x05 1 0 0x7F 2 (some d.ring) st (d.host + d.moved) (noteHbErr st (d.host + d.moved) t))

/-- A segment of k bytes of a copy to the host: read from shared SRAM and written (R201, R302). -/
def dmaWrite (d : Dma) (k : Nat) (ups : List (Nat × Upset)) (s : State) : State :=
  let r := dmaReads (d.sram + d.moved) (k / 4) (applyUpsets ups s)
  if r.2.length < k / 4 then dmaFail d (d.moved + 4 * r.2.length) r.1
  else dmaAdvance d k (chargeDma (s.ring d.ring).acct.toNat k (sendTlp (.write (d.host + d.moved) r.2 d.ns) r.1))

/-- DMA_SEGMENT_DONE (R120, R201, R255, R302): a segment of a command's transfer is done, with what the host's memory answered its read; while a bank
that it touches is held it waits. A copy to the host is deferred without budget, and fails while the bridge cannot send; a copy from the host whose
read has not left tries again. -/
def execDmaSegmentDone (n : Nat) (cmd : BitVec 16) (res : RdResult) (ups : List (Nat × Upset)) (s : State) : Out :=
  .next (match dmaOf s n cmd with
    | none => s
    | some d =>
      let a := (s.ring n).acct.toNat
      let q := s.acct a
      match d.kind.toNat, d.tag with
      | 0, none => if .dma n cmd ∈ s.fab.hbWait then s else startSegment d s
      | 0, some i => if rangeHeld s (d.sram + d.moved) i.2 then s else dmaArrived d i.1 i.2 res s
      | 1, _ =>
        if mayGo a q.dmaMeter q.dmaSlack = false then noteStarved a 2 s
        else if canSend s = false then dmaRefused d s
        else if rangeHeld s (d.sram + d.moved) (segLen s d) then s
        else dmaWrite d (segLen s d) ups s
      | _, _ =>
        if rangeHeld s (d.sram + d.moved) (segLen s d) then s
        else dmaAdvance d (segLen s d) (sramWords (d.sram + d.moved) (List.replicate (segLen s d / 4) d.fill) s))

end Sys2Proof.Machine
end

