-- ==== Sys2Proof/Machine/TwinLink.lean ====
section
/-! DEFINITION. Twinlink: sequenced packets, acknowledgement and replay (R326 to R330), the services that the twin asks of this
side's memory (R205 to R208), its replies, and side-band polling (R209). -/

namespace Sys2Proof.Machine

open Sys2Proof

/-! ## The receiver -/

/-- A link ACK with the last SEQ accepted (R328, R329). -/
def sendLinkAck (s : State) : State :=
  sendPlain 0x0E 0 [wd (s.twin.rxSeq.toNat + 2 ^ 15), 0] (s.modTwin fun t => { t with unackedRx := 0 })

/-- A link NAK with the last SEQ accepted (R329). -/
def sendLinkNak (s : State) : State := sendPlain 0x0F 0 [wd (s.twin.rxSeq.toNat + 2 ^ 15), 0] s

/-- A reliable packet (R329): the next in sequence is accepted and acts; one accepted before is acknowledged again; after a gap the
link NAK goes out. The eighth unacknowledged packet is acknowledged at once. -/
def acceptRel (h : Hdr) (go : State → State) (s : State) : State :=
  if s.twin.lanesUp = false then s
  else if h.seq = s.twin.rxSeq + 1 then
    let t := go (s.modTwin fun t => { t with rxSeq := h.seq, unackedRx := t.unackedRx + 1 })
    if 8 ≤ t.twin.unackedRx then sendLinkAck t else t
  else if (s.twin.rxSeq - h.seq).toNat < 2048 then sendLinkAck s
  else sendLinkNak s

/-- LINK_ACK_TIMER (R329). -/
def execLinkAckTimer (s : State) : Out :=
  .next (if s.twin.unackedRx = 0 ∨ s.twin.lanesUp = false then s else sendLinkAck s)

/-- TWIN_PACKET_DROP (R326, R327, R329). -/
def execTwinPacketDrop (s : State) : Out :=
  .next (if s.twin.lanesUp then sendLinkNak (s.modTwin fun t => { t with crcErrs := satInc t.crcErrs }) else s)

/-! ## The sender -/

/-- The lanes go down (R324, R330): D_22 stops and its crossing goes down; what is outstanding ends by its own limits. -/
def dropLanes (s : State) : State :=
  crossingDown 22 ((s.modTwin fun t =>
    { t with lanesUp := false, downs := satInc t.downs, recentReplays := [], theirs := none }).modDom 22 fun m =>
      { m with state := .stopped, clockOn := false })

/-- The lanes go down on a fault (R469, R470): logged, and carried by every outstanding twin request. -/
def failLanes (s : State) : State :=
  let t := logFault 0x07 1 0 0x7F 22 none 0 0 (dropLanes s)
  t.modFab fun f => { f with treqs := f.treqs.map fun r => { r with log := r.log.or (some t.faults.seq) } }

/-- A replay of every reliable packet not acknowledged; the ninth within 40 µs takes the lanes down (R329, R330). -/
def replay (s : State) : State :=
  let recent := (s.twin.recentReplays.filter fun u => decide (s.nowUs < u + 40)) ++ [s.nowUs]
  let t := s.modTwin fun t => { t with replays := satInc t.replays, recentReplays := recent }
  if 9 ≤ recent.length then failLanes t
  else t.modTwin fun t => { t with tsent := t.tsent ++ t.replayBuf }

/-- REPLAY_TIMEOUT (R329). -/
def execReplayTimeout (s : State) : Out :=
  .next (if s.twin.replayBuf = [] ∨ s.twin.lanesUp = false then s else replay s)

/-- Whether a SEQ is covered by an acknowledgement up to `a`, modulo 4,096 (R328). -/
def covered (a q : BitVec 12) : Bool := decide ((a - q).toNat < 2048)

/-- A record's entry is written at its slot, or held (R343, R474). -/
def releaseRecord (w : WahRec) (s : State) : State :=
  if s.host.fatal then s
  else if canSend s && (s.ring w.ring).held.isEmpty then
    signalEntry w.ring w.status w.noint (sendEntry w.ring w.slot w.ws s)
  else holdEntry w.ring
    ⟨some (w.slot, w.ws), BitVec.ofNat 16 (fld (nthW w.ws 2) 31 16), w.status, nthW w.ws 0, nthW w.ws 1,
      BitVec.ofNat 8 (fld (nthW w.ws 3) 23 16), w.noint⟩ s

/-- Records leave the wait, in order; the longest wait is kept in MAX_US (Table 14.7); rings may go on to their next command, and a pass whose PASS_END
is written closes (R22). -/
def releaseRecords (ws : List WahRec) (s : State) : State :=
  settlePass <| ws.foldl (fun t w =>
    let u := releaseRecord w (t.modTwin fun q =>
      { q with wah := q.wah.filter fun v => v != w, maxUs := BitVec.ofNat 16 (max q.maxUs.toNat (min 0xFFFF (t.nowUs - w.atUs))) })
    flushBad w.ring (u.ring w.ring).fetched.length u) s

/-- Held packets take freed places of the replay buffer (R329). -/
def sendHeld : Nat → State → State
  | 0, s => s
  | n + 1, s =>
    match s.twin.heldPkts with
    | [] => s
    | p :: rest =>
      if s.twin.replayBuf.length < 32 then
        sendHeld n (putOnLanes p (s.modTwin fun t => { t with heldPkts := rest, replayBuf := t.replayBuf ++ [p] }))
      else s

/-- Every reliable packet up to ACKSEQ is acknowledged: it leaves the replay buffer, the completion entries that it covers are
written, and held packets follow (R328, R329, R343). -/
def linkAcked (a : BitVec 12) (s : State) : State :=
  let t := s.modTwin fun t => { t with replayBuf := t.replayBuf.filter fun p => !covered a p.seq }
  let u := releaseRecords (t.twin.wah.filter fun w => covered a w.seq) t
  sendHeld u.twin.heldPkts.length u

/-! ## Replies to this side's requests -/

/-- The bank of the lock that a context holds on the twin. -/
def twinHeldBank (s : State) (c : Nat) : Nat := match (s.ctx c).hold with | some b => b.n | none => 0

/-- The first NAK broken of the lock that a context holds on the twin's bank b starts its pending break and raises line 11 of its core; one that follows
finds no hold and starts none (R123, R207). -/
def breakTwinHold (c b : Nat) (s : State) : State :=
  if (s.ctx c).hold = some ⟨true, b⟩ then
    raiseLine (coreOf c) 11
      ((s.modFab fun f => { f with twinLocks := f.twinLocks.filter fun e => e.2 != c }).modCtx c fun x =>
        { x with hold := none, brk := some ⟨true, b⟩ })
  else s

/-- NAK broken with the TAG of a granted LOCK (R207). -/
def lockBroken (c : Nat) (s : State) : State :=
  let b := twinHeldBank s c
  settleDue c (breakTwinHold c b (noteTbErr 2 (0x20000000 + b * 0x40000) s))

/-- The context waits for the line that a broken request was to fetch. -/
def waitsForLine (x : Ctx) (d : Word) : Bool :=
  match x.line with
  | some l => l.addr == d && l.st == .fetching
  | none => false

/-- NAK broken for an access (R123, R207): the access that its context waits for traps with the lock-broken cause, whose entry clears the pending break;
a line fetched for LDTRY is dropped, and a posted store is counted as failed; of an access that the context has abandoned only the break
remains. -/
def accessBroken (u : TwinUse) (s : State) : State :=
  let c := u.ctx
  let t := breakTwinHold c (bankOf u.addr) s
  match u, (t.ctx c).long with
  | .store _ _ _ _, _ => settleDue c (postFail c true t)
  | .line _ d, some (.far a _ _ _) => if waitsForLine (t.ctx c) d then trapLong c 0x0C a.toNat t else settleDue c t
  | .line _ d, _ => settleDue c (if waitsForLine (t.ctx c) d then dropLine c t else t)
  | .atomic _ a _, some (.farAtomic _ _ _) => trapLong c 0x0C a.toNat t
  | .lock _ _, some (.lock a) => trapLong c 0x0C a.toNat t
  | .unlock _ b, some .unlock => trapLong c 0x0C (0x20000000 + b * 0x40000) t
  | _, _ => settleDue c t

/-- The payload of a reply is charged to the account of the context that asked (R205, R252). -/
def chargeReply (r : TwinReq) (n : Nat) (s : State) : State := chargeTwin (s.ctx r.use.ctx).acct.toNat n s

/-- A reply with code 0: granted or done; one whose context no longer waits for it is discarded (R205, R328, R473). -/
def replyDone (tag : BitVec 16) (s : State) : State :=
  match treqOf s tag with
  | none => s
  | some r =>
    let t := chargeReply r 8 (dropTreq tag s)
    match r.use with
    | .lock c b => (match (t.ctx c).long with
      | some (.lock _) => finishLong c (fun x => { x with ds := x.ds.tail, hold := some ⟨true, b⟩ })
          (t.modFab fun f => { f with twinLocks := f.twinLocks ++ [(tag, c)] })
      | _ => t)
    | .unlock c _ => (match (t.ctx c).long with
      | some .unlock => finishLong c (fun x => { x with hold := none })
          (t.modFab fun f => { f with twinLocks := f.twinLocks.filter fun e => e.2 != c })
      | _ => t)
    | _ => t

/-- A reply that refuses: 1 busy, 2 broken, 3 remote memory error (R205 to R208, Table 8.7). -/
def replyRefused (tag : BitVec 16) (code : Nat) (s : State) : State :=
  match treqOf s tag, code with
  | some r, 1 => (chargeReply r 8 s).modFab fun f => { f with treqs := f.treqs.map fun q => if q.tag = r.tag then { q with retry := true } else q }
  | some r, 2 => accessBroken r.use (noteTbErr 2 r.use.addr (chargeReply r 8 (dropTreq tag s)))
  | some r, 3 => failTwin r.use (noteTbErr 3 r.use.addr (chargeReply r 8 (dropTreq tag s)))
  | none, 2 => (match s.fab.twinLocks.find? fun e => e.1 == tag with
    | some e => lockBroken e.2 s
    | none => s)
  | _, _ => s

/-- ACK (R328): a link acknowledgement, a reply, or both. -/
def execAck (h : Hdr) (linkv : Bool) (ackseq : BitVec 12) (txnv : Bool) (code : BitVec 8) (s : State) : Out :=
  let t := if linkv ∧ s.twin.lanesUp then linkAcked ackseq s else s
  .next (if txnv then acceptRel h (fun u => if code = 0 then replyDone h.tag u else u) t else t)

/-- NAK (R328): every reliable packet after ACKSEQ is sent again, or a request is refused. -/
def execNak (h : Hdr) (linkv : Bool) (ackseq : BitVec 12) (txnv : Bool) (code : BitVec 8) (s : State) : Out :=
  let u := if linkv ∧ s.twin.lanesUp then linkAcked ackseq s else s
  let t := if linkv ∧ u.twin.lanesUp ∧ u.twin.replayBuf ≠ [] then replay u else u
  .next (if txnv then acceptRel h (replyRefused h.tag code.toNat) t else t)

/-- MEMRDCPL (R196, R205, R206): the line fills the holder, or an atomic returns its old value; code 1 is a remote memory error. -/
def execMemrdcpl (h : Hdr) (ok : Bool) (line : List Word) (s : State) : Out :=
  .next (acceptRel h (fun t =>
    match treqOf t h.tag with
    | none => t
    | some r =>
      let u := chargeReply r (match r.use with | .atomic _ _ _ => 8 | _ => 36) (dropTreq h.tag t)
      if ok = false then failTwin r.use (noteTbErr 3 r.use.addr u)
      else match r.use with
        | .line c d => fillLine c d line u
        | .atomic c _ _ => endAtomic c (nthW line 0) u
        | _ => u) s)

/-! ## Claims -/

/-- PRIO as it acts (Table 19.1). -/
def actingPrio (s : State) : BitVec 2 := if s.boot.straps.twinPrio = 3 then 0 else s.boot.straps.twinPrio

/-- This side's claim (Table 14.2). -/
def myClaim (s : State) : Claim :=
  ⟨actingPrio s, s.twin.incumbent, s.twin.theirs.isSome, Config.serial, s.twin.rand, s.twin.gen⟩

/-- GEN a is newer than GEN b (R333). -/
def genNewer (a b : BitVec 16) : Bool := decide (1 ≤ (a - b).toNat ∧ (a - b).toNat ≤ 32767)

/-- The role function of R333. -/
def claimRole (mine theirs : Claim) : TwinState :=
  if mine.incumbent && theirs.incumbent then
    (if genNewer mine.gen theirs.gen then .primary else if genNewer theirs.gen mine.gen then .standby else .conflict)
  else if mine.incumbent then .primary
  else if theirs.incumbent then .standby
  else if mine.prio = 2 ∧ theirs.prio = 2 then .conflict
  else if mine.prio ≠ theirs.prio then (if theirs.prio < mine.prio then .primary else .standby)
  else if mine.serial ≠ theirs.serial then (if mine.serial < theirs.serial then .primary else .standby)
  else .conflict

/-! ## Requests of the twin -/

/-- The twin is the junior side (R208): this side is PRIMARY, or, while the roles are not settled, the twin's claim is the one that loses. -/
def peerIsJunior (s : State) : Bool :=
  decide (s.twin.st = .primary) ||
  (decide (s.twin.st = .claiming) && (s.twin.theirs.any fun c => decide (claimRole (myClaim s) c = .primary)))

/-- A request of the twin for a bank (R189, R207, R208): broken is answered first; a bank that a context holds refuses the junior
and makes the senior wait, which leaves the packet unread. -/
def twinService (h : Hdr) (b : Nat) (held : Bool) (go : State → State) (s : State) : State :=
  if b ∈ s.fab.twinBroken then
    acceptRel h (fun t => sendReply 0x0F h.tag 2 (t.modFab fun f => { f with twinBroken := f.twinBroken.filter fun i => i != b })) s
  else if held then (if peerIsJunior s then acceptRel h (fun t => sendReply 0x0F h.tag 1 t) s else s)
  else acceptRel h go s

/-- Two requests of the twin come from one context: its number stands in the low bits of their TAGs (log 113). -/
def sameCtx (a b : BitVec 16) : Bool := a.toNat % 128 == b.toNat % 128

/-- A bank is held by another agent than the context of the twin whose request has this TAG (R208). -/
def heldFrom (s : State) (b : Nat) (tag : BitVec 16) : Bool :=
  match s.bankHolder b with
  | some (.ctx _) => true
  | some (.twin t) => !sameCtx t tag
  | none => false

/-- MEMRD (R205). -/
def execMemrd (h : Hdr) (off : Word) (ups : List (Nat × Upset)) (s : State) : Out :=
  let a := 0x10000000 + off.toNat / 32 * 32
  .next (if 0x400000 ≤ off.toNat then s
    else twinService h (bankOf a) (heldFrom s (bankOf a) h.tag) (fun t =>
      let r := readLineEcc (.other 0x7F 22) a 8 (applyUpsets ups t)
      if r.2 then sendRel 0x07 h.tag (0 :: readWords r.1.fab.sram a 8) none r.1
      else
        let f := freeWords 8 r.1
        sendRel 0x07 h.tag (1 :: f.1) none f.2) s)

/-- The bytes that a MEMWR names are merged into a word (Table 14.2). -/
def mergeBytes (a : Nat) (be : BitVec 4) (d : Word) (m : Table Byte) : Table Byte :=
  (List.range 4).foldl (fun n i => if bit be i then writeByte n (a + i) (d.extractLsb' (8 * i) 8) else n) m

/-- A store of the twin at its word: all four bytes replace the word, fewer are merged after a read (R115, R192). -/
def twinStore (h : Hdr) (a : Nat) (be : BitVec 4) (d : Word) (u : Upset) (s : State) : State :=
  if be = 15 then sendReply 0x0E h.tag 0 (sramWord a d s)
  else
    let r := eccRead (.other 0x7F 22) a u s
    if r.2 then sendReply 0x0E h.tag 0 (r.1.modFab fun f => { f with sram := mergeBytes a be d f.sram })
    else sendReply 0x0F h.tag 3 r.1

/-- An atomic of the twin at its word (R118, R205): n or the new value is in `d`, the expected one in `e`. -/
def twinAtomic (h : Hdr) (a : Nat) (op : Atomic) (u : Upset) (s : State) : State :=
  let r := eccRead (.other 0x7F 22) a u s
  if r.2 then
    let old := readWord r.1.fab.sram a
    sendRel 0x07 h.tag [0, old] none (sramWord a (atomicNew op old) r.1)
  else
    let f := r.1.freshWord
    sendRel 0x07 h.tag [1, f.1] none f.2

/-- MEMWR (R205): a store or an atomic; code 3 is no operation of Table 14.2 and is dropped as malformed (R326). -/
def execMemwr (h : Hdr) (off : Word) (be : BitVec 4) (code : BitVec 2) (d e : Word) (u : Upset) (s : State) : Out :=
  let a := 0x10000000 + off.toNat / 4 * 4
  .next (if 0x400000 ≤ off.toNat then s
    else twinService h (bankOf a) (heldFrom s (bankOf a) h.tag) (fun t =>
      match code.toNat with
      | 0 => twinStore h a be d u t
      | 1 => twinAtomic h a (.fadd d) u t
      | 2 => twinAtomic h a (.cas e d) u t
      | _ => t) s)

/-- TWIN_LOCK (R207, R208): a free bank is granted to the twin. -/
def execTwinLock (h : Hdr) (bank : BitVec 4) (s : State) : Out :=
  let b := bank.toNat
  .next (twinService h b (s.bankHolder b).isSome (fun t => sendReply 0x0E h.tag 0 (t.setBank b (some (.twin h.tag)))) s)

/-- TWIN_UNLOCK (R207): the holder's own; any other finds its lock broken. -/
def execTwinUnlock (h : Hdr) (bank : BitVec 4) (s : State) : Out :=
  let b := bank.toNat
  .next (twinService h b false (fun t =>
    match t.bankHolder b with
    | some (.twin q) => if sameCtx q h.tag then sendReply 0x0E h.tag 0 (t.setBank b none) else sendReply 0x0F h.tag 2 t
    | _ => sendReply 0x0F h.tag 2 t) s)

/-! ## Side-band polling -/

/-- The payload of POLL and POLLRSP (Table 14.2): counter i in byte i. -/
def pollWords (s : State) : List Word :=
  let ctr := fun k => (List.range 4).foldl (fun n i => n + (tget 0 s.fab.irqOut (4 * k + i)).toNat * 256 ^ i) 0
  [wd s.fab.twSbOut.toNat, wd (ctr 0), wd (ctr 1)]

/-- TWIN_POLL_TIMER (R209). -/
def execTwinPollTimer (s : State) : Out := .next (sendPlain 0x0A 0 (pollWords s) s)

/-- A received counter moves: its pending bit is set and line 5 of S raised, once for each move (R44, R209). -/
def counterMoved (i : Nat) (v : Byte) (s : State) : State :=
  let n := (v - tget 0 s.fab.irqSeen i).toNat
  if n = 0 then s
  else (List.range n).foldl (fun t _ => raiseLine 16 5 t)
    (s.modFab fun f => { f with irqSeen := tput i v f.irqSeen, twIrqPend := putBit f.twIrqPend i true })

/-- The received counters. -/
def countersReceived (cnt : List Byte) (s : State) : State :=
  (List.range 8).foldl (fun t i => match cnt[i]? with | some v => counterMoved i v t | none => t) s

/-- POLL (R209): answered with POLLRSP; its counters count as POLLRSP's do. -/
def execPoll (_sb : BitVec 16) (cnt : List Byte) (s : State) : Out :=
  .next (if s.twin.lanesUp = false then s
    else
      let t := countersReceived cnt s
      sendPlain 0x0B 0 (pollWords t) t)

/-- POLLRSP (R209). -/
def execPollrsp (sb : BitVec 16) (cnt : List Byte) (s : State) : Out :=
  .next (if s.twin.lanesUp = false then s
    else countersReceived cnt (s.modFab fun f => { f with twSbIn := sb, sbStale := false }))

/-- SB_STALE (R209). -/
def execSbStale (s : State) : Out := .next (s.modFab fun f => { f with sbStale := true })

/-- A write of TW_IRQ_RAISE (R209). -/
def raiseTwinIrq (m : BitVec 8) (s : State) : State :=
  s.modFab fun f =>
    { f with irqOut := (List.range 8).foldl (fun t i => if bit m i then tput i (tget 0 t i + 1) t else t) f.irqOut }

/-- TW_IRQ_RAISE. -/
def execTwIrqRaise (m : BitVec 8) (s : State) : Out := .next (raiseTwinIrq m s)

end Sys2Proof.Machine
end

