-- ==== Sys2Proof/Machine/Regs.lean ====
section
/-! DEFINITION. The registers as words, without the side effect of a read: the images that ports, BAR 0, IDENTIFY, the resync block
and snapshots share. -/

namespace Sys2Proof.Machine

open Sys2Proof

/-- A word from fields: each a value and the bit at which it starts. -/
def fields (l : List (Nat × Nat)) : Word := wd (l.foldl (fun n e => n + e.1 * 2 ^ e.2) 0)

/-- A two's-complement word. -/
def intWord (i : Int) : Word := BitVec.ofInt 32 i

/-! ## Clocks (Tables 2.5 to 2.9) -/

def islCtl (s : State) (d : Nat) : Word :=
  let m := s.dom d
  if 2 ≤ d ∧ d ≤ 20 then
    fields [(m.codeCap.toNat, 0), (b2n m.refLock, 6), (m.lockMhz.toNat, 7), (m.floorMhz.toNat, 16), (m.stateReq.code, 26)]
  else 0

/-- The state that ISL_STAT shows: D_21 to D_24 follow their clocks. -/
def islState (s : State) (d : Nat) : Nat :=
  let m := s.dom d
  if d = 0 ∨ d = 1 then 0 else if 21 ≤ d then (if m.clockOn then 0 else 2) else m.state.code

/-- ISL_STAT_d. While the device is in reset it has its reset value, with XING_DOWN 0 (Table 2.6); from the release on XING_DOWN reads 1
until the crossing is up (R47, R48; log 23). FREQ_MHZ of an island that has left RUN shows its last measurement: the spec does not say what
it shows then (log 49). -/
def islStat (s : State) (d : Nat) : Word :=
  let m := s.dom d
  fields [(m.code.toNat, 0), (b2n m.locked, 6), (b2n m.lockLost, 7), (islState s d, 8), (b2n m.atFloor, 10),
    (b2n (decide (d ≠ 2) && !s.boot.inReset && !(s.xing d).up), 11), (b2n m.autoGated, 12), (m.freqMhz.toNat, 16)]

def clkPolicy (s : State) : Word := fields [(s.clk.capMw.toNat, 0), (b2n s.clk.policyEn, 16)]

def clkStatus (s : State) : Word :=
  let k := s.clk
  fields [(b2n k.capUnmet, 0), (b2n k.capSeen, 1), (b2n k.thermal, 2), (b2n k.cfgRefused, 3), (b2n k.calDefaults, 4),
    (b2n k.floorUnmet, 5), (b2n k.refUnlock, 6), (k.estMw.toNat, 16)]

/-- Items and events in flight in the direction that XING_SEL names (R46, Table 2.9). -/
def xingInFlight (s : State) : Nat × Nat :=
  let x := fld s.clk.xingSel 4 0
  let d := !bit s.clk.xingSel 5
  (itemsInFlight s x d, ((s.xing x).dir d).counts.2)

/-! ## The Miller (Tables 11.3 and 11.4) -/

def acctCtl (q : Acct) : Word := fields [(b2n q.adapt, 0), (b2n q.lend, 1), (q.borrowW.toNat, 4), (q.warnPct.toNat, 8)]
def acctLimits (q : Acct) : Word := fields [(q.floorPct.toNat, 0), (q.ceilPct.toNat, 8)]

/-- STARVED: starved turns of any resource among the last 16. -/
def starvedAny (q : Acct) : Nat := (q.history.filter fun t => t.starved.any id).length

def acctStat (q : Acct) : Word := fields [(starvedAny q, 0), (q.overrun.toNat, 8), (q.parks.toNat, 16)]
def millCtl (s : State) : Word := fields [(s.mill.turnUs.toNat, 0), (b2n s.mill.adaptEn, 14)]
def millStatus (s : State) : Word :=
  fields [(b2n (isCold s), 0), (b2n s.mill.admitRefused, 1), (s.mill.shifts.toNat, 8), (s.mill.turn.toNat, 16)]
def millBind (s : State) : Word := fields [(s.mill.bindA.toNat, 0), (s.mill.bindB.toNat, 8)]

/-- The core on the island that MILL_SEL names; D_4 has none (R268). -/
def selectedCore (s : State) : Option Nat := coreIn s.mill.sel.toNat

/-- Register +i of an account (Table 11.3). -/
def acctReg (s : State) (a i : Nat) : Word :=
  let q := s.acct a
  if i = 0 then acctCtl q
  else if i < 5 then wd (q.guar.get (i - 1))
  else if i = 5 then acctLimits q
  else if i < 10 then wd (q.eff.get (i - 6))
  else if i = 10 then (selectedCore s).elim 0 fun k => intWord (q.meter 0 k)
  else if i < 14 then intWord (q.meter (i - 10) 0)
  else if i = 14 then acctStat q
  else q.streamBytes

/-- A context's own meters (Table 11.4). -/
def ownReg (s : State) (c i : Nat) : Word :=
  let k := coreOf c
  let q := s.acct (s.ctx c).acct.toNat
  let slack := tget 0 q.coreSlack k
  if i < 4 then intWord (q.meter i k)
  else if i = 4 then
    fields [(b2n (decide (tget 0 q.coreMeters k ≤ 0) && decide (0 < slack)), 0), (b2n (isCold s), 1), (min 0xFFFF (slack / 16), 8)]
  else wd s.mill.turnPos

/-! ## Cores (Tables 3.2, 3.8, 6.3, 7.11) -/

def coreCtl (q : Core) : Word := fields [(b2n q.icEn, 0), (b2n q.dcEn, 1), (b2n q.bpEn, 2), (b2n q.fuseEn, 3)]

def ctxId (s : State) (c : Nat) : Word := fields [(ctxIx c, 0), (coreOf c, 2), (b2n (s.core (coreOf c)).det, 7)]

/-- V of a dispatch entry (Table 7.2). -/
def entryValid (e : BitVec 24) : Bool := bit e 10

/-- Bits telling which of n opcodes from `op` on have a valid entry. -/
def validOps (q : Core) (op n : Nat) : Nat :=
  (List.range n).foldl (fun m i => m + b2n (entryValid (tget 0 q.dispatch (op + i))) * 2 ^ i) 0

/-- FEAT_i of a core (Table 7.11). -/
def featReg (s : State) (k i : Nat) : Word :=
  let q := s.core k
  match i with
  | 0 => 0x0410011F
  | 1 => wd (validOps q 0xC0 32)
  | 2 => fields [(validOps q 0xE0 16, 0), (q.uimageId.toNat, 16)]
  | _ => fields [((q.micro.filter fun e => decide (0x300 ≤ e.1)).length, 0), ((q.nano.filter fun e => decide (0xC0 ≤ e.1)).length, 9),
      (b2n q.storesValid, 16)]

def serialLo : Word := Config.serial.extractLsb' 0 32
def serialHi : Word := Config.serial.extractLsb' 32 32

/-- Ports 0x800 to 0x808. -/
def featPort (s : State) (k i : Nat) : Word :=
  if i < 4 then featReg s k i
  else match i with
    | 4 => 0xB0
    | 5 => 0x1625
    | 6 => serialLo
    | 7 => serialHi
    | 8 => wd k
    | _ => 0

/-! ## The Cauldron and the Thornhedge (Tables 9.7 and 10.4) -/

/-- Bit n for accumulator n. -/
def accBits (s : State) (f : Acc → Bool) : Nat := (List.range 8).foldl (fun m n => m + b2n (f (s.acc n)) * 2 ^ n) 0

def cxStatus (s : State) : Word :=
  fields [((tagsInFlight s).length, 0), (b2n s.cx.laneRefused, 6), (accBits s fun a => a.gw, 8), (accBits s fun a => a.ovg, 16),
    (accBits s fun a => a.frozen, 24)]

def cxPend (s : State) (c : Nat) : Word :=
  fields [((s.cx.ops.filter fun o => o.c == c).length, 0), ((s.ctx c).recs.length, 8)]

def laneWord (l : Lane) : Word := fields [(l.core.toNat, 0), (b2n l.en, 8)]

def hgCtl (g : Group) : Word :=
  fields [(b2n g.en, 0), (b2n g.wood, 1), (b2n g.supv, 2), (g.wcore.toNat, 4), (g.wctx.toNat, 9), (b2n g.cfgErr, 16), (b2n g.intrude, 17)]

def hgStat (s : State) (n : Nat) : Word :=
  let g := s.group n
  fields [(b2n (hedged s g), 0), (b2n g.fired, 1), (g.fires.toNat, 8)]

/-! ## The host window table (Table 8.3) -/

/-- Word k of an entry (R194). -/
def winWord (w : Win) (k : Nat) : Word :=
  match k with
  | 0 => wd w.hbase
  | 1 => wd (w.hbase / 2 ^ 32)
  | 2 => wd w.size
  | _ => fields [(b2n w.v, 0), (b2n w.rd, 1), (b2n w.wr, 2), (b2n w.ex, 3), (b2n w.at_, 4), (b2n w.cc, 5), (b2n w.ns, 6)]

/-! ## The twin (Table 14.7) -/

def twStatus (s : State) : Word :=
  let t := s.twin
  fields [(t.st.code, 0), (b2n t.lanesUp, 3), (b2n t.detached, 4), (b2n t.hbLost, 5), (b2n t.permit, 6), (b2n t.witFe, 7),
    ((actingPrio s).toNat, 8), (t.gen.toNat, 16)]
def twLink (s : State) : Word := fields [(s.twin.replays.toNat, 0), (s.twin.crcErrs.toNat, 8), (s.twin.downs.toNat, 16)]
def twWahead (s : State) : Word := fields [(min 255 s.twin.wah.length, 0), (s.twin.maxUs.toNat, 16)]
def feOwnStat (s : State) : Word :=
  fields [(b2n s.twin.feOwn, 0), (b2n s.twin.senseA, 1), (b2n s.twin.senseB, 2), (b2n s.twin.collision, 3)]

/-! ## Identity and status (Tables 12.2 and 12.3) -/

def bootStatus (s : State) : Word :=
  let b := s.boot
  fields [(b.phase.toNat, 0), (b2n b.ready, 4), (b2n b.bootFail, 5), (b2n s.clk.calDefaults, 6), (b.slot.toNat, 8),
    (min 0xFFFF (b.elapsedUs / 1000), 16)]

def devStatus (s : State) : Word :=
  fields [(s.twin.st.role, 0), (b2n s.host.fatal, 2), (b2n s.host.resyncBusy, 3), (s.hearth.hstate.toNat, 4), (b2n s.prot.isDefault, 6),
    (b2n s.prot.mismatch, 7), (s.prot.epoch.toNat % 2 ^ 16, 16)]

def resetCauseWord (s : State) : Word := fields [(s.hearth.resetCause.toNat, 0), (s.hearth.wdtResets.toNat, 8)]

def adminCtl (s : State) : Word := fields [(b2n s.host.adminEn, 0), (s.host.tmoMs.toNat, 16)]
def adminStat (s : State) : Word :=
  let r := s.ring 0
  fields [(b2n (decide (r.st = .active)), 0), (b2n s.host.admCfgErr, 1), (b2n s.host.evLost, 2), (r.epoch.toNat, 8)]

/-! ## The Hearth, the watchdog and the utility interfaces (Tables 18.4 and 21.7) -/

def hearthStat (s : State) : Word :=
  let h := s.hearth
  fields [(b2n h.onVbat, 0), (b2n h.rtcValid, 1), (h.hstate.toNat, 2), (b2n h.switched, 4), (b2n h.early, 5), (b2n h.vbatLow, 6),
    (b2n (!h.jnlRest.isEmpty), 7), (b2n h.xtalFail, 8), (b2n h.lastSlot, 9)]
def wdtCtl (s : State) : Word := fields [(s.hearth.wdtMs.toNat, 0), (b2n s.hearth.wdtEn, 16), (b2n s.hearth.wdtWarn, 17)]

def uartCtl (u : Uart) : Word :=
  fields [(u.div.toNat, 0), (u.rx.length, 16), (b2n (decide (64 ≤ u.tx.length)), 23), (b2n u.overrun, 24), (b2n u.framing, 25)]

/-- Error-passive: an error counter above 127 (ISO 11898-1). -/
def canPassive (c : Can) : Bool := decide (127 < c.txErr) || decide (127 < c.rxErr)

def canStat (c : Can) : Word :=
  fields [(min 255 c.txErr, 0), (min 255 c.rxErr, 8), (b2n (canPassive c), 16), (b2n c.busOff, 17), (b2n c.rxLost, 18)]
def canCtl (c : Can) : Word := fields [(b2n c.en, 0), (b2n c.fdEn, 1), (b2n c.listen, 2), (b2n c.loop, 3)]

def feCtl (f : Fe) : Word :=
  fields [(b2n f.paReq, 0), (f.lna.toNat, 1), (b2n f.irqLevel, 3), (b2n f.irqSeen, 4), (f.frameErrs.toNat, 8)]
def feSpiCtl (f : Fe) : Word := fields [(f.spiLen.toNat, 0), (b2n f.spiBusy, 7), (f.spiDiv.toNat, 8)]

end Sys2Proof.Machine
end

