-- ==== Sys2Proof/Machine/Hearth.lean ====
section
/-! DEFINITION. The Hearth: source switch, RTC, wake and journal access (R430 to R441), the watchdog (R446), and the resets of the
device and of single islands (R428, R442 to R445). -/

namespace Sys2Proof.Machine

open Sys2Proof

/-! ## Resets -/

/-- The Hearth at a device reset: D_0 is kept, the fields of D_1 return to their reset values (R442, R444, Tables 18.4 and 18.5); an
entry being written stays torn. -/
def hearthKept (cause : Nat) (por : Bool) (h : Hearth) : Hearth :=
  { h with
    setHi := 0, setDue := false, vbatLow := false, vbatMv := 0, hjAddr := 0, jnlDue := [], jnlRest := [], hstate := 0, lastSlot := false
    wdtMs := 1000, wdtEn := false, wdtWarn := false, wdtHalf := false, wdtUs := 0
    resetCause := BitVec.ofNat 8 cause
    wdtResets := if por then 0 else if cause = 8 then satInc h.wdtResets else h.wdtResets }

/-- A core at a device reset: stores and local memories are kept unless power was lost; a frozen trail too (R182, R482, R519). -/
def coreKept (por frozen : Bool) (q : Core) : Core :=
  let r := if por then ({} : Core) else resetCoreRegs q
  { r with trail := if frozen && !por then q.trail else [] }

/-- A wait group at a device reset: only a held snapshot survives (R248). -/
def groupKept (por : Bool) (g : Group) : Group :=
  if por then {} else { fired := g.fired, fires := g.fires, snap := g.snap }

/-- The host port at a device reset: configuration space, D_21 with its MSI-X table, and the link are kept under RESET_N and the
watchdog (R442, R443, Table 18.5). -/
def hostKept (keep por : Bool) (h : HostP) : HostP :=
  let seq := if por then 0 else h.resyncSeq
  if keep then
    { linkUp := h.linkUp, busMaster := h.busMaster, extTag := h.extTag, atomicEn := h.atomicEn, mps := h.mps, mrrs := h.mrrs
      cplTimeoutUs := h.cplTimeoutUs, d3hot := h.d3hot, msixEn := h.msixEn, msixMask := h.msixMask, msix := h.msix, pba := h.pba
      resyncSeq := seq, sent := h.sent }
  else { resyncSeq := seq, sent := h.sent }

/-- The fabric at a device reset: shared SRAM and its check bits are kept, but zeroed at power-on (R188); what has been sent and the
presence of a converter clock are not the Gorgar's to reset. -/
def fabKept (por : Bool) (f : Fab) : Fab :=
  { sram := if por then [] else f.sram
    ecc := if por then [] else f.ecc
    fes := f.fes.map fun e => (e.1, { stalled := e.2.stalled, irqLevel := e.2.irqLevel, sentSamples := e.2.sentSamples, spiSent := e.2.spiSent }) }

/-- Domains at a device reset: D_21 is kept with its link, and D_23 and D_24 follow their clocks; D_2 enters reset, so every crossing goes
down (R47). -/
def clkKept (keep : Bool) (s : State) : Clk :=
  { doms := State.reset.clk.doms ++ (if keep then [(21, s.dom 21)] else []) ++
      [23, 24].map fun d => (d, { state := (s.dom d).state, clockOn := (s.dom d).clockOn, inRst := true })
    xings := [] }

/-- Protection state that lies in eFlash, OTP and the lockout record survives (R358, R359, R368). -/
def protKept (p : Prot) : Prot :=
  { store0 := p.store0, store1 := p.store1, nextStore := p.nextStore, pNum := p.pNum, pCount := p.pCount, fails := p.fails
    lockout := p.lockout, keyH := p.keyH, keyF := p.keyF, keyI := p.keyI }

/-- A device reset is asserted (R442, R443): `keep` for RESET_N and the watchdog, `por` for power-on, `cause` as RESET_CAUSE has it. -/
def deviceReset (keep por : Bool) (cause : Nat) (s : State) : State :=
  { ctxs := []
    cores := s.cores.map fun e => (e.1, coreKept por s.faults.frozen e.2)
    clk := clkKept keep s
    fab := fabKept por s.fab
    cx := {}
    thorn := { groups := s.thorn.groups.map fun e => (e.1, groupKept por e.2) }
    mill := State.reset.mill
    host := hostKept keep por s.host
    twin := { tsent := s.twin.tsent }
    prot := protKept s.prot
    pass := { air := s.pass.air }
    hearth := hearthKept cause por s.hearth
    boot :=
      { inReset := true, porPending := por || s.boot.porPending && s.boot.inReset, bringUps := s.boot.bringUps
        calPage := s.boot.calPage, calBad := s.boot.calBad, eraseCount := s.boot.eraseCount, flashed := s.boot.flashed }
    faults := if por then {} else if s.faults.frozen then s.faults else { seq := s.faults.seq }
    util :=
      { gnss := { div := 650, sentBytes := s.util.gnss.sentBytes }, svc := { sentBytes := s.util.svc.sentBytes }
        can := { sentFrames := s.util.can.sentFrames }, gpioPins := s.util.gpioPins }
    pending := s.pending
    nowUs := s.nowUs
    free := s.free
    rdata := s.rdata }

/-- A Hearth that lost both supplies: its loss latch is set, HRT_TRIM and HWAKE_EN are 0, and what the RTC, the latched HRT_HI and HWAKE_AT hold
is not stated (R433, Table 18.4). -/
def loseHearth (s : State) : State :=
  let f := s.freshWord
  let g := f.2.freshWord
  let a := g.2.freshWord
  let b := a.2.freshWord
  b.2.modHearth fun h =>
    { h with
      lossLatch := true, trim := 0, wakeEn := false, wakeLow := false, rtc := (g.1 ++ f.1).setWidth 48
      wakeAt := (b.1 ++ a.1).setWidth 48, hrtHi := b.1.extractLsb' 16 16 }

/-- POWER_ON_RESET (R428, R433, R444): at first power bit 0 names the cause, otherwise it is a brown-out. -/
def execPowerOnReset (hearthLost : Bool) (s : State) : Out :=
  .next (deviceReset false true (if hearthLost then 1 else 16) (if hearthLost then loseHearth s else s))

/-- RESET_N (R442). -/
def execResetN (s : State) : Out := .next (deviceReset true false 4 s)

/-- PERST_N (R442). -/
def execPerstN (s : State) : Out := .next (deviceReset false false 2 s)

/-- The watchdog reset (R446). -/
def watchdogReset (s : State) : State := deviceReset true false 8 s

/-- DEVICE_RESET_RELEASE (R442, R447, R448): the straps are sampled, RAND is drawn, every domain leaves reset and bring-up starts at
phase 1; in board-test mode no phase runs. -/
def execDeviceResetRelease (st : Straps) (s : State) : Out :=
  .next (if s.boot.inReset = false then s
    else
      let f := s.freshWord
      ((List.range 25).foldl (fun t d => t.modDom d fun m => { m with inRst := false }) f.2).modBoot (fun b =>
        { b with straps := st, inReset := false, phase := if st.testMode then 0 else 1, elapsedUs := 0 })
        |>.modTwin fun t => { t with rand := f.1.setWidth 16 })

/-- The job of a context is cut short by a reset (R475): it completes with ABORTED_RESET, or with its own STATUS when DONE already
reads 1. -/
def abortJob (c : Nat) (s : State) : State :=
  match (s.ctx c).job with
  | none => s
  | some j => if jobDone s j.2.2 then finishJob c j (haltRequest c s)
    else endCommand j.1 j.2.1 0x0010 0 0 (dropJob c (haltRequest c s))

/-- The job of a context runs on, or waits for a Cauldron op or a mailbox of, the island of domain d (R475). -/
def jobTouches (s : State) (d c : Nat) : Bool :=
  domOf (coreOf c) == d ||
  (d == 4 && s.cx.ops.any fun o => o.c == c) ||
  (match (s.ctx c).long with
    | some (.io p _) => decide (0x1000 ≤ p.toNat ∧ p.toNat < 0x1100) && p.toNat / 16 % 16 + 5 == d
    | _ => false)

/-- Every job that the reset of an island cuts short (R475). -/
def abortJobs (d : Nat) (s : State) : State :=
  allCtxs.foldl (fun t c => if jobTouches s d c then abortJob c t else t) s

/-- One island is reset and released (R445). -/
def resetIsland (d : Nat) (s : State) : State :=
  if d = 4 then resetCauldron (crossingDown 4 (abortJobs 4 s))
  else if 5 ≤ d ∧ d ≤ 20 then resetCore (d - 5) (crossingDown d (abortJobs d s))
  else if d = 22 then (if s.twin.lanesUp then dropLanes s else crossingDown 22 s)
  else if d = 23 ∨ d = 24 then
    (crossingDown d s).modFe (d - 23) fun f =>
      { f with rxEn := false, txEn := false, rxNotify := 0, txNotify := 0, rxWr := 0, rxRd := 0, txWr := 0, txRd := 0 }
  else s

/-- A write of ISL_RESET: bits 0 to 3 and 21 are ignored (R445). -/
def islReset (mask : Word) (s : State) : State :=
  (List.range 25).foldl (fun t d => if bit mask d && decide (d ≠ 21) then resetIsland d t else t) s

/-- ISL_RESET. -/
def execIslReset (mask : Word) (s : State) : Out := .next (islReset mask s)

/-! ## The source switch -/

/-- A Hearth event raises line 10 of S (Table 18.4). -/
def hearthEvent (s : State) : State := raiseFrom 0 16 10 s

/-- The Hearth has changed its source: SWITCHED is set and the firmware journals it (R439). -/
def switched (s : State) : State := journal 8 (hearthEvent (s.modHearth fun h => { h with switched := true }))

/-- MAIN_FALL (R430): main below 2.85 V; an entry being written is cut short. One whose SEQ was not yet written leaves its slot the older one
(R439). -/
def execMainFall (vbatMv : Nat) (s : State) : Out :=
  .next (if s.hearth.onVbat then s
    else
      let t := s.modHearth fun h => { h with jnlRest := [], jnlNext := if 1022 < h.jnlRest.length then !h.jnlNext else h.jnlNext }
      if vbatMv < 1900 then t.modHearth fun h => { h with lossLatch := true }
      else switched (t.modHearth fun h => { h with onVbat := true }))

/-- MAIN_GOOD_COUNT (R431). -/
def execMainGoodCount (s : State) : Out :=
  .next (if s.hearth.onVbat then switched (s.modHearth fun h => { h with onVbat := false }) else s)

/-- VBAT_FALL (R432). -/
def execVbatFall (mainMv : Nat) (s : State) : Out :=
  .next (if s.hearth.onVbat = false then s
    else if 2700 ≤ mainMv then switched (hearthEvent (s.modHearth fun h => { h with onVbat := false, early := true }))
    else s.modHearth fun h => { h with lossLatch := true })

/-- A measurement of VBAT (R434). -/
def measureVbat (mv : Nat) (s : State) : State :=
  s.modHearth fun h => { h with vbatMv := BitVec.ofNat 12 mv, vbatLow := decide (mv < 2500) }

/-- VBAT_MEASURE (R434): while main is good. -/
def execVbatMeasure (mv : Nat) (s : State) : Out := .next (if s.hearth.onVbat then s else measureVbat mv s)

/-! ## The clock and the wake output -/

/-- XTAL_FAIL (R436). -/
def execXtalFail (s : State) : Out :=
  .next (hearthEvent (s.modHearth fun h => { h with rtcValid := false, xtalFail := true, xtalStopped := true }))

/-- CRYSTAL_RESTART (R436): ht are counted from the crystal again; the RTC stays invalid. -/
def execCrystalRestart (s : State) : Out := .next (s.modHearth fun h => { h with xtalStopped := false })

/-- HEARTH_WAKE (R437). -/
def execHearthWake (s : State) : Out :=
  .next (if s.hearth.wakeEn && decide (s.hearth.rtc = s.hearth.wakeAt) then s.modHearth fun h => { h with wakeLow := true } else s)

/-- HEARTH_WAKE_RELEASE (R437): main has been good for 1 s. -/
def execHearthWakeRelease (s : State) : Out :=
  .next (if s.hearth.onVbat then s else s.modHearth fun h => { h with wakeLow := false })

/-- HWAKE_CLR (R437). -/
def execHwakeClr (s : State) : Out := .next (s.modHearth fun h => { h with wakeLow := false })

/-- A write of HRT_SET_LO (R441): the value loads at the next tick of the RTC. -/
def setRtc (w : Word) (s : State) : State := s.modHearth fun h => { h with setDue := true, setLo := w }

/-- HRT_SET. -/
def execHrtSet (w : Word) (s : State) : Out := .next (setRtc w s)

/-- A read of HRT_LO latches HRT_HI (R441). -/
def readRtc (s : State) : State × Word :=
  (s.modHearth fun h => { h with hrtHi := h.rtc.extractLsb' 32 16 }, s.hearth.rtc.extractLsb' 0 32)

/-- HRT_LO_READ. -/
def execHrtLoRead (s : State) : Out :=
  let r := readRtc s
  .next (r.1.withRdata r.2)

/-- One ht of the RTC (R435, R441): a load takes effect, and otherwise the count advances under TRIM; while the crystal is stopped
the internal oscillator's count is not exact, so the RTC holds a free value. -/
def rtcTick (s : State) : State :=
  let h := s.hearth
  if h.setDue then
    journal 5 (s.modHearth fun q =>
      { q with setDue := false, rtc := (q.setHi ++ q.setLo), rtcValid := q.rtcValid || !q.xtalStopped, trimCnt := 0 })
  else if h.xtalStopped then
    let f := s.freshWord
    let g := f.2.freshWord
    g.2.modHearth fun q => { q with rtc := (g.1 ++ f.1).setWidth 48 }
  else
    let t := h.trim.toInt
    let n := h.trimCnt + 1
    if t ≠ 0 ∧ 10000000 / t.natAbs ≤ h.trimCnt then
      s.modHearth fun q => { q with trimCnt := if 0 < t then 0 else 1, rtc := if 0 < t then q.rtc else q.rtc + 2 }
    else s.modHearth fun q => { q with trimCnt := if t = 0 then 0 else n, rtc := q.rtc + 1 }

/-! ## The journal and its port -/

/-- An access to HJ_DATA (R441): it answers only while the Hearth runs from main, and HJ_ADDR advances. -/
def journalPort (w : Option Word) (s : State) : State × Word :=
  let a := 4 * s.hearth.hjAddr.toNat
  let v := if s.hearth.onVbat then 0 else readWord s.hearth.journal a
  (s.modHearth fun h =>
    { h with
      hjAddr := h.hjAddr + 1
      journal := match w with
        | some x => if h.onVbat then h.journal else writeWord h.journal a x
        | none => h.journal }, v)

/-- HJ_DATA_ACCESS: a write of a word, or a read. -/
def execHjDataAccess (w : Option Word) (s : State) : Out :=
  let r := journalPort w s
  .next (if w.isSome then r.1 else r.1.withRdata r.2)

/-- JOURNAL_HOURLY_ENTRY (R439, REASON 6): while a pass is open. -/
def execJournalHourlyEntry (s : State) : Out := .next (if s.pass.isOpen then journal 6 s else s)

/-! ## The watchdog -/

/-- A write of WDT_KICK (R446). -/
def kickWatchdog (key : Word) (s : State) : State :=
  if s.hearth.wdtEn = false then s
  else if key = 0x5E7A then s.modHearth fun h => { h with wdtUs := 0, wdtHalf := false }
  else watchdogReset s

/-- WDT_KICK. -/
def execWdtKick (key : Word) (s : State) : Out := .next (kickWatchdog key s)

/-- WDT_WARN (R446): half of TIMEOUT_MS has passed since the last restart of the count; it comes once for each restart. -/
def execWdtWarn (s : State) : Out :=
  .next (if s.hearth.wdtEn ∧ 500 * s.hearth.wdtMs.toNat ≤ s.hearth.wdtUs ∧ s.hearth.wdtHalf = false then
      hearthEvent (s.modHearth fun h => { h with wdtWarn := true, wdtHalf := true })
    else s)

/-- WDT_TIMEOUT (R446): TIMEOUT_MS have passed since the last restart of the count. -/
def execWdtTimeout (s : State) : Out :=
  .next (if s.hearth.wdtEn ∧ 1000 * s.hearth.wdtMs.toNat ≤ s.hearth.wdtUs then watchdogReset s else s)

end Sys2Proof.Machine
end

