-- ==== Sys2Proof/Machine/Utility.lean ====
section
/-! DEFINITION. The utility interfaces (R493 to R498, R502 to R504), the PCIe link and configuration space as the host writes them
(R24, R199, R204, R271, R272, R278), and the Breadcrumbs ports (R481, R482, R520). -/

namespace Sys2Proof.Machine

open Sys2Proof

/-! ## UARTs -/

/-- A UART: UART_GNSS for 0, UART_SVC otherwise. -/
def State.uart (s : State) (u : Nat) : Uart := if u = 0 then s.util.gnss else s.util.svc
def State.setUart (s : State) (u : Nat) (v : Uart) : State :=
  s.modUtil fun k => if u = 0 then { k with gnss := v } else { k with svc := v }

/-- The line of a UART (R504). -/
def uartEvent (u : Nat) (s : State) : State := raiseFrom 1 16 (if u = 0 then 12 else 11) s

/-- UART_RX_BYTE (R495, R504): none is received while a device reset is held. -/
def execUartRxByte (u : Nat) (b : Byte) (stop : Bool) (s : State) : Out :=
  let q := s.uart u
  .next (if s.boot.inReset then s
    else if stop = false then uartEvent u (s.setUart u { q with framing := true })
    else if 64 ≤ q.rx.length then uartEvent u (s.setUart u { q with overrun := true })
    else
      let t := s.setUart u { q with rx := q.rx ++ [b] }
      if q.rx = [] then uartEvent u t else t)

/-- A read of GNSS_RX or SVC_RX removes the oldest byte. -/
def readUart (u : Nat) (s : State) : State × Word :=
  let q := s.uart u
  match q.rx with
  | [] => (s, 0)
  | b :: t => (s.setUart u { q with rx := t }, wd (b.toNat + 256))

/-- UART_RX_READ. -/
def execUartRxRead (u : Nat) (s : State) : Out :=
  let r := readUart u s
  .next (r.1.withRdata r.2)

/-- A write of GNSS_TX or SVC_TX: ignored while TXFULL reads 1. -/
def writeUart (u : Nat) (b : Byte) (s : State) : State :=
  let q := s.uart u
  if 64 ≤ q.tx.length then s else s.setUart u { q with tx := q.tx ++ [b] }

/-- UART_TX_WRITE. -/
def execUartTxWrite (u : Nat) (b : Byte) (s : State) : Out := .next (writeUart u b s)

/-- UART_TX_BYTE_SENT (R495). -/
def execUartTxByteSent (u : Nat) (s : State) : Out :=
  let q := s.uart u
  .next (match q.tx with
    | [] => s
    | b :: t => s.setUart u { q with tx := t, sentBytes := q.sentBytes ++ [b] })

/-! ## CAN -/

def State.modCan (s : State) (f : Can → Can) : State := s.modUtil fun k => { k with can := f k.can }

/-- A bit of CAN_IRQ is set: line 13 when it is enabled (R504). -/
def canIrq (i : Nat) (s : State) : State :=
  let t := s.modCan fun c => { c with irq := putBit c.irq i true }
  if bit s.util.can.irqEn i then raiseFrom 1 16 13 t else t

/-- GO: ignored while BUSY; the controller sends only while it is enabled and not listen-only. -/
def canGo (s : State) : State :=
  let c := s.util.can
  if c.busy ∨ c.en = false ∨ c.listen then s else s.modCan fun c => { c with busy := true }

/-- CAN_TX_GO. -/
def execCanTxGo (s : State) : Out := .next (canGo s)

/-- ABORT: `won` says that the frame has won arbitration. -/
def canAbort (won : Bool) (s : State) : State := if won then s else s.modCan fun c => { c with busy := false }

/-- CAN_TX_ABORT. -/
def execCanTxAbort (won : Bool) (s : State) : Out := .next (canAbort won s)

/-- The frame in the transmit registers. -/
def canTxFrame (c : Can) : CanFrame := ⟨c.txHdr, c.txDlc, (List.range 16).map fun i => tget 0 c.txData i⟩

/-- A frame enters the receive FIFO of eight, or is dropped (R497). -/
def canStore (fr : CanFrame) (s : State) : State :=
  if 8 ≤ s.util.can.rx.length then s.modCan fun c => { c with rxLost := true }
  else canIrq 1 (s.modCan fun c => { c with rx := c.rx ++ [fr] })

/-- CAN_TX_DONE (ISO 11898-1: TEC falls by one); in loopback the frame is received as well. -/
def execCanTxDone (s : State) : Out :=
  let c := s.util.can
  .next (if c.busy = false then s
    else
      let t := canIrq 0 (s.modCan fun c => { c with
        busy := false, txErr := c.txErr - 1, sentFrames := if c.loop then c.sentFrames else c.sentFrames ++ [canTxFrame c] })
      if c.loop then canStore (canTxFrame c) t else t)

/-- CAN_RX_FRAME (R497): a CAN FD frame is accepted only while FD_EN is 1; REC falls by one (ISO 11898-1), and from above 127 to a
value from 119 to 127. -/
def execCanRxFrame (fr : CanFrame) (s : State) : Out :=
  let c := s.util.can
  .next (if c.en = false ∨ c.busOff ∨ (bit fr.hdr 30 && !c.fdEn) then s
    else if 127 < c.rxErr then canStore fr ((s.modCan fun c => { c with rxErr := 119 + Config.draw s.free % 9 }).freshWord).2
    else canStore fr (s.modCan fun c => { c with rxErr := c.rxErr - 1 }))

/-- POP. -/
def canPop (s : State) : State := s.modCan fun c => { c with rx := c.rx.tail }

/-- CAN_RX_POP. -/
def execCanRxPop (s : State) : Out := .next (canPop s)

/-- CAN_BUS_ERROR (R497): TEC or REC rises by n; at 256 the controller is bus-off. -/
def execCanBusError (tx : Bool) (n : Nat) (s : State) : Out :=
  let c := s.util.can
  .next (if c.en = false ∨ c.busOff then s
    else
      let t := canIrq 2 (s.modCan fun c => if tx then { c with txErr := c.txErr + n } else { c with rxErr := min 255 (c.rxErr + n) })
      if 256 ≤ t.util.can.txErr then canIrq 3 (t.modCan fun c => { c with busOff := true }) else t)

/-- CAN_BUS_OFF_RECOVER (R497). -/
def execCanBusOffRecover (s : State) : Out :=
  .next (if s.util.can.busOff && s.util.can.en then s.modCan fun c => { c with busOff := false, txErr := 0, rxErr := 0 } else s)

/-! ## GPIO -/

/-- The levels that GPIO_IN reads: an output's own level, or the ball's (R498). -/
def gpioLevels (u : Util) : BitVec 16 := (u.gpioDir &&& u.gpioOut) ||| (~~~u.gpioDir &&& u.gpioPins)

/-- The levels change: enabled edges set PEND, and line 14 is raised (R498, R504). -/
def gpioChange (f : Util → Util) (s : State) : State :=
  let t := s.modUtil f
  let old := gpioLevels s.util
  let new := gpioLevels t.util
  let e := (~~~old &&& new &&& s.util.rise) ||| (old &&& ~~~new &&& s.util.fall)
  if e = 0 then t else raiseFrom 1 16 14 (t.modUtil fun u => { u with gpioPend := u.gpioPend ||| e })

/-- GPIO_EDGE (R498): the ball of an input takes a new level. -/
def execGpioEdge (i : Nat) (level : Bool) (s : State) : Out := .next (gpioChange (fun u => { u with gpioPins := putBit u.gpioPins i level }) s)

/-! ## Front-end control balls -/

/-- FE_x_OWN and FE_x_PA_EN (R347, R486, R493, R502): low while a device reset is held; in board-test mode they follow their boundary-scan cells. -/
def ownBall (s : State) (p : Nat) : Bool :=
  !s.boot.inReset && (if s.boot.straps.testMode then s.util.tap.cells.getD (Config.ballCell p) false else s.twin.feOwn)
def paEn (s : State) (p : Nat) : Bool :=
  !s.boot.inReset && (if s.boot.straps.testMode then s.util.tap.cells.getD (Config.ballCell (2 + p)) false
    else (s.fe p).paReq && s.twin.feOwn && (s.fe p).txEn)

/-- What the TX lanes of a port carry (R491): nothing while RX_CLK is absent, the idle sample while the TX stream does not advance (R214), else the
sample sent last. -/
def txLanes (s : State) (p : Nat) : Option Word :=
  if (s.fe p).stalled then none
  else if (s.fe p).txEn && s.twin.feOwn then some ((s.fe p).sentSamples.getLastD 0)
  else some 0

/-- FE_IRQ_EDGE (R493): the ball takes a new level; a rising edge sets IRQ_SEEN, but not while a device reset is held. -/
def execFeIrqEdge (p : Nat) (s : State) (level : Bool := true) : Out :=
  .next (s.modFe p fun f => { f with irqLevel := level, irqSeen := f.irqSeen || (level && !f.irqLevel && !s.boot.inReset) })

/-- GO of FE_SPI_CTL. -/
def spiGo (p : Nat) (s : State) : State := s.modFe p fun f => { f with spiBusy := true }

/-- FE_SPI_GO. -/
def execFeSpiGo (p : Nat) (s : State) : Out := .next (spiGo p s)

/-- FE_SPI_DONE (R493): DATA[LEN-1:0] has been sent, most significant bit first, and LEN received bits have been shifted into DATA. -/
def execFeSpiDone (p : Nat) (w : Word) (s : State) : Out :=
  let n := (s.fe p).spiLen.toNat
  .next (if (s.fe p).spiBusy then
    s.modFe p fun f => { f with
      spiBusy := false, spiData := (f.spiData <<< n) ||| wd (w.toNat % 2 ^ n), spiSent := f.spiSent ++ [(n, wd (f.spiData.toNat % 2 ^ n))] }
  else s)

/-! ## The TAP -/

/-- The next state of the IEEE 1149.1 controller at a rising edge of TCK (R502). -/
def TapState.next (t : TapState) (tms : Bool) : TapState :=
  match t with
  | .testLogicReset => if tms then .testLogicReset else .runTestIdle
  | .runTestIdle => if tms then .selectDr else .runTestIdle
  | .selectDr => if tms then .selectIr else .captureDr
  | .captureDr => if tms then .exit1Dr else .shiftDr
  | .shiftDr => if tms then .exit1Dr else .shiftDr
  | .exit1Dr => if tms then .updateDr else .pauseDr
  | .pauseDr => if tms then .exit2Dr else .pauseDr
  | .exit2Dr => if tms then .updateDr else .shiftDr
  | .updateDr => if tms then .selectDr else .runTestIdle
  | .selectIr => if tms then .testLogicReset else .captureIr
  | .captureIr => if tms then .exit1Ir else .shiftIr
  | .shiftIr => if tms then .exit1Ir else .shiftIr
  | .exit1Ir => if tms then .updateIr else .pauseIr
  | .pauseIr => if tms then .exit2Ir else .pauseIr
  | .exit2Ir => if tms then .updateIr else .shiftIr
  | .updateIr => if tms then .selectDr else .runTestIdle

/-- IDCODE (R502). -/
def idcode : Word := 0xB1625001

/-- The instruction that a code selects: all ones is BYPASS (IEEE 1149.1); the other codes are the part's own. -/
def tapInstr (ir : List Bool) : TapInstr :=
  if ir.all id then .bypass
  else match Config.tapCode ir % 4 with
    | 0 => .sample
    | 1 => .extest
    | 2 => .idcode
    | _ => .bypass

/-- What the selected data register captures: ball levels are free values. -/
def tapCapture (t : Tap) (s : State) : List Bool × State :=
  match t.instr with
  | .bypass => ([false], s)
  | .idcode => ((List.range 32).map fun i => bit idcode i, s)
  | _ => ((List.range Config.tapCells).map fun i => bit (Config.freeWord (s.free + i)) 0, { s with free := s.free + Config.tapCells })

/-- A shift: the bit nearest TDO leaves and TDI enters. -/
def tapShift (tdi : Bool) (r : List Bool) : List Bool := r.tail ++ [tdi]

/-- A rising edge: capture and shift, then the controller moves. -/
def tapRise (tms tdi : Bool) (s : State) : State :=
  let t := s.util.tap
  match t.st with
  | .captureDr =>
    let c := tapCapture t s
    c.2.modUtil fun u => { u with tap := { t with dr := c.1, st := t.st.next tms } }
  | .captureIr => s.modUtil fun u => { u with tap := { t with ir := [true, false] ++ List.replicate Config.tapIrExtra false, st := t.st.next tms } }
  | .shiftDr => s.modUtil fun u => { u with tap := { t with dr := tapShift tdi t.dr, st := t.st.next tms } }
  | .shiftIr => s.modUtil fun u => { u with tap := { t with ir := tapShift tdi t.ir, st := t.st.next tms } }
  | _ => s.modUtil fun u => { u with tap := { t with st := t.st.next tms } }

/-- A falling edge: updates, and TDO takes the next bit while shifting. -/
def tapFall (t : Tap) : Tap :=
  match t.st with
  | .testLogicReset => { t with instr := .idcode }
  | .updateIr => { t with instr := tapInstr t.ir }
  | .updateDr => if t.instr = .sample ∨ t.instr = .extest then { t with cells := t.dr } else t
  | .shiftDr => { t with tdo := t.dr.headD false }
  | .shiftIr => { t with tdo := t.ir.headD false }
  | _ => t

/-- TAP_TCK_EDGE (R502): with TEST_MODE at 0 the TAP stays in Test-Logic-Reset. -/
def execTapTckEdge (rising tms tdi : Bool) (s : State) : Out :=
  .next (if s.boot.straps.testMode = false ∨ s.boot.inReset then s
    else if rising then tapRise tms tdi s
    else s.modUtil fun u => { u with tap := tapFall u.tap })

/-! ## The PCIe link and configuration space -/

/-- PCIE_LINK_UP (R24): not in board-test mode (Table 19.1). -/
def execPcieLinkUp (s : State) : Out :=
  .next (if s.boot.straps.testMode ∨ s.boot.inReset then s
    else bridgeBack ((s.modDom 21 fun m => { m with state := .run, clockOn := true }).modHost fun h => { h with linkUp := true }))

/-- PCIE_LINK_DOWN (R24, R204): D_21 stops and its crossing goes down; outstanding requests end under R198, and those that wait for a tag at once. -/
def execPcieLinkDown (s : State) : Out :=
  .next (failWaiting (crossingDown 21
    ((s.modDom 21 fun m => { m with state := .stopped, clockOn := false }).modHost fun h => { h with linkUp := false })))

/-- A base address register of the endpoint: its size in bytes, and whether it is 64 bits wide and prefetchable. -/
structure BarInfo where
  size : Nat
  wide : Bool
  prefetch : Bool
deriving DecidableEq, Repr

/-- The capabilities of Table 12.1. -/
inductive Capability where
  | powerManagement
  | pciExpress
  | msix
  | advancedErrors
  | deviceSerial
deriving DecidableEq, Repr

/-- What configuration space shows of the endpoint (R270, Table 12.1): what the host cannot write. -/
structure Endpoint where
  vendor : Nat
  device : Nat
  revision : Nat
  baseClass : Nat
  subClass : Nat
  progIf : Nat
  subVendor : Nat
  subsystem : Nat
  headerType : Nat
  bar0 : Option BarInfo
  bar2 : Option BarInfo
  bar4 : Option BarInfo
  rom : Option BarInfo
  interruptPin : Nat
  speedsMt : List Nat
  widths : List Nat
  aspmL1 : Bool
  aspmL0s : Bool
  maxPayload : Nat
  extTags : Bool
  tenBitTags : Bool
  atomicSizes : List Nat
  atomicCompleter : Bool
  atomicRouting : Bool
  flr : Bool
  noSoftReset : Bool
  capabilities : List Capability
  serial : BitVec 64
  vectors : Nat
  msixTable : Nat
  msixPba : Nat
deriving DecidableEq, Repr

/-- Table 12.1. -/
def endpoint : Endpoint :=
  { vendor := 0x5E7A, device := 0x1625, revision := 0xB0, baseClass := 0x11, subClass := 0x80, progIf := 0, subVendor := 0x5E7A
    subsystem := 1, headerType := 0, bar0 := some ⟨65536, true, false⟩, bar2 := some ⟨16384, true, false⟩, bar4 := none, rom := none
    interruptPin := 0, speedsMt := [2500, 5000, 8000], widths := [1, 2], aspmL1 := true, aspmL0s := false, maxPayload := 256
    extTags := true, tenBitTags := false, atomicSizes := [4], atomicCompleter := false, atomicRouting := false, flr := false
    noSoftReset := true, capabilities := [.powerManagement, .pciExpress, .msix, .advancedErrors, .deviceSerial]
    serial := Config.serial, vectors := 64, msixTable := 0x8000, msixPba := 0x9000 }

/-- A completion timeout of the ranges that the Gorgar supports: the default of 50 ms, or 50 µs to 10 ms of range A and 10 ms to 250 ms of range B
(R199, Table 12.1); the bounds are those of PCI Express (log 112). -/
def cplTimeoutOk (us : Nat) : Bool := decide (50 ≤ us ∧ us ≤ 250000)

/-- PCIE_CONFIG_WRITE (R199, R204, R271, R272). -/
def execPcieConfigWrite (fieldName : CfgField) (v : Nat) (s : State) : Out :=
  let on := v % 2 == 1
  .next (match fieldName with
    | .busMaster => bridgeBack (failWaiting (s.modHost fun h => { h with busMaster := on }))
    | .extTag => s.modHost fun h => { h with extTag := on }
    | .atomicEn => s.modHost fun h => { h with atomicEn := on }
    | .maxPayload => if v ∈ [128, 256, 512, 1024, 2048, 4096] ∧ v ≤ endpoint.maxPayload then s.modHost fun h => { h with mps := v } else s
    | .maxReadReq => if v ∈ [128, 256, 512, 1024, 2048, 4096] then s.modHost fun h => { h with mrrs := v } else s
    | .cplTimeout => if cplTimeoutOk v then s.modHost fun h => { h with cplTimeoutUs := v } else s
    | .d3hot => bridgeBack (failWaiting (s.modHost fun h => { h with d3hot := on }))
    | .msixEnable => sendPended (s.modHost fun h => { h with msixEn := on })
    | .msixFuncMask => sendPended (s.modHost fun h => { h with msixMask := on }))

/-- A dword of the MSI-X table is written: entry v, dword i. -/
def writeMsix (v i : Nat) (w : Word) (s : State) : State :=
  let m := tget ({} : MsixVec) s.host.msix v
  let n : MsixVec := match i with
    | 0 => { m with addr := m.addr / 2 ^ 32 * 2 ^ 32 + w.toNat / 4 * 4 }
    | 1 => { m with addr := m.addr % 2 ^ 32 + w.toNat * 2 ^ 32 }
    | 2 => { m with data := w }
    | _ => { m with mask := bit w 0 }
  sendPended (s.modHost fun h => { h with msix := tput v n h.msix })

/-- A dword of the MSI-X table as read. -/
def readMsix (s : State) (v i : Nat) : Word :=
  let m := tget ({} : MsixVec) s.host.msix v
  match i with
  | 0 => wd m.addr
  | 1 => wd (m.addr / 2 ^ 32)
  | 2 => m.data
  | _ => wd (b2n m.mask)

/-! ## The Breadcrumbs ports -/

/-- The array that BC_SEL selects for a core: its own trail on a work core (R481). -/
def bcArray (s : State) (k : Nat) : Nat := if k = 16 then (s.core 16).bcSel.toNat else k

/-- Word w of array a (R520): every word of a bad entry reads as ones. -/
def bcWord (s : State) (a w : Nat) : Word :=
  if a = 17 then
    match s.faults.log[w / 8]? with
    | none => 0
    | some e => if e.bad then 0xFFFFFFFF else nthW e.ws (w % 8)
  else match (s.core a).trail[w / 2]? with
    | none => 0
    | some e => if e.bad then 0xFFFFFFFF else if w % 2 = 0 then e.w0 else e.w1

/-- A read of BC_DATA by a context: `parity` says that the entry's parity is found wrong. -/
def readBcData (c : Nat) (parity : Bool) (s : State) : State × Word :=
  let k := coreOf c
  let a := bcArray s k
  let w := (s.core k).bcIndex.toNat
  let t := if parity then markBad a [w / (if a = 17 then 8 else 2)] s else s
  (t.modCore k fun q => { q with bcIndex := q.bcIndex + 1 }, bcWord t a w)

/-- BC_DATA_READ (R481, R520). -/
def execBcDataRead (c : Nat) (parity : Bool) (s : State) : Out :=
  let r := readBcData c parity s
  .next (r.1.withRdata r.2)

/-- A write of BC_FREEZE: from S alone (R481, R482). -/
def writeBcFreeze (c : Nat) (w : Word) (s : State) : State :=
  if isS c && bit w 0 then s.modFaults fun f => { f with frozen := true } else s

/-- BC_FREEZE. -/
def execBcFreeze (c : Nat) (w : Word) (s : State) : Out := .next (writeBcFreeze c w s)

/-- BC_STAT (Table 20.7). -/
def bcStat (s : State) (k : Nat) : Word :=
  let a := bcArray s k
  fields [(b2n s.faults.frozen, 0), (s.faults.lostLog.toNat, 8),
    (if a = 17 then s.faults.log.length else (s.core a).trail.length, 16)]

end Sys2Proof.Machine
end

