-- ==== Sys2Proof/Machine/Ports.lean ====
section
/-! DEFINITION. IO-space: every port as a context reads and writes it, under the access codes of Table 0.2 (R10 to R14, R58, R62,
R76, R151 to R153, R186, R211 to R215, R218, R236, R240, R248, R268, R269, R352, R441, R481, R503). -/

namespace Sys2Proof.Machine

open Sys2Proof

/-- The IO bit of the map that grants a port, for the ports that have one (R355). -/
def ioBit (p : Nat) : Option Nat :=
  if 0x100 ≤ p ∧ p < 0x140 then some 0
  else if 0x200 ≤ p ∧ p < 0x240 then some 1
  else if 0x300 ≤ p ∧ p < 0x340 then some 2
  else if 0x400 ≤ p ∧ p < 0x500 then some 3
  else if 0x800 ≤ p ∧ p < 0x810 then some 4
  else if 0x1000 ≤ p ∧ p < 0x1800 then some 5
  else if 0x1800 ≤ p ∧ p < 0x2000 then some 6
  else none

/-- A port below 0x8000 lies in a range that the map grants to the core: 0x000 to 0x0FF always, the others by their bit, and a port of no range
never (R62, R136, R355; log 103). -/
def portGranted (r : CoreRights) (p : Nat) : Bool :=
  decide (p < 0x100) || (match ioBit p with | some i => bit r.io i | none => false)

/-- The trap that an access to a port meets (R62, R136): S before P. A write of CX_GO needs the Cauldron right (R219). -/
def portTrap (s : State) (c p : Nat) (wr : Bool) : Option TrapCA :=
  let r := s.rights (coreOf c)
  if 0x8000 ≤ p then (if isS c then none else some (0x02, p))
  else if portGranted r p = false ∨ (wr ∧ p = 0x204 ∧ r.cx = false) then some (0x08, p)
  else none

/-! ## Reads -/

/-- Ports 0x000 to 0x0FF of a context (Tables 3.2, 3.8 and 10.2). -/
def readContextPort (c p : Nat) (s : State) : State × Word :=
  let x := s.ctx c
  let k := coreOf c
  let q := s.core k
  match p with
  | 0x000 => (s, ctxId s c)
  | 0x001 => (s, wd x.acct.toNat)
  | 0x004 => (s, wd x.dspBase.toNat)
  | 0x005 => (s, wd x.dspLimit.toNat)
  | 0x006 => (s, wd x.dspPtr.toNat)
  | 0x008 => (s, wd x.rspBase.toNat)
  | 0x009 => (s, wd x.rspLimit.toNat)
  | 0x00A => (s, wd x.rspPtr.toNat)
  | 0x00C => (s, fields [(x.ds.length, 0), (x.rs.length, 8)])
  | 0x010 => (s, x.cycles)
  | 0x040 => (s, x.evPend)
  | 0x043 => (s, x.evWmask)
  | 0x044 => (s.modCtx c fun y => { y with evDup := 0 }, wd x.evDup.toNat)
  | 0x080 => (s, x.tmrLeft)
  | 0x081 => (s, fields [(b2n x.tmrArmed, 0), (x.tmrEv.toNat, 1)])
  | 0x0C0 => (s, coreCtl q)
  | 0x0C1 => (s, wd q.dcRegion.toNat)
  | 0x0C4 => (s.modCore k fun y => { y with icMiss := 0 }, q.icMiss)
  | 0x0C5 => (s.modCore k fun y => { y with dcMiss := 0 }, q.dcMiss)
  | 0x0C6 => (s.modCore k fun y => { y with bpMiss := 0 }, q.bpMiss)
  | _ => (s, 0)

/-- Registers 0 to 5 of a core's interrupt controller (Table 6.3). -/
def readIntPort (k i : Nat) (s : State) : Word :=
  let q := s.core k
  match i with
  | 0 => wd q.pend.toNat
  | 1 => wd q.en.toNat
  | 2 => q.lpri
  | 3 => q.route
  | 5 => wd q.ovr.toNat
  | _ => 0

/-- Ports 0x100 to 0x7FF of a context (Tables 6.3, 9.2, 11.4 and 20.7). -/
def readLocalPort (c p : Nat) (s : State) : State × Word :=
  let x := s.ctx c
  let k := coreOf c
  if p < 0x100 then readContextPort c p s
  else if p < 0x106 then (s, readIntPort k (p - 0x100) s)
  else if 0x300 ≤ p ∧ p ≤ 0x305 then (s, ownReg s c (p - 0x300))
  else match p with
    | 0x106 => (s.modCore k fun q => { q with svDb := 0 }, (s.core k).svDb)
    | 0x110 => (s, wd x.vecBase.toNat)
    | 0x111 => (s, fields [(x.trapCause.toNat, 0), (x.trapArg.toNat, 8)])
    | 0x112 => (s, x.trapAddr)
    | 0x113 => (s, wd x.trapPc.toNat)
    | 0x114 => (s, wd x.entryCyc.toNat)
    | 0x200 => (s, x.cxArg0)
    | 0x201 => (s, x.cxArg1)
    | 0x202 => (s, x.cxArg2)
    | 0x203 => (s, x.cxArg3)
    | 0x205 => (s, x.cxIssue)
    | 0x206 => takeRecord c s
    | 0x207 => (s, x.cxResult)
    | 0x208 => (s, cxPend s c)
    | 0x400 => (s, wd (s.core k).bcSel.toNat)
    | 0x401 => (s, wd (s.core k).bcIndex.toNat)
    | 0x402 => readBcData c false s
    | 0x403 => (s, bcStat s k)
    | _ => (s, 0)

/-- Mailbox ports (Table 8.5). -/
def readMailboxPort (c p : Nat) (s : State) : State × Word :=
  let k := (p - 0x1000) / 16
  let m := (p - 0x1000) / 4 % 4
  let b := s.mbox (4 * k + m)
  match p % 4 with
  | 1 => popMailbox c k m s
  | 2 => (s, fields [(b.ws.length, 0), (b.lost.toNat, 8)])
  | _ => (s, 0)

/-- Front-end buffer registers of a port (Table 8.6). -/
def readFePort (p i : Nat) (s : State) : State × Word :=
  let f := s.fe p
  match i with
  | 0x0 => (s, fields [(b2n f.rxEn, 0), (f.rxNotify.toNat, 16)])
  | 0x1 => (s, f.rxBase)
  | 0x2 => (s, wd f.rxLog2.toNat)
  | 0x3 => (s, wd f.rxWr.toNat)
  | 0x4 => (s, wd f.rxRd.toNat)
  | 0x5 => (s, wd f.rxThresh.toNat)
  | 0x6 => (s.modFe p fun g => { g with overrun := 0 }, fields [(f.overrun.toNat, 0), (b2n f.stalled, 16)])
  | 0x8 => (s, fields [(b2n f.txEn, 0), (b2n s.twin.feOwn, 1), (f.txNotify.toNat, 16)])
  | 0x9 => (s, f.txBase)
  | 0xA => (s, wd f.txLog2.toNat)
  | 0xB => (s, wd f.txRd.toNat)
  | 0xC => (s, wd f.txWr.toNat)
  | 0xD => (s, wd f.txThresh.toNat)
  | 0xE => (s.modFe p fun g => { g with underrun := 0 }, wd f.underrun.toNat)
  | _ => (s, 0)

/-- POSTFAIL_k (R212). -/
def readPostfail (k : Nat) (s : State) : State × Word :=
  (s.modFab fun f => { f with hostFails := tput k 0 f.hostFails, twinFails := tput k 0 f.twinFails },
    fields [((tget 0 s.fab.hostFails k).toNat, 0), ((tget 0 s.fab.twinFails k).toNat, 16)])

/-- Clock and crossing ports (Table 2.4). -/
def readClockPort (p : Nat) (s : State) : State × Word :=
  if 0x8100 ≤ p ∧ p ≤ 0x8118 then (s, islCtl s (p - 0x8100))
  else if 0x8120 ≤ p ∧ p ≤ 0x8138 then (s, islStat s (p - 0x8120))
  else if 0x8148 ≤ p ∧ p ≤ 0x814F then (s, wd (tget 0 s.clk.temps (p - 0x8148)).toNat)
  else match p with
    | 0x8140 => (s, clkPolicy s)
    | 0x8141 => (s, clkStatus s)
    | 0x8150 => (s, wd s.clk.xingSel.toNat)
    | 0x8151 => (s, wd (min 0xFFFF (xingInFlight s).1))
    | 0x8152 => (s, wd (min 0xFFFF (xingInFlight s).2))
    | 0x8153 => (s.modClk fun k => { k with itemsDisc := 0, eventsDisc := 0 },
        fields [(s.clk.itemsDisc.toNat, 0), (s.clk.eventsDisc.toNat, 16)])
    | _ => (s, 0)

/-- Tags outstanding (HB_TAGS). -/
def tagsInUse (s : State) : Nat := (s.fab.tags.filter fun e => e.2.isSome).length

/-- Fabric, bridge, Cauldron and Thornhedge ports (Tables 8.7, 9.7 and 10.4). -/
def readUnitPort (p : Nat) (s : State) : State × Word :=
  let f := s.fab
  if 0x8280 ≤ p ∧ p < 0x82C0 then
    let n := (p - 0x8280) / 8
    let g := s.group n
    match p % 8 with
    | 0 => (s, hgCtl g)
    | 1 => (s, g.mem0)
    | 2 => (s, g.mem1)
    | 3 => (s, wd g.mem2.toNat)
    | 4 => (s, g.internal)
    | 5 => (s.setGroup n { g with fires := 0 }, hgStat s n)
    | _ => (s, 0)
  else match p with
    | 0x8200 => (s.modFab fun g => { g with hbErr := 0, hbErrCnt := 0 }, fields [(f.hbErr.toNat, 0), (f.hbErrCnt.toNat, 16)])
    | 0x8202 => (s, f.hbErrAddr.extractLsb' 0 32)
    | 0x8203 => (s, f.hbErrAddr.extractLsb' 32 32)
    | 0x8204 => (s, wd (tagsInUse s))
    | 0x8210 => (s.modFab fun g => { g with tbErr := 0, tbErrCnt := 0 }, fields [(f.tbErr.toNat, 0), (f.tbErrCnt.toNat, 16)])
    | 0x8211 => (s, f.tbErrAddr)
    | 0x8214 => (s, wd f.twSbOut.toNat)
    | 0x8215 => (s, fields [(f.twSbIn.toNat, 0), (b2n f.sbStale, 16)])
    | 0x8217 => (s, wd f.twIrqPend.toNat)
    | 0x8220 => (s.modFab fun g => { g with corr := 0, uncorr := 0 }, fields [(f.corr.toNat, 0), (f.uncorr.toNat, 16)])
    | 0x8221 => (s, wd (b2n f.scrubEn))
    | 0x8240 => (s, laneWord s.cx.lane0)
    | 0x8241 => (s, laneWord s.cx.lane1)
    | 0x8242 => (s, cxStatus s)
    | 0x8243 => (s.modCx fun k => { k with removed := 0, discarded := 0 }, fields [(s.cx.removed.toNat, 0), (s.cx.discarded.toNat, 16)])
    | 0x82C0 => (s, wd s.thorn.settle.toNat)
    | 0x82C2 => (s, fields [(s.thorn.snapSel.toNat, 0), (s.thorn.snapIdx.toNat, 8)])
    | 0x82C3 => (s.modThorn fun t => { t with snapIdx := t.snapIdx + 1 }, nthW (s.group s.thorn.snapSel.toNat).snap s.thorn.snapIdx.toNat)
    | _ => (s, 0)

/-- Twin and Miller ports (Tables 14.7 and 11.3). -/
def readTwinMillPort (p : Nat) (s : State) : State × Word :=
  if 0x8800 ≤ p ∧ p < 0x8C00 then
    let a := (p - 0x8800) / 16
    let v := acctReg s a (p % 16)
    (match p % 16 with
     | 14 => s.modAcct a fun q => { q with overrun := 0, parks := 0 }
     | 15 => s.modAcct a fun q => { q with streamBytes := 0 }
     | _ => s, v)
  else match p with
    | 0x8300 => (s, twStatus s)
    | 0x8301 => (s.modTwin fun t => { t with replays := 0, crcErrs := 0, downs := 0 }, twLink s)
    | 0x8302 => (s, s.twin.peerSerial.extractLsb' 0 32)
    | 0x8303 => (s, s.twin.peerSerial.extractLsb' 32 32)
    | 0x8304 => (s.modTwin fun t => { t with maxUs := 0 }, twWahead s)
    | 0x8305 => (s, feOwnStat s)
    | 0x8C00 => (s, millCtl s)
    | 0x8C01 => (s.modMill fun m => { m with shifts := 0 }, millStatus s)
    | 0x8C02 => (s, wd s.mill.sel.toNat)
    | 0x8C03 => (s, millBind s)
    | _ => (s, if 0x8400 ≤ p ∧ p < 0x8800 then winWord (s.win ((p - 0x8400) / 4)) (p % 4) else 0)

/-- Hearth and watchdog ports (Table 18.4). -/
def readHearthPort (p : Nat) (s : State) : State × Word :=
  let h := s.hearth
  match p with
  | 0x8D00 => readRtc s
  | 0x8D01 => (s, wd h.hrtHi.toNat)
  | 0x8D04 => (s, hearthStat s)
  | 0x8D05 => (s, wd h.vbatMv.toNat)
  | 0x8D06 => (s, wd h.trim.toNat)
  | 0x8D08 => (s, wd h.hjAddr.toNat)
  | 0x8D09 => journalPort none s
  | 0x8D0C => (s, h.wakeAt.extractLsb' 0 32)
  | 0x8D0D => (s, (h.wakeAt.extractLsb' 32 16).setWidth 32)
  | 0x8D0E => (s, wd (b2n h.wakeEn))
  | 0x8D10 => (s, wdtCtl s)
  | _ => (s, 0)

/-- Utility and front-end control ports (Table 21.7). -/
def readUtilPort (p : Nat) (s : State) : State × Word :=
  let u := s.util
  let c := u.can
  let fr := c.rx.head?
  if 0x8E30 ≤ p ∧ p ≤ 0x8E3F then (s, tget 0 c.txData (p - 0x8E30))
  else if 0x8E40 ≤ p ∧ p ≤ 0x8E4F then (s, (fr.map fun f => nthW f.data (p - 0x8E40)).getD 0)
  else match p with
    | 0x8E00 => readUart 0 s
    | 0x8E04 => readUart 1 s
    | 0x8E02 => (s, uartCtl u.gnss)
    | 0x8E06 => (s, uartCtl u.svc)
    | 0x8E08 => (s, u.ppsTime)
    | 0x8E09 => (s.modUtil fun v => { v with edges := 0 }, fields [(u.edges.toNat, 0), (b2n u.present, 16)])
    | 0x8E0A => (s, u.d1Now)
    | 0x8E10 => (s, wd u.gpioDir.toNat)
    | 0x8E11 => (s, wd u.gpioOut.toNat)
    | 0x8E12 => (s, wd (gpioLevels u).toNat)
    | 0x8E13 => (s, fields [(u.rise.toNat, 0), (u.fall.toNat, 16)])
    | 0x8E14 => (s, wd u.gpioPend.toNat)
    | 0x8E20 => (s, canCtl c)
    | 0x8E21 => (s, c.nbt)
    | 0x8E22 => (s, c.dbt)
    | 0x8E24 => (s, c.txHdr)
    | 0x8E25 => (s, fields [(c.txDlc.toNat, 0), (b2n c.busy, 9)])
    | 0x8E26 => (s, (fr.map fun f => f.hdr).getD 0)
    | 0x8E27 => (s, fields [((fr.map fun f => f.dlc.toNat).getD 0, 0), (c.rx.length, 8)])
    | 0x8E28 => (s, canStat c)
    | 0x8E29 => (s, fields [(c.irq.toNat, 0), (c.irqEn.toNat, 8)])
    | 0x8E60 => (s.modFe 0 fun f => { f with frameErrs := 0 }, feCtl (s.fe 0))
    | 0x8E61 => (s.modFe 1 fun f => { f with frameErrs := 0 }, feCtl (s.fe 1))
    | 0x8E62 => (s, feSpiCtl (s.fe 0))
    | 0x8E64 => (s, feSpiCtl (s.fe 1))
    | 0x8E63 => (s, (s.fe 0).spiData)
    | 0x8E65 => (s, (s.fe 1).spiData)
    | _ => (s, 0)

/-- A read of any port by a context whose access is granted: the value and what the read changes (R10, R62). -/
def readPort (c p : Nat) (s : State) : State × Word :=
  if p < 0x800 then readLocalPort c p s
  else if p < 0x810 then (s, featPort s (coreOf c) (p - 0x800))
  else if 0x1000 ≤ p ∧ p < 0x1100 then readMailboxPort c p s
  else if 0x1180 ≤ p ∧ p < 0x1190 then readPostfail (p - 0x1180) s
  else if 0x1800 ≤ p ∧ p < 0x1840 then readFePort 0 (p - 0x1800) s
  else if 0x1840 ≤ p ∧ p < 0x1880 then readFePort 1 (p - 0x1840) s
  else if 0x8100 ≤ p ∧ p < 0x8200 then readClockPort p s
  else if 0x8200 ≤ p ∧ p < 0x8300 then readUnitPort p s
  else if 0x8300 ≤ p ∧ p < 0x8D00 then readTwinMillPort p s
  else if 0x8D00 ≤ p ∧ p < 0x8E00 then readHearthPort p s
  else if 0x8E00 ≤ p ∧ p < 0x8F00 then readUtilPort p s
  else if 0x9000 ≤ p ∧ p < 0x9400 ∧ p % 0x40 < 6 then (s, readIntPort ((p - 0x9000) / 0x40) (p % 0x40) s)
  else (s, 0)

/-! ## Writes -/

/-- A spill register of a core: a word address within D-local memory (R57). -/
def spillMask (c : Nat) (w : Word) : BitVec 16 := (w.setWidth 16) &&& (if isS c then 0xFFFC else 0x7FFC)

/-- A write of the port 0x000 to 0x0FF of a context. -/
def writeContextPort (c p : Nat) (w : Word) (s : State) : State :=
  let k := coreOf c
  match p with
  | 0x004 => s.modCtx c fun x => { x with dspBase := spillMask c w }
  | 0x005 => s.modCtx c fun x => { x with dspLimit := spillMask c w }
  | 0x006 => s.modCtx c fun x => { x with dspPtr := spillMask c w }
  | 0x008 => s.modCtx c fun x => { x with rspBase := spillMask c w }
  | 0x009 => s.modCtx c fun x => { x with rspLimit := spillMask c w }
  | 0x00A => s.modCtx c fun x => { x with rspPtr := spillMask c w }
  | 0x041 => setFlags c w s
  | 0x042 => s.modCtx c fun x => { x with evPend := x.evPend &&& ~~~w }
  | 0x0C0 => s.modCore k fun q =>
      { q with icEn := bit w 0, dcEn := bit w 1, bpEn := bit w 2, fuseEn := bit w 3, pred := if bit w 4 then [] else q.pred }
  | 0x0C1 => s.modCore k fun q => { q with dcRegion := w.setWidth 16 }
  | _ => s

/-- A write of register i of core k's interrupt controller by context c (Table 6.3, R152). -/
def writeIntPort (c k i : Nat) (w : Word) (s : State) : State :=
  match i with
  | 0 => s.modCore k fun q => { q with pend := q.pend &&& ~~~(w.setWidth 16) }
  | 1 => unsettleLines k (s.modCore k fun q => { q with en := w.setWidth 16 })
  | 2 => unsettleLines k (s.modCore k fun q => { q with lpri := w })
  | 3 => unsettleLines k (s.modCore k fun q => { q with route := w })
  | 4 => if k = coreOf c then lineEvents k (w.setWidth 16) s
      else raiseMask 3 k (w.setWidth 16) s
  | 5 => s.modCore k fun q => { q with ovr := q.ovr &&& ~~~(w.setWidth 16) }
  | _ => s

/-- A write of a port 0x100 to 0x7FF of a context. -/
def writeLocalPort (c p : Nat) (w : Word) (s : State) : State :=
  let k := coreOf c
  if p < 0x100 then writeContextPort c p w s
  else if p < 0x106 then writeIntPort c k (p - 0x100) w s
  else match p with
    | 0x110 => s.modCtx c fun x => { x with vecBase := spillMask c w }
    | 0x200 => s.modCtx c fun x => { x with cxArg0 := w }
    | 0x201 => s.modCtx c fun x => { x with cxArg1 := w }
    | 0x202 => s.modCtx c fun x => { x with cxArg2 := w }
    | 0x203 => s.modCtx c fun x => { x with cxArg3 := w }
    | 0x204 => issueOp c w s
    | 0x208 => cancelTag c (fld w 4 0) s
    | 0x400 => if fld w 4 0 ≤ 17 then s.modCore k fun q => { q with bcSel := BitVec.ofNat 5 (fld w 4 0) } else s
    | 0x401 => s.modCore k fun q => { q with bcIndex := w.setWidth 13 }
    | 0x404 => writeBcFreeze c w s
    | _ => s

/-- A write of a mailbox port. -/
def writeMailboxPort (p : Nat) (w : Word) (s : State) : State :=
  let k := (p - 0x1000) / 16
  let m := (p - 0x1000) / 4 % 4
  match p % 4 with
  | 0 => pushMailbox k m w s
  | 2 =>
    let b := s.mbox (4 * k + m)
    s.setMbox (4 * k + m) { b with lost := b.lost &&& ~~~(w.extractLsb' 8 8) }
  | _ => s

/-- A write of a front-end buffer register (R213): BASE and SIZE are ignored while EN is 1. -/
def writeFePort (p i : Nat) (w : Word) (s : State) : State :=
  let log2 := fld w 4 0
  match i with
  | 0x0 => writeFeCtl p false w s
  | 0x1 => s.modFe p fun f => if f.rxEn then f else { f with rxBase := w &&& 0xFFFFFFC0 }
  | 0x2 => s.modFe p fun f => if f.rxEn || decide (log2 < 10) || decide (20 < log2) then f else { f with rxLog2 := BitVec.ofNat 5 log2 }
  | 0x4 => s.modFe p fun f => { f with rxRd := w.setWidth 20 }
  | 0x5 => s.modFe p fun f => { f with rxThresh := w.setWidth 20 }
  | 0x8 => writeFeCtl p true w s
  | 0x9 => s.modFe p fun f => if f.txEn then f else { f with txBase := w &&& 0xFFFFFFC0 }
  | 0xA => s.modFe p fun f => if f.txEn || decide (log2 < 10) || decide (20 < log2) then f else { f with txLog2 := BitVec.ofNat 5 log2 }
  | 0xC => s.modFe p fun f => { f with txWr := w.setWidth 20 }
  | 0xD => s.modFe p fun f => { f with txThresh := w.setWidth 20 }
  | _ => s

/-- A write of a clock or crossing port. -/
def writeClockPort (p : Nat) (w : Word) (s : State) : State :=
  if 0x8100 ≤ p ∧ p ≤ 0x8118 then writeIslFields (p - 0x8100) true true true true w s
  else if 0x8120 ≤ p ∧ p ≤ 0x8138 then (if bit w 7 then s.modDom (p - 0x8120) fun m => { m with lockLost := false } else s)
  else match p with
    | 0x8140 => s.modClk fun k => { k with capMw := w.setWidth 16, policyEn := bit w 16 }
    | 0x8141 => s.modClk fun k =>
        { k with
          capSeen := k.capSeen && !bit w 1, cfgRefused := k.cfgRefused && !bit w 3, floorUnmet := k.floorUnmet && !bit w 5
          refUnlock := k.refUnlock && !bit w 6 }
    | 0x8150 =>
      let x := if fld w 4 0 = 2 ∨ 24 < fld w 4 0 then fld s.clk.xingSel 4 0 else fld w 4 0
      s.modClk fun k => { k with xingSel := BitVec.ofNat 6 (x + 32 * b2n (bit w 5)) }
    | _ => s

/-- A write of a fabric, bridge, Cauldron or Thornhedge port. -/
def writeUnitPort (p : Nat) (w : Word) (s : State) : State :=
  if 0x8280 ≤ p ∧ p < 0x82C0 then
    let n := (p - 0x8280) / 8
    match p % 8 with
    | 0 => writeHgCtl n w s
    | 5 => if bit w 1 then s.modGroup n fun g => { g with fired := false } else s
    | i => if i < 5 then writeHgField n i w s else s
  else match p with
    | 0x8214 => s.modFab fun f => { f with twSbOut := w.setWidth 16 }
    | 0x8216 => raiseTwinIrq (w.setWidth 8) s
    | 0x8217 => s.modFab fun f => { f with twIrqPend := f.twIrqPend &&& ~~~(w.setWidth 8) }
    | 0x8221 => s.modFab fun f => { f with scrubEn := bit w 0 }
    | 0x8240 => writeLane 0 w s
    | 0x8241 => writeLane 1 w s
    | 0x8242 => if bit w 6 then s.modCx fun k => { k with laneRefused := false } else s
    | 0x82C0 => if 64 ≤ fld w 15 0 then s.modThorn fun t => { t with settle := w.setWidth 16 } else s
    | 0x82C2 => s.modThorn fun t => { t with snapSel := w.setWidth 3, snapIdx := w.extractLsb' 8 8 }
    | _ => s

/-- A write of a Hearth or watchdog port. -/
def writeHearthPort (p : Nat) (w : Word) (s : State) : State :=
  match p with
  | 0x8D02 => setRtc w s
  | 0x8D03 => s.modHearth fun h => { h with setHi := w.setWidth 16 }
  | 0x8D04 => s.modHearth fun h =>
      { h with switched := h.switched && !bit w 4, early := h.early && !bit w 5, xtalFail := h.xtalFail && !bit w 8 }
  | 0x8D06 => if (sgn 16 (fld w 15 0)).natAbs ≤ 3000 then s.modHearth fun h => { h with trim := w.setWidth 16 } else s
  | 0x8D08 => s.modHearth fun h => { h with hjAddr := w.setWidth 11 }
  | 0x8D09 => (journalPort (some w) s).1
  | 0x8D0C => s.modHearth fun h => { h with wakeAt := h.wakeAt.extractLsb' 32 16 ++ w }
  | 0x8D0D => s.modHearth fun h => { h with wakeAt := w.extractLsb' 0 16 ++ h.wakeAt.extractLsb' 0 32 }
  | 0x8D0E => s.modHearth fun h => { h with wakeEn := bit w 0, wakeLow := h.wakeLow && !bit w 1 }
  | 0x8D10 => s.modHearth fun h =>
      { h with wdtMs := if 10 ≤ fld w 15 0 then w.setWidth 16 else h.wdtMs, wdtWarn := h.wdtWarn && !bit w 17 }
  | 0x8D11 => kickWatchdog w s
  | 0x8D18 => islReset w s
  | _ => s

/-- CAN bit timing has no bits beyond [29:23]. -/
def canTiming (w : Word) : Word := w &&& 0x3FFFFFFF

/-- A write of a utility or front-end control port (Table 21.7). -/
def writeUtilPort (p : Nat) (w : Word) (s : State) : State :=
  if 0x8E30 ≤ p ∧ p ≤ 0x8E3F then s.modCan fun c => { c with txData := tput (p - 0x8E30) w c.txData }
  else
    let spi := fun (q : Nat) =>
      let t := s.modFe q fun f =>
        { f with
          spiLen := if f.spiBusy || decide (fld w 5 0 = 0) || decide (32 < fld w 5 0) then f.spiLen else w.setWidth 6
          spiDiv := if f.spiBusy || decide (fld w 15 8 = 0) then f.spiDiv else w.extractLsb' 8 8 }
      if bit w 6 && !(s.fe q).spiBusy then spiGo q t else t
    let fec := fun (q : Nat) => s.modFe q fun f =>
      { f with paReq := bit w 0, lna := w.extractLsb' 1 2, irqSeen := f.irqSeen && !bit w 4 }
    match p with
    | 0x8E01 => writeUart 0 (w.setWidth 8) s
    | 0x8E05 => writeUart 1 (w.setWidth 8) s
    | 0x8E02 => s.modUtil fun u =>
        { u with gnss := { u.gnss with
            div := if 3 ≤ fld w 15 0 then w.setWidth 16 else u.gnss.div
            overrun := u.gnss.overrun && !bit w 24, framing := u.gnss.framing && !bit w 25 } }
    | 0x8E06 => s.modUtil fun u =>
        { u with svc := { u.svc with overrun := u.svc.overrun && !bit w 24, framing := u.svc.framing && !bit w 25 } }
    | 0x8E10 => gpioChange (fun u => { u with gpioDir := w.setWidth 16 }) s
    | 0x8E11 => gpioChange (fun u => { u with gpioOut := w.setWidth 16 }) s
    | 0x8E13 => s.modUtil fun u => { u with rise := w.setWidth 16, fall := w.extractLsb' 16 16 }
    | 0x8E14 => s.modUtil fun u => { u with gpioPend := u.gpioPend &&& ~~~(w.setWidth 16) }
    | 0x8E20 => s.modCan fun c => { c with en := bit w 0, fdEn := bit w 1, listen := bit w 2, loop := bit w 3 }
    | 0x8E21 => s.modCan fun c => if c.en then c else { c with nbt := canTiming w }
    | 0x8E22 => s.modCan fun c => if c.en then c else { c with dbt := canTiming w }
    | 0x8E24 => s.modCan fun c => { c with txHdr := w }
    | 0x8E25 =>
      let t := s.modCan fun c => { c with txDlc := w.setWidth 4 }
      let t2 := if bit w 10 then canAbort false t else t
      if bit w 8 then canGo t2 else t2
    | 0x8E27 => if bit w 12 then canPop s else s
    | 0x8E28 => if bit w 18 then s.modCan fun c => { c with rxLost := false } else s
    | 0x8E29 => s.modCan fun c => { c with irq := c.irq &&& ~~~(w.setWidth 4), irqEn := w.extractLsb' 8 4 }
    | 0x8E60 => fec 0
    | 0x8E61 => fec 1
    | 0x8E62 => spi 0
    | 0x8E64 => spi 1
    | 0x8E63 => s.modFe 0 fun f => if f.spiBusy then f else { f with spiData := w }
    | 0x8E65 => s.modFe 1 fun f => if f.spiBusy then f else { f with spiData := w }
    | _ => s

/-- A write of any port by a context whose access is granted (R10, R13, R62). -/
def writePort (c p : Nat) (w : Word) (s : State) : State :=
  if p < 0x800 then writeLocalPort c p w s
  else if 0x1000 ≤ p ∧ p < 0x1100 then writeMailboxPort p w s
  else if 0x1800 ≤ p ∧ p < 0x1840 then writeFePort 0 (p - 0x1800) w s
  else if 0x1840 ≤ p ∧ p < 0x1880 then writeFePort 1 (p - 0x1840) w s
  else if 0x8100 ≤ p ∧ p < 0x8200 then writeClockPort p w s
  else if 0x8200 ≤ p ∧ p < 0x8300 then writeUnitPort p w s
  else if p = 0x8305 then (if bit w 3 then s.modTwin fun t => { t with collision := false } else s)
  else if 0x8800 ≤ p ∧ p < 0x8D00 then writeMiller p w s
  else if 0x8D00 ≤ p ∧ p < 0x8E00 then writeHearthPort p w s
  else if 0x8E00 ≤ p ∧ p < 0x8F00 then writeUtilPort p w s
  else if 0x9000 ≤ p ∧ p < 0x9400 then
    let n := (p - 0x9000) / 0x40
    if p % 0x40 < 6 then writeIntPort c n (p % 0x40) w s
    else if p % 0x40 = 8 then ringDoorbell n w s
    else s
  else s

end Sys2Proof.Machine
end

