-- ==== Sys2Proof/Machine/PortIO.lean ====
section
/-! DEFINITION. IN, OUT, INX and OUTX (R135, R136), the end of long instructions (R66, R76 to R78, R118 to R120, R125), and the store
buffer (R111, R115, R189). -/

namespace Sys2Proof.Machine

open Sys2Proof

/-! ## I/O instructions -/

/-- A port below 0x800 is local (R135). -/
def localPort (p : Nat) : Bool := decide (p < 0x800)

/-- A read of a local port once the instruction's cells are on chip: `pop` cells go, and the value lands 4 ic later (R63, R64). -/
def inLocal (c : Nat) (exit : Bool) (p pop : Nat) (v : View) (s : State) : State :=
  let det := (s.core (coreOf c)).det
  let s1 := (s.modCore (coreOf c) fun k => { k with dlocal := v.2.1 }).setCtx c v.1
  let r := readPort c p s1
  let x := r.1.ctx c
  let y : Ctx := if pop = 0 then { x with ds := staleTop x v.2.1 :: x.ds } else x
  finishShort c exit (lateTop det r.2 none y, (r.1.core (coreOf c)).dlocal, v.2.2) r.1

/-- An input once its cells are on chip: its traps, a local read, or LONG (R135, R136, R147). -/
def inAct (c : Nat) (exit : Bool) (p pop : Nat) (v : View) (s : State) : State :=
  match joinTrap (portTrap s c p false) (exitTrap exit v) with
  | some t => raiseTrap c t.1 t.2 s
  | none =>
    if localPort p then inLocal c exit p pop v s
    else if reachesD2 s c = false then crossingError c p s
    else enterLong c exit (.io (BitVec.ofNat 16 p) pop) v s

/-- IN port12 ( -- x ): never speculative (R72, R136). -/
def execIn (c : Nat) (port : BitVec 12) (s : State) : Out :=
  .next (issue false c (fun s =>
    match room false 1 (viewOf s c) with
    | .error t =>
      let q := firstTrap t ((portTrap s c port.toNat false).getD t)
      raiseTrap c q.1 q.2 s
    | .ok v => inAct c false port.toNat 0 v s) s)

/-- INX ( port -- x ). -/
def execInx (c : Nat) (f : BitVec 4) (s : State) : Out :=
  .next (issue false c (fun s =>
    if legalOp s c 0x70 f = false then raiseTrap c 0x01 0 s
    else match need false 1 (viewOf s c) with
      | .error t => raiseOr c (exitBit f) t s
      | .ok v => inAct c (exitBit f) (fld (v.1.ds.headD 0) 15 0) 1 v s) s)

/-- A write of CX_GO that may issue while a BZ is unresolved: CORR, MAG and PHASE (R72, R232). -/
def pureGo (p : Nat) (w : Word) : Bool := p == 0x204 && pureCode (fld w 3 0)

/-- An output once its cells are on chip: held behind a BZ unless it may issue speculatively; CX_GO also waits until the
context's stores are visible (R219); a local port is written by the next slot and a long one through the store buffer, or at once
by a deterministic core (R81, R86, R135). -/
def outVia (c p : Nat) (w : Word) (fin : State → State) (s : State) : State :=
  if (s.ctx c).snaps ≠ [] ∧ pureGo p w = false then s
  else if p = 0x204 ∧ storesVisible s c = false then s
  else if localPort p ∨ (s.core (coreOf c)).det then writePort c p w (fin s)
  else if bufferRoom s c then
    (fin s).modCore (coreOf c) fun k => { k with sbuf := k.sbuf ++ [⟨c, .port (BitVec.ofNat 16 p) w⟩] }
  else s

/-- An output instruction's act: its traps, then the output. -/
def outAct (c : Nat) (exit : Bool) (p pops : Nat) (w : Word) (v : View) (s : State) : State :=
  match joinTrap (portTrap s c p true) (exitTrap exit v) with
  | some t => raiseTrap c t.1 t.2 s
  | none => outVia c p w (finishShort c exit ({ v.1 with ds := v.1.ds.drop pops }, v.2)) s

/-- OUT port12 ( x -- ). -/
def execOut (c : Nat) (port : BitVec 12) (s : State) : Out :=
  .next (issue true c (fun s =>
    match need false 1 (viewOf s c) with
    | .error t =>
      let q := firstTrap t ((portTrap s c port.toNat true).getD t)
      raiseTrap c q.1 q.2 s
    | .ok v => outAct c false port.toNat 1 (v.1.ds.headD 0) v s) s)

/-- OUTX ( x port -- ). -/
def execOutx (c : Nat) (f : BitVec 4) (s : State) : Out :=
  .next (issue true c (fun s =>
    if legalOp s c 0x71 f = false then raiseTrap c 0x01 0 s
    else match need false 2 (viewOf s c) with
      | .error t => raiseOr c (exitBit f) t s
      | .ok v => outAct c (exitBit f) (fld (v.1.ds.headD 0) 15 0) 2 (v.1.ds.tail.headD 0) v s) s)

/-! ## Long loads, atomics and inputs end -/

/-- A bank of shared SRAM serves a context now: no other agent holds it, or the context's core is deterministic and the lock breaks
(R120, R125). -/
def bankServes (s : State) (c b : Nat) : Bool := !heldByOther s b (some c) || (s.core (coreOf c)).det

/-- A deterministic core's access breaks another's lock (R125). -/
def breakForDet (c b : Nat) (s : State) : State := if heldByOther s b (some c) then breakBank b s else s

/-- The D-cache serves a load of this address (R76, R77). -/
def dcacheServes (s : State) (c a : Nat) : Bool :=
  let q := s.core (coreOf c)
  q.dcEn && !q.det && bit q.dcRegion (bankOf a)

/-- A line of shared SRAM is read, and kept in the D-cache when every word of it is good (R77, R191, R192). -/
def fillDcache (c a : Nat) (s : State) : State :=
  let k := coreOf c
  let la := lineAddr a
  let r := readLineEcc (readerOf c) la 8 s
  if r.2 then
    let q := r.1.core k
    let ways := q.dcache.filter fun l => l.addr / 32 % 64 == la / 32 % 64
    let kept := if ways.length < 2 then q.dcache
      else q.dcache.filter fun l => some l != ways[(b2n (Config.evict r.1.free))]?
    { r.1.modCore k fun x => { x with dcache := kept ++ [⟨la, readWords r.1.fab.sram la 8⟩] } with free := r.1.free + 1 }
  else r.1

/-- What a long load leaves: its datum, and under LDTRY the flag above it (R66, R116). -/
def loadResult (pops : Nat) (two : Bool) (w : Word) (x : Ctx) : Ctx :=
  if two then { x with ds := 0xFFFFFFFF :: w :: x.ds.drop pops } else popPush pops w x

/-- A long load's datum from memory: the ECC read of its word, then the value, or the memory-error trap (R66, R113, R191, R192). -/
def loadFromBank (c : Nat) (a : Word) (size pops : Nat) (signed two fill : Bool) (u : Upset) (s : State) : State :=
  let n := a.toNat
  let r := eccRead (readerOf c) n u s
  if r.2 then
    let t := if fill then fillDcache c n r.1 else r.1
    let w := extendDatum size signed (readLE t.fab.sram n size)
    finishLong c (loadResult pops two w) t
  else trapLong c 0x0B n r.1

/-- A load of a line that the D-cache will keep waits until every store of its core to the line has left the store buffer (R78, R81). -/
def fillWaits (s : State) (c a : Nat) : Bool :=
  (s.core (coreOf c)).sbuf.any fun e => match e.op with | .mem b m _ => overlaps (lineAddr a) 32 b.toNat m | .port _ _ => false

/-- A long load ends (R66, R76, R77): from the D-cache on a hit, otherwise from its bank, once the context's own earlier stores to its bytes have
left the store buffer (R81); a parity error in the line is a miss, and is logged as correctable. -/
def endLoad (c : Nat) (a : Word) (size pops : Nat) (signed two : Bool) (u : Upset) (s : State) : State :=
  let n := a.toNat
  let k := coreOf c
  if dcacheServes s c n = true then
    match (s.core k).dcache.find? fun l => l.addr == lineAddr n with
    | some l =>
      if u = .none then finishLong c (loadResult pops two (lineDatum l.ws n size signed)) s
      else if fillWaits s c n then s
      else if bankServes s c (bankOf n) = false then s
      else loadFromBank c a size pops signed two true .none
        (logFault 0x16 0 0 c (domOf k) none 0 n (s.modCore k fun q =>
          { q with dcMiss := satInc q.dcMiss, dcache := q.dcache.filter fun m => m.addr != l.addr }))
    | none =>
      if fillWaits s c n then s
      else if bankServes s c (bankOf n) = false then s
      else loadFromBank c a size pops signed two true u (s.modCore k fun q => { q with dcMiss := satInc q.dcMiss })
  else if storeWaits s c n size then s
  else if bankServes s c (bankOf n) = false then s
  else loadFromBank c a size pops signed two false u (breakForDet c (bankOf n) s)

/-- An atomic is performed at its bank, and the old value comes back (R118, R119, R192). DESIGN CHOICE: a D-cache line of its core stays as it is (log
105). -/
def endBankAtomic (c : Nat) (a : Word) (op : Atomic) (u : Upset) (s : State) : State :=
  let n := a.toNat
  if bankServes s c (bankOf n) = false then s
  else
    let r := eccRead (readerOf c) n u (breakForDet c (bankOf n) s)
    if r.2 then
      let old := readWord r.1.fab.sram n
      finishLong c (popPush (atomicPops op) old) (sramWord n (atomicNew op old) r.1)
    else trapLong c 0x0B n r.1

/-- A padded load of a deterministic core that took longer than 24 ic is reported as DET_LATE (R86, R87, Table 20.3). -/
def noteDetLate (c : Nat) (a : Word) (late : Bool) (s : State) : State :=
  let k := coreOf c
  if late && (s.core k).det then logFault 0x0D 1 0 c (domOf k) none 0 a.toNat s else s

/-- An output of the context to this port waits in the store buffer (R81, R135). -/
def portWaits (s : State) (c : Nat) (p : BitVec 16) : Bool :=
  (s.core (coreOf c)).sbuf.any fun e => e.c == c && (match e.op with | .mem _ _ _ => false | .port q _ => q == p)

/-- The status of a supervisor-only instruction of the context waits until its target has acted (R143): a halt that is due has not. -/
def statusWaits (s : State) (c : Nat) : Bool := allCtxs.any fun d => (s.ctx d).haltFor == some c && (s.ctx d).haltDue

/-- LONG_LOAD_ARRIVAL (R66, R119, R135, R143): what the context waited for stands on top, and it returns to RUN. -/
def execLongLoadArrival (c : Nat) (u : Upset) (late : Bool) (s : State) : Out :=
  .next (if islandRuns s (domOf (coreOf c)) = false then s
    else match (s.ctx c).long with
      | some (.load a size pops signed two) =>
        let t := endLoad c a size pops signed two u s
        if (t.ctx c).long = none then noteDetLate c a late t else t
      | some (.atomic a op) => endBankAtomic c a op u s
      | some (.io p pops) =>
        if portWaits s c p then s
        else
          let r := readPort c p.toNat s
          finishLong c (popPush pops r.2) r.1
      | some (.value w pops) => if statusWaits s c then s else finishLong c (popPush pops w) s
      | _ => s)

/-! ## The store buffer -/

/-- Every store of a context to the twin window has been acknowledged. -/
def twinStoresDone (s : State) (c : Nat) : Bool :=
  (s.fab.treqs.all fun r => match r.use with | .store d _ _ _ => d != c | _ => true) &&
  (s.fab.twinHold.all fun u => match u with | .store d _ _ _ => d != c | _ => true)

/-- The oldest entry may leave: its bank serves it, and a mailbox push waits for the context's earlier stores (R120, R189, R211). -/
def mayDrain (s : State) (e : StoreEnt) : Bool :=
  match e.op with
  | .mem a _ _ => match addrClass (coreOf e.c) a.toNat with
    | .sram => bankServes s e.c (bankOf a.toNat) || !reachesD2 s e.c
    | _ => true
  | .port p _ => if 0x1000 ≤ p.toNat ∧ p.toNat < 0x1100 then twinStoresDone s e.c else true

/-- STORE_BUFFER_DRAIN (R111, R115, R135): the oldest entry of a core's store buffer leaves for its destination; `u` is what a merge
of less than a word finds. -/
def execStoreBufferDrain (core : Nat) (u : Upset) (s : State) : Out :=
  .next (match (s.core core).sbuf with
    | [] => s
    | e :: rest =>
      if mayDrain s e = false then s
      else
        let t := s.modCore core fun k => { k with sbuf := rest }
        match e.op with
        | .mem a size w =>
          performStore e.c a.toNat size w u
            (if addrClass (coreOf e.c) a.toNat = .sram ∧ reachesD2 s e.c = true then breakForDet e.c (bankOf a.toNat) t else t)
        | .port p w => if reachesD2 s e.c then writePort e.c p.toNat w t else countDiscards 1 0 t)

end Sys2Proof.Machine
end

