-- ==== Sys2Proof/Machine/Super.lean ====
section
/-! DEFINITION. The supervisor-only instructions UCWR, NCWR, MODESET and CTXCTL with their statuses (R143 to R146, R183, R184, R522,
Tables 5.9 and 5.10). -/

namespace Sys2Proof.Machine

open Sys2Proof

/-- Status codes (Table 5.10). -/
def stDone : Word := 0
def stNotQuiescent : Word := 1
def stOutstanding : Word := 2
def stNotLocked : Word := 3
def stBadTarget : Word := 4

/-- A supervisor-only instruction that pops n cells and pushes a status (R91, R143): privileged, held behind every older BZ, and its
context waits in LONG until the status stands on top. `right` is the protection trap of its operands, if any. -/
def superInstr (op n c : Nat) (f : BitVec 4) (right : List Word → State → Option TrapCA) (act : List Word → State → State × Word)
    (s : State) : State :=
  issue false c (fun s =>
    if isS c = false then raiseTrap c 0x02 0 s
    else if legalOp s c op f = false then raiseTrap c 0x01 0 s
    else match need false n (viewOf s c) with
      | .error t => raiseOr c (exitBit f) t s
      | .ok v =>
        match joinTrap (right v.1.ds s) (exitTrap (exitBit f) v) with
        | some t => raiseTrap c t.1 t.2 s
        | none =>
          let r := act v.1.ds (enterLong c (exitBit f) (.value 0 n) v s)
          r.1.modCtx c fun x => { x with long := some (.value r.2 n) }) s

/-! ## Spindle stores -/

/-- Every context of the target core is HALTED; for S itself, every one but the writer. -/
def storesQuiet (s : State) (c k : Nat) : Bool := (ctxsOf k).all fun d => d == c || decide ((s.ctx d).st = .halted)

/-- A region that may be written now (R183): a vendor region only until bring-up has left phase 7, or while S reloads a work core
whose STORES_VALID reads 0; S only until then. -/
def storeOpen (s : State) (k : Nat) (vendor : Bool) : Bool :=
  decide (s.boot.phase.toNat ≤ 7) || (decide (k ≠ 16) && (!vendor || !(s.core k).storesValid))

/-- The microcode-write right for the target core (R144, R183); a vendor region in phase 7 needs none (R355). DESIGN CHOICE: TRAP_ADDR of this P trap is
the target word, since Table 6.1 names only an address or a port (log 104). -/
def mcwTrap (target : Word) (vendor : Bool) (s : State) : Option TrapCA :=
  let k := fld target 20 16
  if k ≤ 16 ∧ (s.rights k).mcw = false ∧ (vendor = false ∨ 7 < s.boot.phase.toNat) then some (0x08, target.toNat) else none

/-- Whether a target of UCWR lies in a vendor region (Table 7.1). -/
def ucwrVendor (target : Word) : Bool :=
  if bit target 15 then decide (fld target 7 0 < 0x80 ∨ (0xF0 ≤ fld target 7 0 ∧ fld target 7 0 ≤ 0xF3)) else decide (fld target 9 0 < 0x300)

/-- An opcode whose dispatch entry lies in the user region (Table 7.1). -/
def userOpcode (op : Nat) : Bool := decide (0xC0 ≤ op ∧ op ≤ 0xEF)

/-- S reaches core k: the crossings of D_3 and of the core's island are up (R47); S itself is no other island. -/
def targetReached (s : State) (k : Nat) : Bool := k == 16 || ((s.xing 3).up && (s.xing (domOf k)).up)

/-- What a write of a microword, or of a dispatch entry when bit 15 is set, answers (R144, R183, R184). DESIGN CHOICE: BAD_TARGET goes before
NOT_QUIESCENT where both hold, and a target beyond a crossing that is down is a bad target (log 104). -/
def writeMicro (c : Nat) (w target : Word) (s : State) : State × Word :=
  let k := fld target 20 16
  let op := fld target 7 0
  let a := fld target 9 0
  if 16 < k ∨ targetReached s k = false then (s, stBadTarget)
  else if bit target 15 then
    (if (vendorOp op || userOpcode op) = false ∨ fld w 23 22 ≠ 0 ∨ storeOpen s k (vendorOp op) = false then (s, stBadTarget)
     else if storesQuiet s c k = false then (s, stNotQuiescent)
     else (s.modCore k fun q => { q with dispatch := tput op (w.setWidth 24) q.dispatch }, stDone))
  else if storeOpen s k (decide (a < 0x300)) = false then (s, stBadTarget)
  else if storesQuiet s c k = false then (s, stNotQuiescent)
  else (s.modCore k fun q => { q with micro := tput a (w.setWidth 24) q.micro }, stDone)

/-- What a write of a nanoword answers (R144, R183, R184): w0 on the lowest cell. -/
def writeNano (c : Nat) (w0 w1 w2 target : Word) (s : State) : State × Word :=
  let k := fld target 20 16
  let a := fld target 7 0
  let n : BitVec 96 := w2 ++ w1 ++ w0
  if 16 < k ∨ targetReached s k = false ∨ fld n 63 56 ≠ 0 ∨ fld n 95 80 ≠ 0 then (s, stBadTarget)
  else if storeOpen s k (decide (a < 0xC0)) = false then (s, stBadTarget)
  else if storesQuiet s c k = false then (s, stNotQuiescent)
  else (s.modCore k fun q => { q with nano := tput a n q.nano }, stDone)

/-- UCWR ( w target -- status ). -/
def ucwr (c : Nat) (f : BitVec 4) (s : State) : State :=
  superInstr 0xF0 2 c f (fun ds t => mcwTrap (ds.getD 0 0) (ucwrVendor (ds.getD 0 0)) t) (fun ds t => writeMicro c (ds.getD 1 0) (ds.getD 0 0) t) s

/-- UCWR of a microword. -/
def execUcwr (c : Nat) (f : BitVec 4) (s : State) : Out := .next (ucwr c f s)

/-- UCWR of a dispatch entry. -/
def execUcwrDispatch (c : Nat) (f : BitVec 4) (s : State) : Out := .next (ucwr c f s)

/-- NCWR ( w0 w1 w2 target -- status ). -/
def execNcwr (c : Nat) (f : BitVec 4) (s : State) : Out :=
  .next (superInstr 0xF1 4 c f (fun ds t => mcwTrap (ds.getD 0 0) (decide (fld (ds.getD 0 0) 7 0 < 0xC0)) t)
    (fun ds t => writeNano c (ds.getD 3 0) (ds.getD 2 0) (ds.getD 1 0) (ds.getD 0 0) t) s)

/-! ## Deterministic mode -/

/-- A long load, far load or Cauldron op of the core is outstanding (R85). -/
def coreOutstanding (s : State) (k : Nat) : Bool :=
  (ctxsOf k).any fun c =>
    (s.ctx c).long.isSome || fetching (s.ctx c) ||
    s.cx.ops.any fun o => o.c == c

/-- MODESET on core k (R85, R145): the first condition that fails, or DONE and the new mode with a cleared predictor. -/
def setMode (k : Nat) (enter : Bool) (s : State) : State × Word :=
  if 15 < k ∨ targetReached s k = false then (s, stBadTarget)
  else if (ctxsOf k).any (fun c => decide ((s.ctx c).st ≠ .halted ∧ (s.ctx c).st ≠ .wait)) then (s, stNotQuiescent)
  else if coreOutstanding s k then (s, stOutstanding)
  else if enter ∧ (s.dom (domOf k)).locked = false then (s, stNotLocked)
  else
    ((ctxsOf k).foldl (fun t d => t.modCtx d fun x => { x with parkDue := false })
      (s.modCore k fun q => { q with det := enter, pred := [] }), stDone)

/-- MODESET ( req -- status ). -/
def modeset (c : Nat) (f : BitVec 4) (s : State) : State :=
  superInstr 0xF2 1 c f (fun _ _ => none) (fun ds t => setMode (fld (ds.getD 0 0) 4 0) (bit (ds.getD 0 0) 8) t) s

/-- MODESET that enters. -/
def execModesetEnter (c : Nat) (f : BitVec 4) (s : State) : Out := .next (modeset c f s)

/-- MODESET that leaves. -/
def execModesetLeave (c : Nat) (f : BitVec 4) (s : State) : Out := .next (modeset c f s)

/-! ## CTXCTL -/

/-- Registers of SET_REG (R146), each under the field rules of its register. -/
def setCtxReg (d r : Nat) (w : Word) (x : Ctx) : Ctx :=
  match r with
  | 0 => { x with dspBase := spillMask d w }
  | 1 => { x with dspLimit := spillMask d w }
  | 2 => { x with dspPtr := spillMask d w }
  | 3 => { x with rspBase := spillMask d w }
  | 4 => { x with rspLimit := spillMask d w }
  | 5 => { x with rspPtr := spillMask d w }
  | 6 => { x with vecBase := spillMask d w }
  | 7 => { x with dbank := w.extractLsb' 12 20 }
  | _ => { x with ibank := w.extractLsb' 0 8 }

/-- RESUME: RUN at the kept PC (R146). -/
def resumeCtx (d : Nat) (s : State) : State := (unsettle d s).modCtx d fun x => { x with st := .run }

/-- CTXCTL's action on context d by context c (R146, R522): BAD_TARGET goes before NOT_QUIESCENT. -/
def ctxAction (c d action reg : Nat) (arg : Word) (s : State) : State × Word :=
  let quiet := decide ((s.ctx d).st = .halted)
  match action with
  | 0 => if d = c then (s, stBadTarget)
    else
      let t := haltRequest d s
      (if (t.ctx d).haltDue then t.modCtx d fun x => { x with haltFor := some c } else t, stDone)
  | 1 => if quiet then (startCtx d (arg.setWidth 24) s, stDone) else (s, stNotQuiescent)
  | 2 => if quiet then (resumeCtx d s, stDone) else (s, stNotQuiescent)
  | 3 =>
    if isS d then (s, stBadTarget)
    else if quiet = false then (s, stNotQuiescent)
    else
      let r := bindCtx d (fld arg 5 0) s
      (r.1, if r.2 then stDone else stBadTarget)
  | 4 =>
    if 8 < reg ∨ d = c then (s, stBadTarget)
    else if quiet = false then (s, stNotQuiescent)
    else (s.modCtx d (setCtxReg d reg arg), stDone)
  | _ => (s, stBadTarget)

/-- CTXCTL ( arg cmd -- status ). -/
def ctxctl (c : Nat) (f : BitVec 4) (s : State) : State :=
  superInstr 0xF3 2 c f (fun _ _ => none) (fun ds t =>
    let cmd := ds.getD 0 0
    if 16 < fld cmd 4 0 ∨ targetReached t (fld cmd 4 0) = false then (t, stBadTarget)
    else ctxAction c (4 * fld cmd 4 0 + fld cmd 6 5) (fld cmd 10 8) (fld cmd 15 12) (ds.getD 1 0) t) s

def execCtxctlHalt (c : Nat) (f : BitVec 4) (s : State) : Out := .next (ctxctl c f s)
def execCtxctlStart (c : Nat) (f : BitVec 4) (s : State) : Out := .next (ctxctl c f s)
def execCtxctlResume (c : Nat) (f : BitVec 4) (s : State) : Out := .next (ctxctl c f s)
def execCtxctlSetAcct (c : Nat) (f : BitVec 4) (s : State) : Out := .next (ctxctl c f s)
def execCtxctlSetReg (c : Nat) (f : BitVec 4) (s : State) : Out := .next (ctxctl c f s)

end Sys2Proof.Machine
end

