-- ==== Sys2Proof/Machine/Spindle.lean ====
section
/-! DEFINITION. The Spindle's microcode as user opcodes run it (R168 to R181): stores as read, the microword step on the working copy
(R170 to R176, R179), its faults and checks (R175, R177, R180, R181), where an op stops between two microwords (R54, R178), and the irreversible
actions of the last one (R174, R177). -/

namespace Sys2Proof.Machine

open Sys2Proof

/-! ## The stores -/

/-- What a store lists at an index, or its default. -/
def storeAt {α : Type} (t : Table α) (i : Nat) (d : α) : α := ((t.find? fun e => e.1 == i).map fun e => e.2).getD d

/-- The entry of an opcode (R168, R169, R182). -/
def dispatchAt (q : Core) (op : Nat) : BitVec 24 := storeAt q.dispatch op (if vendorOp op then Config.romDispatch op else 0)
def microAt (q : Core) (a : Nat) : BitVec 24 := storeAt q.micro a (if a < 0x300 then Config.romMicro a else 0)
def nanoAt (q : Core) (a : Nat) : BitVec 96 := storeAt q.nano a (if a < 0xC0 then Config.romNano a else 0)

/-! ## Fields of a microword and nanoword (Tables 7.3 to 7.6) -/

def mwSeq (m : BitVec 24) : Nat := fld m 23 21
def mwCond (m : BitVec 24) : Nat := fld m 20 18
def mwTarget (m : BitVec 24) : Nat := fld m 17 8
def mwNano (m : BitVec 24) : Nat := fld m 7 0
def nwDstk (n : BitVec 96) : Nat := fld n 3 0
def nwRstk (n : BitVec 96) : Nat := fld n 5 4
def nwAlu (n : BitVec 96) : Nat := fld n 10 6
def nwDst (n : BitVec 96) : Nat := fld n 22 19
def nwMem (n : BitVec 96) : Nat := fld n 26 23
def nwIo (n : BitVec 96) : Nat := fld n 29 27
def nwCyc (n : BitVec 96) : Nat := fld n 31 30 + 1
def nwLit (n : BitVec 96) : Nat := fld n 47 32
def nwCx (n : BitVec 96) : Nat := fld n 55 52

/-- Irreversible actions (R177). -/
def irreversible (n : BitVec 96) : Bool :=
  decide (6 ≤ nwMem n) || decide (nwIo n ≠ 0) || decide (1 ≤ nwCx n ∧ nwCx n ≤ 8)

/-- A reserved encoding of Tables 7.7 to 7.10 (R180). -/
def nanoReserved (n : BitVec 96) : Bool :=
  nwRstk n == 3 || nwAlu n == 20 || nwAlu n == 31 || decide (12 ≤ nwDstk n) || decide (10 ≤ nwDst n) || decide (9 ≤ nwCx n) ||
  (nwMem n == 15 && nwLit n % 4 == 3) || decide (fld n 79 73 ≠ 0)

/-- A microcode fault of the microword at a micro address (R177, R180, R181), `falls` when it goes on to the next address. -/
def microFault (w : UWork) (m : BitVec 24) (n : BitVec 96) (falls : Bool) : Bool :=
  let seq := mwSeq m
  let ends := seq == 5 || seq == 6
  let jumps := seq == 1 || seq == 2 || seq == 3 || seq == 7
  nanoReserved n || (irreversible n && !ends) ||
  (decide (0x300 ≤ w.upc.toNat) && ((jumps && decide (mwTarget m < 0x300)) || decide (mwNano m < 0xC0))) ||
  (seq == 3 && decide (4 ≤ w.stack.length)) || (seq == 4 && w.stack.isEmpty) || (ends && !w.stack.isEmpty) ||
  (w.upc == 0x3FF && (falls || seq == 3))

/-! ## Operands and results -/

/-- A source of A or B (Table 7.7), `x` the context behind the op's fills and spills, `hi` the bits of CSW beside C, V and IE. -/
def microSource (w : UWork) (x : Ctx) (hi : Word) (lit code : Nat) : Word :=
  let cell := fun (l : List Word) i => l.getD i (Config.freeWord w.fr)
  match code with
  | 0 => cell w.ds 0
  | 1 => cell w.ds 1
  | 2 => cell w.ds 2
  | 3 => cell w.ds 3
  | 4 => cell w.rs 0
  | 5 => w.t0
  | 6 => w.t1
  | 7 => wd lit
  | 8 => BitVec.ofInt 32 (sgn 16 lit)
  | 9 => w.ucnt.setWidth 32
  | 10 => (x.pc + 2).setWidth 32
  | 11 => wd (w.ds.length + spilledCells x.dspBase x.dspPtr)
  | 12 => wd (b2n w.cf + 2 * b2n w.vf + 4 * b2n w.ie) ||| hi
  | 13 => wd (w.dbank.toNat * 4096)
  | 14 => w.ibank.setWidth 32
  | _ => cell w.ds ((cell w.ds 0).toNat + 1)

/-- Y with the C and V of Table 4.7: none for a C that it leaves unchanged, 0 for both where it does not list the op (R171, R173). -/
def microAlu (op : Nat) (a b : Word) (cf : Bool) : Word × Option Bool × Bool :=
  let keep := fun (r : Word × Bool × Bool) => (r.1, some r.2.1, r.2.2)
  let zero := fun (r : Word) => (r, some false, false)
  match op with
  | 1 => zero b
  | 2 => keep (addFlags a b false)
  | 3 => keep (subFlags a b false)
  | 4 => keep (addFlags a b cf)
  | 5 => keep (subFlags a b cf)
  | 6 => zero (a &&& b)
  | 7 => zero (a ||| b)
  | 8 => zero (a ^^^ b)
  | 9 => zero (~~~a)
  | 10 => keep (negFlags a)
  | 11 => zero (shlWord a b)
  | 12 => zero (shrWord a b)
  | 13 => zero (sarWord a b)
  | 14 => zero (rolWord a b)
  | 15 => zero (rorWord a b)
  | 16 => ((mulFlags a b).1, none, (mulFlags a b).2)
  | 17 => zero (mulhWord a b)
  | 18 => zero (mulhuWord a b)
  | 21 => zero (eqWord a b)
  | 22 => zero (neWord a b)
  | 23 => zero (ltWord a b)
  | 24 => zero (ltuWord a b)
  | 25 => zero (minWord a b)
  | 26 => zero (maxWord a b)
  | 27 => zero (sexb a)
  | 28 => zero (sexh a)
  | 29 => zero (clzWord a)
  | 30 => zero (popcWord a)
  | _ => zero a

/-- Steps of DSTEP on T0 and T1 (R173). -/
def dsteps (b : Word) : Nat → Word × Word → Word × Word
  | 0, t => t
  | n + 1, t =>
    let x := t.1 <<< 1 ||| (if t.2.msb then 1#32 else 0#32)
    let y := t.2 <<< 1
    dsteps b n (if b.toNat ≤ x.toNat then (x - b, y ||| 1#32) else (x, y))

/-- The distance of an ALU op (Table 3.6). -/
def aluDistance (op : Nat) : Nat := if 16 ≤ op ∧ op ≤ 18 then 3 else 1

/-- The data stack after DSTK (Table 7.7); a pushed cell that NEW does not fill is stale as R64 has it. DESIGN CHOICE: an exchange, a rotation or an
insertion with fewer cells on chip than it names leaves the stack as it is, where no rule says (log 32). -/
def microDstk (code : Nat) (b : Word) (ds : List Word) : List Word :=
  let top := ds.headD 0
  match code, ds with
  | 1, _ => ds.drop 1
  | 2, _ => ds.drop 2
  | 3, _ => ds.drop 3
  | 4, _ => top :: ds
  | 5, _ => top :: ds.drop 1
  | 6, _ => top :: ds.drop 2
  | 7, _ => top :: ds.drop 3
  | 8, x :: y :: r => y :: x :: r
  | 9, x :: y :: z :: r => z :: x :: y :: r
  | 10, x :: y :: r => x :: y :: x :: r
  | 11, _ => b :: top :: ds
  | _, _ => ds

/-- The return stack after RSTK. -/
def microRstk (code : Nat) (rs : List Word) : List Word :=
  match code with
  | 1 => rs.headD 0 :: rs
  | 2 => rs.drop 1
  | _ => rs

/-- COND (Table 7.5). -/
def microCond (w : UWork) (det : Bool) (code : Nat) : Bool :=
  match code with
  | 0 => w.z
  | 1 => !w.z
  | 2 => w.n
  | 3 => !w.n
  | 4 => w.c
  | 5 => !w.c
  | 6 => w.ucnt != 0
  | _ => det

/-- The checks of TCHK that fail (R175, Table 7.10). -/
def checkFails (s : State) (c : Nat) (w : UWork) (n : BitVec 96) (b y : Word) : List TrapCA :=
  let x := s.ctx c
  let chk := fun i (p : Bool) (t : TrapCA) => if bit n (64 + i) && p then [t] else []
  chk 0 (b == 0) (0x05, 0) ++ chk 1 (decide (14 < (w.ds.headD (Config.freeWord w.fr)).toNat)) (0x01, 0) ++ chk 2 (!x.inh) (0x01, 0) ++
  chk 3 x.hold.isSome (0x01, 0) ++ chk 4 x.hold.isNone (0x01, 0) ++ chk 5 (s.core (coreOf c)).det (0x01, 0) ++
  chk 6 (badTarget y) (0x09, y.toNat) ++ chk 7 (decide (16 < fld y 11 7)) (0x01, 0) ++ chk 8 (!isS c) (0x02, 0)

/-- The load that MEM 1 to 5 makes: its size and sign. -/
def loadShape (mem : Nat) : Nat × Bool :=
  match mem with
  | 1 => (1, true)
  | 2 => (1, false)
  | 3 => (2, true)
  | 4 => (2, false)
  | _ => (4, false)

/-! ## One microword -/

/-- Where a microword leaves an op: on to the next one, held before it, at a trap, in LONG on a load, or at its end with what ends it. -/
inductive UStep where
  | go (w : UWork)
  | hold
  | trap (t : TrapCA)
  | load (w : UWork) (a size : Nat) (signed : Bool)
  | fin (w : UWork) (n : BitVec 96) (y b : Word) (ret : Bool)
deriving DecidableEq, Repr

/-- Actions that supply DST with a value of their own (R174). -/
def memReads (n : BitVec 96) : Bool := decide (9 ≤ nwMem n ∧ nwMem n ≤ 11)
def ioReads (n : BitVec 96) : Bool := nwIo n == 1 || nwIo n == 4
def cxpReads (n : BitVec 96) : Bool := decide (6 ≤ nwCx n ∧ nwCx n ≤ 8)
def actReads (n : BitVec 96) : Nat := b2n (memReads n) + b2n (ioReads n) + b2n (cxpReads n)

/-- A microword makes a load of its own (Table 7.9). -/
def microLoads (n : BitVec 96) : Bool := decide (1 ≤ nwMem n ∧ nwMem n ≤ 5)

/-- How many loads and actions supply DST. -/
def suppliers (n : BitVec 96) : Nat := b2n (microLoads n) + actReads n

/-- A microword that waits for every older BZ (R72, R178): DST = PC, DBANK, IBANK or CSW, a long load, and every irreversible action but LDTRY of
D-local memory and the write of CX_GO that issues a pure op. -/
def microHeld (k : Nat) (n : BitVec 96) (y : Word) : Bool :=
  let far := decide (addrClass k y.toNat ≠ .short)
  decide (6 ≤ nwDst n ∧ nwDst n ≤ 9) || (microLoads n && far) || (decide (6 ≤ nwMem n) && (nwMem n != 9 || far)) || nwIo n != 0 ||
  (decide (1 ≤ nwCx n ∧ nwCx n ≤ 8) && !(nwCx n == 5 && pureGo 0x204 y))

/-- The micro address after a microword that ends nothing (Table 7.4). -/
def microNext (w : UWork) (m : BitVec 24) (holds : Bool) : UWork :=
  let t := BitVec.ofNat 10 (mwTarget m)
  match mwSeq m with
  | 1 => { w with upc := t }
  | 2 => { w with upc := if holds then t else w.upc + 1, ucnt := if mwCond m = 6 ∧ holds = true then w.ucnt - 1 else w.ucnt }
  | 3 => { w with upc := t, stack := (w.upc + 1) :: w.stack }
  | 4 => { w with upc := w.stack.headD 0, stack := w.stack.tail }
  | 7 => { w with upc := t }
  | _ => { w with upc := w.upc + 1 }

/-- The stacks of a microword. -/
def microStacks (w : UWork) (n : BitVec 96) (b : Word) : UWork :=
  { w with ds := microDstk (nwDstk n) b w.ds, rs := microRstk (nwRstk n) w.rs }

/-- The data cell that NEW names: the lower pushed cell under PUSH2 (Table 7.7). -/
def newCell (n : BitVec 96) : Nat := if nwDstk n = 11 then 1 else 0

/-- The stacks and the result of a microword that issued at cycle `t`; `ld` is the distance and value of a load, and `r` the result and flags of the
ALU. One whose action supplies DST writes its flags alone, which land with the action's value (R176). -/
def microEffects (det : Bool) (t : Nat) (w : UWork) (n : BitVec 96) (b : Word) (r : Word × Option Bool × Bool) (ld : Option (Nat × Word)) : UWork :=
  let k := nwCyc n
  let w1 := microStacks w n b
  let cf := if bit n 48 then r.2.1 else none
  let vf := if bit n 49 then some r.2.2 else none
  match ld with
  | some q => UWork.put det t k q.1 (newCell n) (if suppliers n = 1 then nwDst n else 0) q.2 cf vf w1
  | none =>
    if actReads n ≠ 0 then UWork.put det t k (if ioReads n || cxpReads n then 4 else 3) (newCell n) 0 0 cf vf w1
    else UWork.put det t k (aluDistance (nwAlu n)) (newCell n) (nwDst n) r.1 cf vf w1

/-- A microword whose load waits: all of it but its value stands in the working copy (R66, R176). -/
def microWaits (w : UWork) (n : BitVec 96) (b : Word) (r : Word × Option Bool × Bool) : UWork :=
  { microStacks w n b with
    cf := if bit n 48 then r.2.1.getD w.cf else w.cf, vf := if bit n 49 then r.2.2 else w.vf, time := w.time + nwCyc n, y := r.1, b := b }

/-- How a microword whose effects stand goes on. -/
def microClose (w : UWork) (m : BitVec 24) (n : BitVec 96) (y b : Word) (holds : Bool) : UStep :=
  match mwSeq m with
  | 5 => .fin w n y b false
  | 6 => .fin w n y b true
  | _ => .go (microNext w m holds)

/-- The traps of the actions of a last microword (R174): those of the instructions that Table 7.9 names. -/
def actTraps (s : State) (c : Nat) (n : BitVec 96) (y : Word) : List TrapCA :=
  let a := y.toNat
  let mem :=
    if 6 ≤ nwMem n ∧ nwMem n ≤ 8 then accessTrap s c .store (2 ^ (nwMem n - 6)) a
    else if nwMem n = 9 then accessTrap s c .load 4 a
    else if nwMem n = 10 ∨ nwMem n = 11 then accessTrap s c .atomic 4 a
    else if nwMem n = 12 then lockTrap s c a
    else if nwMem n = 13 then unlockTrap s c
    else none
  let io :=
    if nwIo n = 1 then portTrap s c (fld y 15 0) false
    else if nwIo n = 2 then portTrap s c (fld y 15 0) true
    else if nwIo n = 3 ∧ 16 < fld y 11 7 then some (0x01, 0)
    else none
  let cx := if 1 ≤ nwCx n ∧ nwCx n ≤ 8 then portTrap s c (0x1FF + nwCx n) (decide (nwCx n ≤ 5)) else none
  mem.toList ++ io.toList ++ cx.toList

/-- The traps that a microword meets before it acts (R147, R174, R175, R177, R180, R181), with that of the return in which the op ends. -/
def microTraps (s : State) (c : Nat) (exit : Bool) (v : View) (w : UWork) (m : BitVec 24) (n : BitVec 96) (b y : Word) (holds : Bool) :
    List TrapCA :=
  let ends := mwSeq m == 5 || mwSeq m == 6
  let sh := loadShape (nwMem n)
  (if microFault w m n (mwSeq m == 0 || (mwSeq m == 2 && !holds)) then [(0x0D, w.upc.toNat)] else []) ++ checkFails s c w n b y ++
  (if microLoads n then (accessTrap s c .load sh.1 y.toNat).toList else []) ++
  (if nwDst n = 6 ∧ suppliers n = 0 ∧ badTarget y = true then [(0x09, y.toNat)] else []) ++
  (if ends then
    (if irreversible n then actTraps s c n y else []) ++
    (exitTrap (exit || mwSeq m == 6) ({ v.1 with rs := microRstk (nwRstk n) w.rs }, v.2)).toList
  else [])

/-- One microword at the working copy's micro address (R170 to R181), on the context and D-local memory `v` behind the op's fills and spills. A
microword that has waited for its datum goes on with it. -/
def microStep (s : State) (c : Nat) (exit : Bool) (v : View) (w0 : UWork) : UStep :=
  let q := s.core (coreOf c)
  let w := w0.settle
  let m := microAt q w.upc.toNat
  let n := nanoAt q (mwNano m)
  let hi := (cswOf s c) &&& 0xFFFFFFF8
  let src := microSource w v.1 hi (nwLit n)
  let a := src (fld n 14 11)
  let b := src (fld n 18 15)
  let t := dsteps b 4 (w.t0, w.t1)
  let r := if nwAlu n = 19 then (t.2, some false, false) else microAlu (nwAlu n) a b w.cf
  let y := r.1
  let w1 : UWork := { w with
    datum := none, words := w.words + 1, t0 := if nwAlu n = 19 then t.1 else w.t0, t1 := if nwAlu n = 19 then t.2 else w.t1
    z := if bit n 50 then y == 0 else w.z, n := if bit n 50 then y.msb else w.n
    c := if bit n 50 then r.2.1.getD w.c else w.c, v := if bit n 50 then r.2.2 else w.v }
  let holds := microCond w1 q.det (mwCond m)
  let sh := loadShape (nwMem n)
  let k := nwCyc n
  match w.datum with
  | some d =>
    if nwDst n = 6 ∧ badTarget d = true then .trap (0x09, d.toNat)
    else
      microClose { UWork.put true 0 0 0 (newCell n) (if suppliers n = 1 then nwDst n else 0) d none none w with datum := none } m n w.y w.b
        (microCond w q.det (mwCond m))
  | none =>
    match microTraps s c exit v w m n b y holds with
    | f :: fs => .trap (fs.foldl firstTrap f)
    | [] =>
      if (s.ctx c).snaps ≠ [] ∧ microHeld (coreOf c) n y = true then .hold
      else if microLoads n = false then
        microClose { microEffects q.det w.time w1 n b r none with time := w.time + k } m n y b holds
      else if addrClass (coreOf c) y.toNat = .short then
        let d := extendDatum sh.1 sh.2 (readLE v.2.1 y.toNat sh.1)
        if nwDst n = 6 ∧ badTarget d = true then .trap (0x09, d.toNat)
        else microClose { microEffects q.det w.time w1 n b r (some (3, d)) with time := w.time + k } m n y b holds
      else .load (microWaits w1 n b r) y.toNat sh.1 sh.2

/-- Up to n microwords, until the op is held, traps, waits or ends; with it, the working copy before the microword that stopped it. -/
def microRun (s : State) (c : Nat) (exit : Bool) (v : View) : Nat → UWork → UWork × UStep
  | 0, w => (w, .hold)
  | n + 1, w =>
    match microStep s c exit v w with
    | .go u => microRun s c exit v n u
    | r => (w, r)

/-! ## Where a user op stops -/

/-- Microwords not yet charged, and their cycles beyond one each (R176, Table 11.1). -/
def UWork.slots (w : UWork) : Nat := w.words - w.seen
def UWork.trailing (w : UWork) : Nat := (w.time - w.paid) - (w.words - w.seen)

/-- The working copy once its microwords are charged. -/
def UWork.charged (w : UWork) : UWork := { w with paid := w.time, seen := w.words }

/-- The context and core behind the op's fills and spills. -/
def intoView (c : Nat) (v : View) (s : State) : State := (s.modCore (coreOf c) fun k => { k with dlocal := v.2.1 }).setCtx c v.1

/-- The op stands before a microword (R54, R178, R179): the context keeps the working copy, the micro address and the micro-stack. With no microword
run, nothing has happened (`s0`). -/
def pauseUser (c : Nat) (op : BitVec 8) (f : BitVec 4) (v : View) (w : UWork) (s0 s : State) : State :=
  if w.slots = 0 then s0
  else account c w.slots (v.2.2 + w.trailing) (intoView c ({ v.1 with mid := some (.user op f w.charged) }, v.2) (fetchLine c s))

/-- A long or far load of a microword: the context waits in LONG, and the op goes on with its datum (R66, R67, R174); a load that must wait before it
leaves the op before the microword. -/
def userLoad (c : Nat) (op : BitVec 8) (f : BitVec 4) (w0 w : UWork) (a size : Nat) (signed : Bool) (v : View) (s0 s : State) : State :=
  let t := longLoad c false a size 0 signed (v.1, v.2.1, v.2.2 + ((w.time - w.paid) - 1)) s
  if (t.ctx c).st = .long then
    t.modCtx c fun x => { x with mid := some (.user op f w.charged), cycles := x.cycles + wd (w.slots - 1) }
  else if (t.ctx c).trap.isSome then t
  else pauseUser c op f v w0 s0 s

/-- The op ends with its working copy: it goes on at its next address or returns (R93, R179). -/
def userDone (c : Nat) (exit : Bool) (w : UWork) (more : Nat) (s : State) : State :=
  let x := s.ctx c
  let pc := w.npc.getD (x.pc + 2)
  match withExit exit .keeps (fun v => .ok v) pc (w.commit x.pc x, (s.core (coreOf c)).dlocal, more + w.trailing) with
  | .error t => raiseTrap c t.1 t.2 s
  | .ok r =>
    let t := (commit c w.slots r.1 r.2 s).modCtx c fun y => { y with fbuf := y.fbuf && !w.ibw }
    if exit then trailFlow c x.pc 4 r.2 t else t

/-! ## The actions of a last microword (Table 7.9) -/

/-- Posts of SEND and arming of TIMER. -/
def actSend (c : Nat) (y : Word) (s : State) : State :=
  let d := 4 * fld y 11 7 + fld y 6 5
  let flag := BitVec.ofNat 5 (fld y 4 0)
  if d = c then setFlag c flag.toNat s else sendEvents (domOf (coreOf c)) true (.post (some c) d flag true) 1 s

/-- An action of the last microword must wait before the op can end (R81, R82, R118, R121, R127, R128, R42, R219). -/
def actHolds (s : State) (c : Nat) (n : BitVec 96) (y : Word) : Bool :=
  let k := coreOf c
  let a := y.toNat
  let short := decide (addrClass k a = .short)
  let det := (s.core k).det
  let puts := b2n (decide (6 ≤ nwMem n ∧ nwMem n ≤ 8) && !short && !det) + b2n (nwIo n == 2 && !localPort (fld y 15 0) && !det)
  decide (4 < (s.core k).sbuf.length + puts ∧ puts ≠ 0) ||
  ((nwMem n == 10 || nwMem n == 11 || nwMem n == 13 || nwMem n == 14 || nwIo n == 3 || nwCx n == 5 ||
      (nwIo n == 2 && fld y 15 0 == 0x204)) && !storesVisible s c) ||
  (nwMem n == 9 && decide (addrClass k a ≠ .short ∧ addrClass k a ≠ .sram) && !holdsLine s c a && lineWaits s c a) ||
  (nwMem n == 15 && nwLit n % 4 == 1 && (s.core k).sbuf.any (fun e => e.c == c)) ||
  (nwIo n == 5 && queueFull s (domOf k) true)

/-- Values that an action has obtained: the value for DST with its distance, and the flag of LDTRY. -/
abbrev Got := Option (Nat × Word) × Option Word

/-- A memory action: `fin` goes on with what it has obtained, `enter` leaves the op in LONG. -/
def actMem (c : Nat) (w : UWork) (n : BitVec 96) (y b : Word) (fin : Got → State → State) (enter : LongOp → State → State) (s : State) :
    State :=
  let a := y.toNat
  let k := coreOf c
  let short := decide (addrClass k a = .short)
  let dl := (s.core k).dlocal
  match nwMem n with
  | 9 =>
    if short then fin (some (3, wd (readLE dl a 4)), some 0xFFFFFFFF) s
    else if addrClass k a = .sram then (if reachesD2 s c then enter (.load y 4 0 false true) s else crossingError c a s)
    else farTry c a (fun x fl t => fin (some (3, x), some fl) t) s
  | 12 => lockVia c a (fun bk t => fin (none, none) (t.modCtx c fun x => { x with hold := some bk })) enter s
  | 13 => unlockVia c (fun t => fin (none, none) (t.modCtx c fun x => { x with hold := none })) enter s
  | 15 =>
    (match nwLit n % 4 with
    | 0 => fin (none, none) (s.modCore k fun q => { q with dcache := q.dcache.filter fun l => l.addr != lineAddr a })
    | 1 => fin (none, none) (s.modCore k fun q => { q with dcache := [] })
    | _ => fin (none, none) ((ctxsOf k).foldl (fun t d => t.modCtx d fun x => { x with fbuf := false }) (s.modCore k fun q => { q with icache := [] })))
  | 10 | 11 =>
    let op : Atomic := if nwMem n = 10 then .fadd b else .cas w.t0 b
    if short then
      let old := wd (readLE dl a 4)
      fin (some (3, old), none) (s.modCore k fun q => { q with dlocal := writeLE q.dlocal a 4 (atomicNew op old).toNat })
    else longAtomic c a op enter s
  | 6 | 7 | 8 =>
    fin (none, none) (storeVia c a (2 ^ (nwMem n - 6)) b (viewOf s c) (fun u t => t.modCore k fun q => { q with dlocal := u.2.1 }) s)
  | _ => fin (none, none) s

/-- The I/O, thread and Cauldron actions that end at once: the state after them, and what a read has obtained. -/
def actNow (c : Nat) (n : BitVec 96) (y b : Word) (s : State) : State × Option (Nat × Word) :=
  let s1 := if 1 ≤ nwCx n ∧ nwCx n ≤ 5 then outVia c (0x1FF + nwCx n) y id s else s
  let r := if cxpReads n then readPort c (0x1FF + nwCx n) s1 else (s1, 0)
  let got := if cxpReads n then some (4, r.2) else none
  match nwIo n with
  | 1 =>
    if localPort (fld y 15 0) then
      let q := readPort c (fld y 15 0) r.1
      (q.1, some (4, q.2))
    else (r.1, got)
  | 2 => (outVia c (fld y 15 0) b id r.1, got)
  | 3 => (actSend c y r.1, got)
  | 4 =>
    let hit := (r.1.ctx c).evPend &&& y
    if hit ≠ 0 ∨ y = 0 then (r.1.modCtx c fun x => { x with evPend := x.evPend &&& ~~~hit }, some (1, hit)) else (r.1, got)
  | 5 => (sendItem (domOf (coreOf c)) true (.timerArm c b (y.extractLsb' 0 5)) r.1, got)
  | _ => (r.1, got)

/-- The wait that the I/O action enters, if it does not end at once (R135, R138). -/
def actWaits (s : State) (c : Nat) (n : BitVec 96) (y : Word) : Option UWait :=
  if nwIo n = 1 ∧ localPort (fld y 15 0) = false then some (.io (BitVec.ofNat 16 (fld y 15 0)))
  else if nwIo n = 4 ∧ y ≠ 0 ∧ (s.ctx c).evPend &&& y = 0 then some (.wait y)
  else none

/-- The value goes to DST, and the flag of LDTRY to the upper pushed cell (Table 7.7, R176); `t` and `k` are the issue and the length of the
microword. -/
def actPut (det : Bool) (t k dst : Nat) (two : Bool) (g : Got) (w : UWork) : UWork :=
  let w1 := match g.1 with
    | some q => UWork.put det t k q.1 (b2n two) dst q.2 none none w
    | none => w
  match two, g.2 with
  | true, some fl => UWork.put det t k 3 0 1 fl none none w1
  | _, _ => w1

/-- The end of a user op whose last microword acts (R174, R177): what ends at once is done, and a wait is entered. Where several actions supply DST, no
rule says which does, and a free value is written (log 32). -/
def userAct (c : Nat) (op : BitVec 8) (f : BitVec 4) (exit : Bool) (w0 w : UWork) (n : BitVec 96) (y b : Word) (v : View) (s0 s : State) : State :=
  let dst := if actReads n = 0 ∧ suppliers n < 2 then 0 else nwDst n
  let two := nwMem n == 9 && nwDstk n == 11
  let det := (s.core (coreOf c)).det
  let many := decide (2 ≤ suppliers n)
  let pops := if nwDstk n ≤ 3 then nwDstk n else 0
  if nwIo n = 7 then
    let t := chargeCore c (v.2.2 + (w.time - w.paid) - 1) (intoView c v s)
    (if 2 ^ 15 ≤ nwLit n then raiseSoft c 0x0F 0 pops t else raiseSoft c 0x0E (y.extractLsb' 0 8) pops t)
  else if actHolds s c n y then pauseUser c op f v w0 s0 s
  else
    let base := intoView c v s
    let wait := actWaits base c n y
    let now := actNow c n y b base
    let fin : UFin := { w := w, dst := dst, two := two, reads := suppliers n, got := now.2.map fun q => q.2, flag := none, next := none }
    let enter := fun (u : UFin) (q : LongOp) (t : State) =>
      (enterLong c exit q (t.ctx c, (t.core (coreOf c)).dlocal, v.2.2 + ((w.time - w.paid) - 1)) t).modCtx c fun x =>
        { x with ufin := some u, mid := none, cycles := x.cycles + wd (w.slots - 1) }
    let probe := if (match wait with | some (.io _) => !reachesD2 s c | _ => false) then crossingError c (fld y 15 0) base
      else actMem c w n y b (fun _ t => t) (fun _ t => t) base
    if (probe.ctx c).trap.isSome then
      (probe.modCore (coreOf c) fun q => { q with dlocal := (s.core (coreOf c)).dlocal }).setCtx c
        { s.ctx c with trap := (probe.ctx c).trap, mid := none, entered := false, line := (probe.ctx c).line }
    else actMem c w n y b
      (fun g t =>
        let got : Option (Nat × Word) := if g.1.isSome then g.1 else now.2
        match wait with
        | some (.io p) => enter { fin with got := got.map fun q => q.2, flag := g.2 } (.io p 0) t
        | some (.wait m) =>
          (enter { fin with got := got.map fun q => q.2, flag := g.2 } .unlock t).modCtx c fun x => { x with st := .wait, long := none, evWmask := m }
        | none =>
          let val := if many then some (0, Config.freeWord t.free) else got
          let u := if many then { t with free := t.free + 1 } else t
          if dst = 6 ∧ (val.any fun q => badTarget q.2) = true then raiseTrap c 0x09 (val.elim 0 fun q => q.2.toNat) s
          else userDone c exit (actPut det (w.time - nwCyc n) (nwCyc n) dst two (val, g.2) w) v.2.2 u)
      (enter { fin with next := wait }) now.1

/-- The first microword's working copy (R171, R179): UCOND and UCNT are 0, T0 and T1 what the context's last op left in them. -/
def userStart (x : Ctx) (uaddr fr : Nat) : UWork :=
  { ds := x.ds, rs := x.rs, cf := x.cf, vf := x.vf, ie := x.ie, dbank := x.dbank, ibank := x.ibank, t0 := x.t0, t1 := x.t1, ucnt := 0
    z := false, n := false, c := false, v := false, stack := [], upc := BitVec.ofNat 10 uaddr, time := 0, paid := 0, words := 0, seen := 0
    datum := none, y := 0, b := 0, lands := [], npc := none, ibw := false, fr := fr }

/-- Microwords that one step of a user op runs at most, where it names no number. -/
def microLimit : Nat := 65536

/-- Cycles beyond one of the microword in which an op traps (R252). -/
def trapCycles (s : State) (c : Nat) (w : UWork) : Nat :=
  let q := s.core (coreOf c)
  nwCyc (nanoAt q (mwNano (microAt q w.upc.toNat))) - 1

/-- A user op runs from a working copy: `v` is the context behind its fills and spills, `s0` the state in which nothing has happened. -/
def userGo (c : Nat) (op : BitVec 8) (f : BitVec 4) (stop : Nat) (w : UWork) (v : View) (s0 s : State) : State :=
  let exit := exitBit f
  let r := microRun s c exit v (if stop = 0 then microLimit else stop) w
  match r.2 with
  | .go _ => s0
  | .hold => pauseUser c op f v r.1 s0 s
  | .trap t => raiseAccess c t (chargeCore c ((r.1.time - r.1.paid) + trapCycles s c r.1) s0)
  | .load u a size signed => userLoad c op f r.1 u a size signed v s0 s
  | .fin u n y b ret =>
    if irreversible n then userAct c op f (exit || ret) r.1 u n y b v s0 s else userDone c (exit || ret) u v.2.2 (intoView c v s)

/-- The stacks as the dispatch entry asks for them: DREACH and RREACH present, DGROW and RGROW free (R169, R96). -/
def userReach (e : BitVec 24) (v : View) : Except TrapCA View :=
  let reach := if fld e 14 12 = 7 then
      match need false 1 v with
      | .ok u => (u.1.ds.headD 0).toNat + 2
      | .error _ => 1
    else fld e 14 12
  stackOp (min reach 16) (fld e 19 18) (fld e 17 15) (fld e 21 20) (fun x => .ok x) v

/-- A basic opcode that chapters 4 and 5 give a meaning: it is a command of its own (R91). -/
def allocated (op : Nat) : Bool :=
  decide (op ≤ 0x0D) || decide (0x10 ≤ op ∧ op ≤ 0x1D) || decide (0x20 ≤ op ∧ op ≤ 0x26) || decide (0x28 ≤ op ∧ op ≤ 0x2E) ||
  decide (0x30 ≤ op ∧ op ≤ 0x35) || decide (0x40 ≤ op ∧ op ≤ 0x54) || decide (0x60 ≤ op ∧ op ≤ 0x65) || decide (0x70 ≤ op ∧ op ≤ 0x77) ||
  decide (0xF0 ≤ op ∧ op ≤ 0xF3)

/-- USER_OP (R91, R92, R147, R169, R178, R185): the privilege check at decode, then bits [11:9], then the dispatch entry; an opcode that no chapter
allocates, or whose entry is not loaded, is illegal; a parity error that the Spindle finds in a store is core-fatal, for every basic op. An
opcode that chapters 4 and 5 allocate is another command. -/
def execUserOp (c : Nat) (op : BitVec 8) (f : BitVec 4) (parity : Bool) (s : State) (stop : Nat := 0) : Out :=
  let e := dispatchAt (s.core (coreOf c)) op.toNat
  .next (issueOrResume (!userOpcode op.toNat || bit e 11) c (fun s =>
    if 0xF0 ≤ op.toNat ∧ isS c = false then raiseTrap c 0x02 0 s
    else if 2 ≤ f.toNat then raiseTrap c 0x01 0 s
    else if parity then coreFatal (coreOf c) 0 s
    else if allocated op.toNat then s
    else if userOpcode op.toNat = false ∨ entryValid e = false then raiseTrap c 0x01 0 s
    else
      match userReach e (viewOf s c) with
      | .error t => raiseTrap c t.1 t.2 s
      | .ok v => userGo c op f stop (userStart v.1 (fld e 9 0) s.free) v s { s with free := s.free + 1 })
    (fun m s => match m with
      | .user op' f' w =>
        if op' ≠ op ∨ f' ≠ f then s
        else if parity then coreFatal (coreOf c) 0 s
        else userGo c op f stop w (viewOf s c) s s
      | .divide _ _ _ _ _ => s) s)

end Sys2Proof.Machine
end

