-- ==== Sys2Proof/Machine/Settings.lean ====
section
/-! DEFINITION. The admin commands that set rings, accounts, clocks, wait groups and the ledger, as effects that the command and a
shadowed record share (R283, R285, R290, R304 to R307, R312 to R314, Table 13.1). Each answers the state, the status and RESULT0 and
RESULT1; a refusal leaves the state as it was. -/

namespace Sys2Proof.Machine

open Sys2Proof

/-- What a command's effect answers. -/
abbrev Res := State × Nat × Word × Word

/-- A refusal. -/
def refuse (st : Nat) (s : State) : Res := (s, st, 0, 0)

/-- Bits of a word outside a mask are reserved (R306). -/
def onlyBits (w : Word) (mask : Nat) : Bool := w &&& ~~~(wd mask) == 0

/-! ## Rings -/

/-- RING_CREATE's fields lie in their ranges (R283, R356, Tables 12.5 and 13.1). -/
def ringFieldsOk (s : State) (e : SqEnt) : Bool :=
  let n := fld (e.dw 2) 9 0
  let maxout := fld (e.dw 2) 31 24
  let vec := fld (e.dw 7) 15 8
  let rr := tget {} s.prot.map.rings n
  e.reservedOk 9 && onlyBits (e.dw 2) 0xFF1F03FF && onlyBits (e.dw 7) 0x00FFFF3F && decide (n ≠ 0) &&
  decide (4 ≤ fld (e.dw 2) 19 16 ∧ fld (e.dw 2) 19 16 ≤ 12) && decide (1 ≤ maxout ∧ maxout ≤ 64) && (bit (e.dw 2) 20 || maxout == 1) &&
  fld (e.dw 3) 11 0 == 0 && fld (e.dw 5) 11 0 == 0 && decide (vec < 64 ∨ vec = 0xFF) && decide (1 ≤ fld (e.dw 7) 23 16) &&
  decide (10 ≤ fld (e.dw 8) 31 16) && (rr.acctAny || rr.acct.toNat == fld (e.dw 7) 5 0)

/-- The ring that RING_CREATE's fields describe, in a state and an epoch. -/
def ringOf (e : SqEnt) (st : RingState) (epoch : BitVec 8) : Ring :=
  { st := st, log2n := fld (e.dw 2) 19 16, order := bit (e.dw 2) 20, maxout := fld (e.dw 2) 31 24
    sqBase := cat64 (e.dw 3) (e.dw 4), cqBase := cat64 (e.dw 5) (e.dw 6), acct := BitVec.ofNat 6 (fld (e.dw 7) 5 0)
    vector := BitVec.ofNat 8 (fld (e.dw 7) 15 8), coalN := fld (e.dw 7) 23 16, coalUs := fld (e.dw 8) 15 0
    tmoMs := fld (e.dw 8) 31 16, epoch := epoch }

/-- RING_CREATE. -/
def ringCreate (e : SqEnt) (s : State) : Res :=
  let n := fld (e.dw 2) 9 0
  if ringFieldsOk s e = false then refuse 0x0002 s
  else if (s.ring n).st ≠ .absent then refuse 0x0101 s
  else
    let ep := (s.ring n).epoch + 1
    (s.setRing n (ringOf e .active ep), 0, ep.setWidth 32, 0)

/-- The ring that DW2 names, when the command's other fields are reserved and 0. -/
def ringNamed (e : SqEnt) : Option Nat :=
  let n := fld (e.dw 2) 9 0
  if e.reservedOk 3 && onlyBits (e.dw 2) 0x3FF && decide (n ≠ 0) then some n else none

/-- RING_DELETE: the ring is ABSENT; its epoch is kept (R285). -/
def ringDelete (e : SqEnt) (s : State) : Res :=
  match ringNamed e with
  | none => refuse 0x0002 s
  | some n =>
    let r := s.ring n
    if r.st = .absent then refuse 0x0102 s
    else if r.started ≠ [] ∨ r.late ≠ [] ∨ rerunsLeft s n = true ∨ recordsWait s n = true then refuse 0x0103 s
    else (dropReads n (s.setRing n { epoch := r.epoch }), 0, 0, 0)

/-! ## Accounts -/

/-- The word that bit i of WHICH selects, when it does. -/
def selected (e : SqEnt) (i k : Nat) : Option Word := if bit (e.dw 2) (8 + i) then some (e.dw k) else none

/-- ACCOUNT_SET's selected words hold no reserved encoding (Table 11.3). -/
def accountFieldsOk (e : SqEnt) : Bool :=
  e.reservedOk 11 && onlyBits (e.dw 2) 0xFF3F && ((selected e 0 3).all ctlOk) &&
  ((List.range 4).all fun i => (selected e (1 + i) (4 + i)).all guarOk) && ((selected e 5 8).all limitsOk) &&
  ((selected e 6 9).all fun w => onlyBits w 0x7FFF && decide (100 ≤ fld w 13 0 ∧ fld w 13 0 ≤ 10000)) &&
  ((selected e 7 10).all fun w => onlyBits w 0x3F3F)

/-- What ACCOUNT_SET asks for is staged for the next boundary (R261). -/
def stageAccount (e : SqEnt) (s : State) : State :=
  let a := fld (e.dw 2) 5 0
  let q := s.acct a
  let old : AcctNext := q.next.getD {}
  let g := (List.range 4).map fun i => ((selected e (1 + i) (4 + i)).map fun w => w.toNat).or (old.g.getD i none)
  let t := s.setAcct a { q with next := some ⟨(selected e 0 3).or old.ctl, g, (selected e 5 8).or old.limits⟩ }
  t.modMill fun m =>
    { m with
      turnNext := ((selected e 6 9).map fun w => (BitVec.ofNat 14 (fld w 13 0), bit w 14)).or m.turnNext
      bindNext := (selected e 7 10).or m.bindNext }

/-- ACCOUNT_SET (R260, R261). -/
def accountSet (e : SqEnt) (s : State) : Res :=
  if accountFieldsOk e = false then refuse 0x0002 s
  else
    let t := stageAccount e s
    if admissible t then (t, 0, (s.mill.turn + 1).setWidth 32, 0) else refuse 0x0003 (admitRefuse s)

/-! ## Clocks -/

/-- CLOCK_POLICY_SET's selected images hold no reserved encoding (R306, R312, Table 2.5). -/
def clockFieldsOk (s : State) (e : SqEnt) : Bool :=
  let d := fld (e.dw 2) 4 0
  let which := fld (e.dw 2) 11 8
  let w := e.dw 3
  e.reservedOk 5 && onlyBits (e.dw 2) 0x0F1F && decide (2 ≤ d ∧ d ≤ 20) &&
  (which % 8 == 0 || (onlyBits w 0x0DFFFFFF && lockMhzOk s (fld w 15 7) && mhzOk (fld w 24 16) && stateOk d (RunState.ofCode (fld w 27 26)))) &&
  (!bit (e.dw 2) 11 || onlyBits (e.dw 4) 0x1FFFF)

/-- A new lock of D_2 would break R87: while a core is in deterministic mode D_2 must stay locked at or above its island. -/
def breaksR87 (s : State) (lock : Bool) (mhz : Nat) : Bool :=
  (List.range 16).any fun k => (s.core k).det && (!lock || decide (mhz < (s.dom (domOf k)).lockMhz.toNat))

/-- CLOCK_POLICY_SET (R312). -/
def clockPolicySet (e : SqEnt) (s : State) : Res :=
  let d := fld (e.dw 2) 4 0
  let w := e.dw 3
  let m := s.dom d
  let setsLock := bit (e.dw 2) 9
  let setsFloor := bit (e.dw 2) 10
  let lock := if setsLock then bit w 6 || (s.clk.calDefaults && decide (m.state = .run)) else m.refLock
  let mhz := if setsLock then fld w 15 7 else m.lockMhz.toNat
  let floor := if setsFloor then fld w 24 16 else floorAhead s d
  let changed := decide ((lock, mhz) ≠ (m.refLock, m.lockMhz.toNat))
  if clockFieldsOk s e = false then refuse 0x0002 s
  else if lock ∧ mhz < lockFloor s d floor ∧ carriesGuarantee s d ∧ (changed ∨ floor ≠ floorAhead s d) then refuse 0x0002 s
  else if changed ∧ (lockFrozen s d ∨ (d = 2 ∧ breaksR87 s lock mhz)) then refuse 0x0501 s
  else if floor ≠ floorAhead s d ∧ admissible (stageFloor d floor s) = false then
    refuse 0x0003 (admitRefuse s)
  else
    let t := writeIslFields d (bit (e.dw 2) 8) setsLock setsFloor false w s
    let u := if bit (e.dw 2) 11 then
        t.modClk fun k => { k with capMw := (e.dw 4).setWidth 16, policyEn := bit (e.dw 4) 16 }
      else t
    (u, 0, clkStatus u, 0)

/-! ## Wait groups -/

/-- HEDGE_CONFIG (R313): a refusal under R249 sets CFG_ERR and restores the rest of the group. -/
def hedgeConfig (e : SqEnt) (s : State) : Res :=
  let g := fld (e.dw 2) 2 0
  let ctl := e.dw 3
  let settle := bit (e.dw 2) 8
  if e.reservedOk 9 = false ∨ onlyBits (e.dw 2) 0x307 = false ∨ onlyBits ctl 0x307F7 = false ∨ onlyBits (e.dw 6) 0xF = false ∨
      onlyBits (e.dw 8) 0xFFFF = false ∨ 16 < fld ctl 8 4 ∨ (settle = true ∧ fld (e.dw 8) 15 0 < 64) then refuse 0x0002 s
  else
    let s1 := s.modGroup g fun q =>
      { q with en := false, cfgErr := false, mem0 := e.dw 4, mem1 := e.dw 5, mem2 := (e.dw 6).setWidth 4, internal := e.dw 7 }
    let s2 := writeHgCtl g ctl s1
    if (s2.group g).cfgErr then refuse 0x0002 (s.modGroup g fun q => { q with cfgErr := true })
    else
      let s3 := s2.modGroup g fun q => { q with cfgErr := (s.group g).cfgErr && !bit ctl 16, fired := q.fired && !bit (e.dw 2) 9 }
      let s4 := if settle then s3.modThorn fun t => { t with settle := (e.dw 8).setWidth 16 } else s3
      (s4, 0, hgStat s4 g, 0)

/-! ## The ledger -/

/-- Where a record of the ledger stands: its window and the offset within it (R314). -/
def ledgerPlace (hwin off r : Nat) : Nat × Nat := (hwin + (off + 64 * r) / 2 ^ 23, (off + 64 * r) % 2 ^ 23)

/-- A window that grants what the ledger needs over a stretch that ends at `x` (R314). -/
def ledgerWindowOk (s : State) (n x : Nat) : Bool :=
  let w := s.win n
  decide (n < 256) && w.v && w.rd && w.wr && decide (x ≤ 2 ^ w.size) && decide (n ∈ (tget {} s.prot.map.rings 0).win)

/-- Every window in which a ledger of `count` records has one grants it (R314). -/
def ledgerOk (s : State) (hwin off count : Nat) : Bool :=
  let last := off + 64 * count
  (List.range ((last - 1) / 2 ^ 23 - off / 2 ^ 23 + 1)).all fun i =>
    let k := off / 2 ^ 23 + i
    ledgerWindowOk s (hwin + k) (min last ((k + 1) * 2 ^ 23) - k * 2 ^ 23)

/-- LEDGER_ATTACH (R314). -/
def ledgerAttach (e : SqEnt) (s : State) : Res :=
  let hwin := fld (e.dw 2) 7 0
  let off := (e.dw 3).toNat
  let count := (e.dw 4).toNat
  if e.reservedOk 5 = false ∨ onlyBits (e.dw 2) 0xFF = false ∨ off % 64 ≠ 0 ∨ 262144 < count then refuse 0x0002 s
  else if s.pass.isOpen then refuse 0x0404 s
  else if count ≠ 0 ∧ ledgerOk s hwin off count = false then refuse 0x0004 s
  else (s.modHost fun h => { h with ledger := if count = 0 then none else some (hwin, off, count) }, 0, wd count, 0)

/-! ## Snapshot of the settings -/

/-- An entry of an opcode with these words from DW2 on. -/
def settingEntry (op : Nat) (ws : List Word) : List Word := wd op :: 0 :: (ws ++ List.replicate (14 - ws.length) 0)

/-- An entry that the twin carried. -/
def twinEntry (ws : List Word) : SqEnt := ⟨ws, 0, 0, false⟩

/-- The settings of Table 14.5 kind 1 as they stand, each as the command that would set it (R350). -/
def settingRecords (s : State) : List ShadowRec :=
  let acct := fun (e : Nat × Acct) => ShadowRec.admin (settingEntry 0x05 [wd (e.1 + (if e.1 = 0 then 0xFF else 0x3F) * 2 ^ 8), acctCtl e.2,
    wd e.2.guar.core, wd e.2.guar.cx, wd e.2.guar.dma, wd e.2.guar.twin, acctLimits e.2, millCtl s, millBind s])
  let clk := fun d => ShadowRec.admin (settingEntry 0x0A [wd (d + (if d = 2 then 0xF else 7) * 2 ^ 8), islCtl s d &&& 0x01FFFFFF, clkPolicy s])
  let hg := fun g => let q := s.group g; ShadowRec.admin (settingEntry 0x0B
    [wd (g + 2 ^ 8), hgCtl q &&& 0x7F7, q.mem0, q.mem1, q.mem2.setWidth 32, q.internal, s.thorn.settle.setWidth 32])
  let led := match s.host.ledger with
    | some l => [ShadowRec.admin (settingEntry 0x11 [wd l.1, wd l.2.1, wd l.2.2])]
    | none => []
  s.mill.accts.map acct ++ adaptive.map clk ++ (List.range 8).map hg ++ led

/-- The words of RING_CREATE that describe a ring (Table 13.1). -/
def ringWords (n : Nat) (r : Ring) : List Word :=
  settingEntry 0x02 [fields [(n, 0), (r.log2n, 16), (b2n r.order, 20), (r.maxout, 24)], wd r.sqBase, wd (r.sqBase / 2 ^ 32), wd r.cqBase,
    wd (r.cqBase / 2 ^ 32), fields [(r.acct.toNat, 0), (r.vector.toNat, 8), (r.coalN, 16)], fields [(r.coalUs, 0), (r.tmoMs, 16)]]

/-- The first entry of a ring that has not started: what a new primary fetches first (R341). -/
def firstUnstarted (r : Ring) : Nat := match r.fetched.filter (fun e => !e.rerun) with | e :: _ => e.slot | [] => r.sqHead

/-- A ring's records in the snapshot (R350): the ring itself, its commands started, and its completion records not released. -/
def ringRecords (s : State) (e : Nat × Ring) : List ShadowRec :=
  let r := e.2
  if e.1 = 0 ∨ r.st = .absent then []
  else
    ShadowRec.ringRec e.1 (ringWords e.1 r) r.epoch (firstUnstarted r) r.sqTail r.cqHead r.cqTail r.phase ::
      (r.started.map fun t => ShadowRec.started e.1 t.ent.slot t.cmd t.ent.idemp) ++
      ((s.twin.shadow.cpls.filter fun c => c.1 == e.1).map fun c => ShadowRec.completion c.1 c.2.1 c.2.2)

/-- The snapshot image (R350). -/
def snapshotImage (s : State) : List ShadowRec :=
  (s.host.rings.map (ringRecords s)).flatten ++ settingRecords s ++ s.twin.shadow.cores.map .core ++
    [.pass s.pass.dws s.pass.isOpen s.pass.ring]

end Sys2Proof.Machine
end

