-- ==== Sys2Proof/Machine/Reader.lean ====
section
/-! DEFINITION. The reader's time and position (R412, R413, R436), coexistence states (R398, R402), the ledger record (R409, Table
17.2), and PPS and RMC as they arrive (R412, R496). -/

namespace Sys2Proof.Machine

open Sys2Proof

/-! ## Numbers -/

/-- The integer part of a square root, bit by bit. -/
def isqrt (n : Nat) : Nat := (List.range 40).foldl (fun r i => if (r + 2 ^ (39 - i)) ^ 2 ≤ n then r + 2 ^ (39 - i) else r) 0

/-- The integer part of a logarithm to base 10; `fuel` bounds the digits. -/
def log10 : Nat → Nat → Nat
  | 0, _ => 0
  | f + 1, n => if n < 10 then 0 else 1 + log10 f (n / 10)

/-- A quotient whose rounding the manual does not state: the integer below, or the one above where a free value says so (log 16). -/
def roundDiv (n : Int) (d : Nat) (s : State) : Int × State :=
  if n % d = 0 then (n / d, s) else (n / d + b2n (Config.roundUp s.free), { s with free := s.free + 1 })

/-! ## The parameters of the pass (Tables 16.1 and 17.1) -/

/-- Word k of the PASS_BEGIN of the open or last pass, k from 2 to 15. -/
def dwOf (s : State) (k : Nat) : Word := nthW s.pass.dws (k - 2)

def nch (s : State) : Nat := fld (dwOf s 2) 2 0
def ownRid (s : State) : BitVec 16 := (dwOf s 2).extractLsb' 16 16
def chKhz (s : State) (ch : Nat) : Nat := (dwOf s (4 + ch)).toNat
def pmaxOf (s : State) : Int := sgn 8 (fld (dwOf s 8) 7 0)
def pfsOf (s : State) (p : Nat) : Int := sgn 8 (fld (dwOf s 8) (15 + 8 * p) (8 + 8 * p))
def dutyPm (s : State) : Nat := fld (dwOf s 9) 15 0
def chgMin (s : State) : Nat := fld (dwOf s 10) 23 0
def season (s : State) : Nat := fld (dwOf s 10) 31 24
def listenMin (s : State) : Nat := fld (dwOf s 11) 31 20

/-- A statistic of the pass is counted (Table 17.5). -/
def countStat (i : Nat) (s : State) : State := s.modPass fun p => { p with stats := tput i (tget 0 p.stats i + 1) p.stats }

/-! ## Reader time (R413) -/

/-- µs since 2000-01-01. -/
def RTime.us (t : RTime) : Nat := (t.day * 86400000 + t.ms) * 1000

/-- PPS locked: an RMC labels a PPS edge within the last 2 s. -/
def ppsLocked (s : State) : Bool := match s.pass.gnssTime with | some e => decide (s.nowUs ≤ e.2 + 2000000) | none => false

/-- The present source of reader time: 0 RTC, 1 GNSS, 2 host, 3 none (Table 13.5). -/
def timeSource (s : State) : Nat :=
  if ppsLocked s then 1 else if s.hearth.rtcValid then 0 else if s.pass.hostTime.isSome then 2 else 3

/-- A label carried forward to now. -/
def carried (s : State) (e : Option (RTime × Nat)) : Option Nat := e.map fun t => t.1.us + (s.nowUs - t.2)

/-- Reader time in µs since 2000-01-01. -/
def readerTime (s : State) : Option Nat :=
  match timeSource s with
  | 0 => some (s.hearth.rtc.toNat * 1000000 / 32768)
  | 1 => carried s s.pass.gnssTime
  | 2 => carried s s.pass.hostTime
  | _ => none

/-- The firmware loads the RTC with a reader time (R436, R441). -/
def loadRtc (us : Nat) (s : State) : State :=
  let v := BitVec.ofNat 48 (us * 32768 / 1000000)
  setRtc (v.extractLsb' 0 32) (s.modHearth fun h => { h with setHi := v.extractLsb' 32 16 })

/-! ## Position (R412) -/

/-- A position is fresh for 2 s. -/
def fresh (s : State) (p : Option (Int × Int × Nat)) : Option (Int × Int × Nat) :=
  match p with
  | some q => if s.nowUs ≤ q.2.2 + 2000000 then p else none
  | none => none

/-- The freshest position: with POS_SRC = 0 a fresh GNSS position wins. -/
def basePosition (s : State) : Option (Int × Int × Nat) :=
  if bit (dwOf s 11) 17 then fresh s s.pass.posHost else (fresh s s.pass.posGnss).or (fresh s s.pass.posHost)

/-- The position at a moment, extrapolated along HEADING at SPEED. -/
def positionAt (s : State) (u : Nat) : Option (Int × Int) :=
  (basePosition s).map fun q =>
    let d : Int := s.pass.speed * ((u : Int) - q.2.2)
    (q.1 + d * Config.headSinE9 s.pass.heading / 10 ^ 15, q.2.1 + d * Config.headCosE9 s.pass.heading / 10 ^ 15)

/-- mm travelled between two positions. -/
def addTravel (q : Int × Int × Nat) (s : State) : State :=
  match basePosition s with
  | some b => s.modPass fun p => { p with travelMm := p.travelMm + isqrt ((q.1 - b.1).natAbs ^ 2 + (q.2.1 - b.2.1).natAbs ^ 2) }
  | none => s

/-! ## Coexistence (R398, R402) -/

/-- Readers heard on a channel within the last 5 s. -/
def heardNow (s : State) (ch : Nat) : List (BitVec 16 × Nat × Bool) :=
  (s.chan ch).foreign.filter fun e => decide (s.nowUs ≤ e.2.1 + 5000000)

/-- The state that Table 16.9 gives a channel on which readers are heard. -/
def coexWith (s : State) (ch : Nat) : Coex :=
  match heardNow s ch with
  | [e] => if ppsLocked s && e.2.2 && decide (e.1 ≠ ownRid s) then .sharing else .contend
  | _ => .contend

/-- A channel that is not ALONE follows the conditions of SHARING. -/
def settleCoex (s : State) : State :=
  (List.range 4).foldl (fun t ch => if (t.chan ch).coex = .alone then t else t.setChan ch { t.chan ch with coex := coexWith t ch }) s

/-! ## PPS and RMC -/

/-- The moment of the last accepted PPS edge. -/
def edgeUs (s : State) : Nat := s.nowUs - (s.util.d1Now - s.util.ppsTime).toNat / 100

/-- The holders of the next second (R401): the one whose beacon alone asked; the lower RID when both asked, and the higher RID after it. -/
def nextSecond (own : BitVec 16) (c : Chan) : Chan :=
  let lower := match c.foreign with | e :: _ => decide (own.toNat < e.1.toNat) | [] => true
  let both := c.ownAsked && c.peerAsked
  let o := c.ownNext || (c.ownAsked && !c.peerAsked) || (both && lower)
  let p := c.peerNext || (c.peerAsked && !c.ownAsked) || (both && !lower)
  { c with
    ownLong := o && !c.peerNext, peerLong := p && !c.ownNext
    ownNext := both && !lower, peerNext := both && lower, ownAsked := false, peerAsked := false }

/-- Cycles of D_1, at 100 MHz, since the last accepted edge. -/
def sinceEdge (s : State) : Nat := (s.util.d1Now - s.util.ppsTime).toNat

/-- PPS_EDGE (R401, R496): an edge 900 ms or more after the last accepted one is accepted; the count of D_1 is latched, and line 12 of S raised; in
SHARING a second begins. D_1 takes no edge while a device reset is held. -/
def execPpsEdge (s : State) : Out :=
  let t := s.modUtil fun u => { u with ppsTime := u.d1Now, edges := satInc u.edges, present := true }
  .next (if s.boot.inReset ∨ (s.util.present ∧ sinceEdge s < 90000000) then s
    else raiseFrom 1 16 12 (t.modPass fun p => { p with chans := p.chans.map fun e => (e.1, nextSecond (ownRid s) e.2) }))

/-- PPS_ABSENT (R496, R398): no edge has been accepted for 1.2 s, so PRESENT clears, and a channel whose conditions of SHARING fail contends. -/
def execPpsAbsent (s : State) : Out :=
  .next (if s.util.present ∧ sinceEdge s < 120000000 then s else settleCoex (s.modUtil fun u => { u with present := false }))

/-- PPS_LOCK_LAPSE (R398, R413): 2 s have passed since the last labelled edge. -/
def execPpsLockLapse (s : State) : Out :=
  .next (if ppsLocked s then s else settleCoex (s.modPass fun p => { p with gnssTime := none }))

/-- A latitude and longitude on the grid of PASS_BEGIN (R412), in mm. -/
def project (lat lon : Int) (s : State) : (Int × Int) × State :=
  let lat0 := (dwOf s 14).toInt
  let lon0 := (dwOf s 15).toInt
  let k : Int := 6371000000 * 31415926535897932
  let x := roundDiv (k * (lon - lon0) * Config.cosE9 lat0) (18 * 10 ^ 33) s
  let y := roundDiv (k * (lat - lat0)) (18 * 10 ^ 24) x.2
  ((x.1, y.1), y.2)

/-- The firmware brings the RTC to GNSS time when it is invalid or differs by more than 1 ht (R436). -/
def correctRtc (s : State) : State :=
  match carried s s.pass.gnssTime with
  | none => s
  | some us =>
    let g : Int := us * 32768 / 1000000
    if s.hearth.rtcValid = false ∨ 1 < (g - s.hearth.rtc.toNat).natAbs then loadRtc us s else s

/-- An RMC that labels a PPS edge gives position and time at that edge. -/
def labelEdge (m : Rmc) (s : State) : State :=
  let u := edgeUs s
  let t := s.modPass fun p => { p with gnssTime := some (⟨m.day, m.ms⟩, u) }
  let q := if s.pass.isOpen then
      let r := project m.lat m.lon t
      let pos := (r.1.1, r.1.2, u)
      (addTravel pos r.2).modPass fun p => { p with posGnss := some pos }
    else t
  settleCoex (correctRtc q)

/-- RMC_SENTENCE (R412): accepted with a valid checksum and status A; within 1 s of a PPS edge it labels that edge; 1 knot is 514.444 mm/s. -/
def execRmcSentence (m : Rmc) (s : State) : Out :=
  .next (if m.checksumOk = false ∨ m.statusA = false then s
    else
      let v := roundDiv (m.speedMkn * 514444) 1000000 s
      let t := v.2.modPass fun p => { p with speed := v.1.toNat, heading := m.course }
      if s.util.present ∧ sinceEdge s ≤ 100000000 then labelEdge m t else t)

/-! ## The ledger record -/

def recHead (r : List Word) : Word := nthW r 0
def recId (r : List Word) : Word := nthW r 1
def recHash (r : List Word) : Nat := fld (nthW r 2) 15 0
def recGroup (r : List Word) : Nat := fld (nthW r 2) 31 16
def recX (r : List Word) : Int := (nthW r 3).toInt
def recY (r : List Word) : Int := (nthW r 4).toInt
def recSlot (r : List Word) : Nat := fld (nthW r 5) 3 0
def recNew (r : List Word) : Bool := bit (nthW r 5) 8
def recSuspect (r : List Word) : Bool := bit (nthW r 5) 9
def recRetired (r : List Word) : Bool := bit (nthW r 5) 10
def recPhaseOk (r : List Word) : Bool := bit (nthW r 5) 11
def recTimingOk (r : List Word) : Bool := bit (nthW r 5) 12
def recLastDay (r : List Word) : Nat := fld (nthW r 5) 31 16
def recLastMs (r : List Word) : Nat := (nthW r 6).toNat
def recRtc (r : List Word) : Nat := (nthW r 7).toNat
def recDrift (r : List Word) : Int := (nthW r 8).toInt
def recDriftU (r : List Word) : Nat := fld (nthW r 9) 15 0
def recNread (r : List Word) : Nat := fld (nthW r 9) 23 16
def recEnrSeason (r : List Word) : Nat := fld (nthW r 9) 31 24
def recMargin (r : List Word) (i : Nat) : Nat := fld (nthW r 10) (8 * i + 7) (8 * i)
def recCap (r : List Word) : Nat := fld (nthW r 12) 23 0
def recEnergy (r : List Word) : Nat := fld (nthW r 13) 23 0
def recCharge (r : List Word) : Nat := fld (nthW r 14) 23 0
def recDaily (r : List Word) : Nat := fld (nthW r 14) 31 24
def recTail (r : List Word) : Word := nthW r 15

/-- A whole record (R410). -/
def recWhole (r : List Word) : Bool := recHead r == recTail r

/-- µs of LAST_DAY, LAST_MS. -/
def recLastUs (r : List Word) : Nat := RTime.us ⟨recLastDay r, recLastMs r⟩

/-- A record without history (R409). -/
def recBlank (r : List Word) : Bool := recNew r || recNread r == 0

/-- The record as the Planner takes it (R409, R411): without history its own fields read as never, unknown and no reply. A torn record
has no history, and SUSPECT is set. -/
def recSeen (torn : Bool) (r : List Word) : List Word :=
  if torn ∨ recBlank r then
    let w5 := putBit (nthW r 5 &&& 0xE7FF) 9 torn
    setNth (setNth (setNth r 5 w5) 9 (putFld (nthW r 9) 0 24 0xFFFF)) 10 0x80808080
  else r

/-- The host address of a ledger record (R314). -/
def ledgerAddr (s : State) (r : Nat) : Nat :=
  match s.host.ledger with
  | some l => let p := ledgerPlace l.1 l.2.1 r; hostAddr s p.1 p.2
  | none => 0

/-- Records attached. -/
def ledgerCount (s : State) : Nat := match s.host.ledger with | some l => l.2.2 | none => 0

/-- The No Snoop attribute of the window of a ledger record. -/
def ledgerNs (s : State) (r : Nat) : Bool :=
  match s.host.ledger with
  | some l => (s.win (ledgerPlace l.1 l.2.1 r).1).ns
  | none => false

/-- A host read of the firmware can be made in this step: a tag is free for it, or the bridge refuses it anyway (R197, R204). -/
def readsNow (s : State) : Bool := (dmaTag s).isSome || !canSend s

/-- A record is read as R410 asks: SEQ_TAIL, the body, SEQ_HEAD; the ring's account is charged. While the bridge cannot send, the read is refused
(R204). -/
def readRecord (ring r : Nat) (s : State) : State :=
  let a := ledgerAddr s r
  let ns := ledgerNs s r
  let i := (dmaTag s).getD 8
  if canSend s = false then noteHbErr 5 a s
  else chargeDma (s.ring ring).acct.toNat 64
    (sendTlp (.read i a 4 ns) (sendTlp (.read i (a + 4) 56 ns) (sendTlp (.read i (a + 60) 4 ns) s)))

end Sys2Proof.Machine
end

