-- ==== Sys2Proof/Machine/Planner.lean ====
section
/-! DEFINITION. The Planner: sniff prediction, decisions, power, reply windows, frames and duty (R377, R378, R392, R396, R398 to R401,
R408, R414 to R422), and the placing of wakes. -/

namespace Sys2Proof.Machine

open Sys2Proof

/-! ## Prediction (R378, R417) -/

/-- The stake's tick count, in units of 10^-14 tick, Δt = d µs after the last reading. -/
def tick14 (r : List Word) (d : Nat) : Int := (32 * recRtc r + 16) * 10 ^ 14 + 32768 * (d : Int) * (10 ^ 8 + recDrift r)

/-- Whether a tick count is the start of a sniff. -/
def isSniff (n : Nat) : Bool :=
  let off := n % 1048576
  let k := (off * 1000 + 8388607) / 8388608
  decide (k < 125) && decide (8388608 * k / 1000 = off)

/-- The first sniff start at or after a tick count. -/
def nextSniff (n : Nat) : Nat :=
  let off := n % 1048576
  let ks := (List.range 3).map fun i => off * 1000 / 8388608 + i
  match ks.find? fun k => decide (off ≤ 8388608 * k / 1000) with
  | some k => n - off + (if k < 125 then 8388608 * k / 1000 else 1048576)
  | none => n - off + 1048576

/-- µs from the last reading to a moment on the model's clock. -/
def sinceReading (s : State) (r : List Word) (u : Nat) : Option Nat :=
  match readerTime s with
  | some t => if recLastUs r ≤ t + u - s.nowUs then some (t + u - s.nowUs - recLastUs r) else none
  | none => none

/-- U is at most 0.95 ms at d µs from the last reading. -/
def uOk (r : List Word) (d : Nat) : Bool := decide (d * recDriftU r ≤ 460000000000)

/-- What the targeted test asks besides U. -/
def targetable (s : State) (r : List Word) : Bool :=
  ppsLocked s && recPhaseOk r && !recSuspect r && decide (recDriftU r ≠ 0xFFFF) && decide (0 < 10 ^ 8 + recDrift r)

/-- The targeted test for a lead-in that starts at u, 0.95 ms before the predicted sniff. -/
def targetedAt (s : State) (r : List Word) (u : Nat) : Bool :=
  targetable s r && (match sinceReading s r (u + 950) with | some d => uOk r d | none => false)

/-- A lead-in at u starts 0.95 ms before a predicted sniff start, in whole µs. -/
def aligned (s : State) (r : List Word) (u : Nat) : Bool :=
  match sinceReading s r (u + 950) with
  | some d =>
    let n : Nat := ((tick14 r d + (10 ^ 14 - 1)) / 10 ^ 14).toNat
    decide ((n : Int) * 10 ^ 14 < tick14 r (d + 1)) && isSniff n
  | none => false

/-- The targeted test at the next predicted sniff that a lead-in can still meet. -/
def targetedNext (s : State) (r : List Word) : Bool :=
  targetable s r && (match sinceReading s r (s.nowUs + 950) with
    | some d =>
      let n := nextSniff ((tick14 r d + (10 ^ 14 - 1)) / 10 ^ 14).toNat
      let rate := 32768 * (10 ^ 8 + recDrift r)
      uOk r (((n : Int) * 10 ^ 14 - (32 * recRtc r + 16) * 10 ^ 14 + rate - 1) / rate).toNat
    | none => false)

/-! ## Decisions (R414, R415) -/

/-- CHARGE less the use since LAST_DAY, in 0.01 mAh. -/
def charge100 (r : List Word) (t : Nat) : Int := 10 * recCharge r - recDaily r * ((t / 86400000000 : Nat) - recLastDay r : Int)

/-- Rows 5, 7, 3 and 4 of Table 17.3. -/
def skipCode (s : State) (r : List Word) : Option Nat :=
  if recRetired r then some 5
  else match readerTime s with
    | none => some 7
    | some t =>
      if recLastDay r = 0 then none
      else if t / 1000 < recLastUs r / 1000 + 72000000 then some 3
      else if recCap r ≠ 0 ∧ charge100 r t < 10 * chgMin s then some 4
      else none

/-- Square of the grid distance in mm². -/
def dist2 (p : Int × Int) (r : List Word) : Nat := (recX r - p.1).natAbs ^ 2 + (recY r - p.2).natAbs ^ 2

/-- The along-track distance of a stake, in 10^-9 mm: from the position, along HEADING. -/
def alongTrack (s : State) (p : Int × Int) (r : List Word) : Int :=
  (recX r - p.1) * Config.headSinE9 s.pass.heading + (recY r - p.2) * Config.headCosE9 s.pass.heading

/-- A candidate is within 40,000 mm and, unless SPEED is below 200 mm/s, at least 0 mm along the track when it becomes one and at least −10,000 mm
afterwards (R414). -/
def inRange (s : State) (p : Int × Int) (i : Nat) (r : List Word) : Bool :=
  let least : Int := if i ∈ s.pass.cands then -10000 else 0
  decide (dist2 p r ≤ 40000 ^ 2) && (decide (s.pass.speed < 200) || decide (least * 10 ^ 9 ≤ alongTrack s p r))

/-! ## Power (R376, R418) -/

/-- The highest power that the plan permits. -/
def topPower (s : State) : Int := min (pmaxOf s) (pfsOf s s.pass.port)

/-- The least valid margin of a record, in half dB. -/
def leastMargin (r : List Word) : Option Int :=
  (((List.range 4).map (recMargin r)).filter fun m => m != 0x80).foldl
    (fun o m => some (match o with | some x => min x (sgn 8 m) | none => sgn 8 m)) none

/-- The predicted margin at power p and squared distance d2 is at least 6 dB. -/
def marginOk (p m : Int) (d2 : Nat) : Bool :=
  let e := p + m + 148
  decide (0 ≤ e) && decide ((max d2 1000000) ^ 20 ≤ 10 ^ e.toNat)

/-- The power of a wake of one stake. -/
def wakePower (s : State) (idx : Nat) (r : List Word) (d2 : Nat) : Int :=
  let top := topPower s
  if idx ∈ s.pass.unanswered then top
  else match leastMargin r with
    | none => top
    | some m =>
      (((List.range 61).map fun i => pfsOf s s.pass.port - 60 + i).find? fun p => decide (p ≤ top) && marginOk p m d2).getD top

/-- The carrier amplitude of R376. DESIGN CHOICE (log 110): with PMAX more than 30 dB below PFS the rule asks both for PFS − 30 dB and for no P above
PMAX; the amplitude sent is that of PFS − 30 dB, the lowest that the rule names, while P itself never exceeds PMAX. -/
def amplitudeOf (s : State) (port : Nat) (p : Int) : Nat := Config.amplitude (min 60 (pfsOf s port - p))

/-! ## Exchange timing (R381, R386, R392, R419) -/

/-- Lead-in and whole wake in µs (Table 16.2). -/
def leadUs (kind : Nat) : Nat := if kind = 0 then 4000 else 260000
def wakeUs (kind : Nat) : Nat := leadUs kind + 8750
def wakeEnd (x : Exch) : Nat := x.startUs + wakeUs x.kind

/-- Slots of an exchange: the stake's own, slot 0 for a TARGET wake, any even one for DISCOVER (R384). -/
def slotsOf (x : Exch) : List Nat :=
  if x.kind = 3 then (List.range 8).map fun i => 2 * i
  else if x.kind = 2 then x.recs.map recSlot
  else x.recs.map fun _ => 0

/-- µs from the wake end to attempt a in a slot. -/
def attemptAfter (slot a : Nat) : Nat := 5000 + 10000 * slot + 200000 * a

/-- Half-width of the reply window in µs, t_a µs after the wake end, rounded up to 10 µs. -/
def halfWidth (kind : Nat) (r : List Word) (ta : Nat) : Nat :=
  if kind = 3 ∨ recTimingOk r = false then 50000
  else (250 * 10 ^ 9 + ta * ((recDrift r).natAbs * 10 + recDriftU r) + 10 ^ 10 - 1) / 10 ^ 10 * 10

/-- The record that governs the window of the i-th slot of an exchange. -/
def recAt (x : Exch) (i : Nat) : List Word := x.recs.getD i []

/-- The reply windows of every attempt of an exchange: the µs at which each starts and ends. -/
def windowsOf (x : Exch) : List (Nat × Nat) :=
  (((slotsOf x).zipIdx).map fun e => (List.range 3).map fun a =>
    let t := attemptAfter e.1 a
    let w := halfWidth x.kind (recAt x e.2) t
    (wakeEnd x + t - w, wakeEnd x + t + w)).flatten

/-- µs on air of a frame with its preamble and sync, at 50 kb/s (R386); `bytes` run from Length to CRC. -/
def frameUs (bytes : List Byte) : Nat := 160 * (7 + bytes.length)

/-- When the acknowledgement of a reply starts: 2.000 ms after the end of the reply's CRC (R393). -/
def ackAt (rp : Reply) : Nat := rp.atUs + frameUs rp.bytes + 2000

/-- Longest acknowledgement on air in µs (R390). -/
def ackMaxUs (kind : Nat) : Nat := if kind = 2 then 5120 else 11520

/-- Two stretches of time meet. -/
def meets (a b : Nat × Nat) : Bool := decide (a.1 < b.2) && decide (b.1 < a.2)

/-- A transmission keeps clear of the windows of every exchange opened on its channel (R396). -/
def clearOf (s : State) (ch a b : Nat) : Bool :=
  s.pass.exchs.all fun x => x.ch != ch || (windowsOf x).all fun w => !meets w (a, b)

/-- Where the ACKs of an exchange can lie (R388, R393): 2 ms after a reply of 30 to 52 bytes on air that starts in a window. -/
def ackSpans (x : Exch) : List (Nat × Nat) := (windowsOf x).map fun w => (w.1 + 4800 + 1950, w.2 + 8320 + 2050 + ackMaxUs x.kind)

/-- A new exchange's windows keep clear of the wakes placed on its channel, and of the ACKs of the exchanges there as theirs do of its own (R396). -/
def windowsClear (s : State) (x : Exch) : Bool :=
  s.pass.exchs.all fun y => y.ch != x.ch ||
    ((y.onAir || (windowsOf x).all fun w => !meets w (y.startUs, wakeEnd y)) &&
     ((windowsOf x).all fun w => (ackSpans y).all fun a => !meets w a) && ((windowsOf y).all fun w => (ackSpans x).all fun a => !meets w a))

/-- No wake on a channel, and no ACK due there, meets a stretch of time (R400). -/
def noneUnderWay (s : State) (ch a b : Nat) : Bool :=
  s.pass.exchs.all fun x => x.ch != ch || (!meets (x.startUs, wakeEnd x) (a, b) && match x.ackDue with
    | some rp => !meets (ackAt rp, ackAt rp + ackMaxUs x.kind) (a, b)
    | none => true)

/-! ## Frames (R398 to R401) -/

/-- Where frames count from: the labelled PPS edge, or the acceptance of PASS_BEGIN. -/
def frameBase (s : State) : Nat := match s.pass.gnssTime with | some e => if ppsLocked s then e.2 else s.pass.beginUs | none => s.pass.beginUs

/-- Frame of a second in which a moment lies. -/
def frameOf (s : State) (u : Nat) : Nat := (u - frameBase s) / 100000 % 10

/-- Seconds from the present one to that of a moment. -/
def secondsAhead (s : State) (u : Nat) : Nat := (u - frameBase s) / 1000000 - (s.nowUs - frameBase s) / 1000000

/-- The RID shared with. -/
def peerRid (s : State) (ch : Nat) : BitVec 16 := match (s.chan ch).foreign with | e :: _ => e.1 | [] => 0

/-- The Gorgar has the lower RID on a shared channel. -/
def ridLower (s : State) (ch : Nat) : Bool := decide ((ownRid s).toNat < (peerRid s ch).toNat)

/-- A frame of own parity in a second that is not the peer's long second: the next second's holder follows from the beacons heard so far. -/
def ownFrame (s : State) (ch u : Nat) : Bool :=
  let c := s.chan ch
  (frameOf s u % 2 == (if ridLower s ch then 0 else 1)) &&
  (match secondsAhead s u with | 0 => !c.peerLong | 1 => !(nextSecond (ownRid s) c).peerLong | _ => false)

/-- A part of an exchange within one own frame, clear of its last 2 ms. -/
def fitsFrame (s : State) (ch a b : Nat) : Bool :=
  ownFrame s ch a && decide ((a - frameBase s) % 100000 + (b - a) + 2000 ≤ 100000)

/-- A part of an exchange within the Gorgar's own long second, clear of its last 2 ms and of the peer's beacon. -/
def fitsLong (s : State) (ch a b : Nat) : Bool :=
  let pb := frameBase s + (s.nowUs - frameBase s) / 1000000 * 1000000 + (if ridLower s ch then 100000 else 0)
  (s.chan ch).ownLong && decide (secondsAhead s a = 0) && decide ((a - frameBase s) % 1000000 + (b - a) + 2000 ≤ 1000000) &&
  !meets (a, b) (pb, pb + 5000)

/-- A part of an exchange that R399 and R401 admit. -/
def airFits (s : State) (ch a b : Nat) : Bool := fitsFrame s ch a b || fitsLong s ch a b

/-- Every attempt window, with the longest reply it admits and the ACK that would answer it. -/
def attemptsFit (s : State) (x : Exch) : Bool :=
  (windowsOf x).all fun w => airFits s x.ch w.1 (w.2 + 8320 + 2050 + ackMaxUs x.kind)

/-- Whether coexistence lets a wake go out as placed (Table 16.9, R399). -/
def coexAllows (s : State) (x : Exch) : Bool :=
  match (s.chan x.ch).coex with
  | .alone => true
  | .contend =>
    decide (x.kind < 2) && decide ((x.startUs - frameBase s) % 100000 = 0) && decide (s.nowUs < x.startUs) &&
    decide (x.startUs ≤ s.nowUs + 300000)
  | .sharing =>
    (match x.kind with
     | 0 => airFits s x.ch x.startUs (wakeEnd x)
     | 1 => fitsLong s x.ch x.startUs (wakeEnd x)
     | _ => false) && attemptsFit s x

/-! ## Duty (R377) -/

/-- µs on a channel of the transmissions begun, from 3,600 s before a moment on: one on air counts to its end. -/
def dutyUsed (s : State) (khz u : Nat) : Nat :=
  s.pass.txLog.foldl (fun n e => if e.1 = khz then n + (e.2.1 + e.2.2 - max (u - 3600000000) e.2.1) else n) 0

/-- µs that open exchanges of a channel have reserved: their wakes and what is left of three longest acknowledgements each. -/
def dutyReserved (s : State) (ch : Nat) : Nat :=
  s.pass.exchs.foldl (fun n x => if x.ch = ch then n + (if x.onAir then 0 else wakeUs x.kind) + (3 * ackMaxUs x.kind - x.ackUs) else n) 0

/-- The allowance covers a transmission of `need` µs. -/
def dutyCovers (s : State) (ch need : Nat) : Bool :=
  decide (dutyUsed s (chKhz s ch) s.nowUs + dutyReserved s ch + need ≤ dutyPm s * 3600000)

/-! ## Placing (R416, R420 to R422) -/

/-- Open sessions: stakes whose exchange has not ended. -/
def sessions (s : State) : Nat :=
  s.pass.exchs.foldl (fun n x => n + (if x.kind = 3 then 1 else x.idxs.length - x.ended.length)) 0

/-- Stakes of a list become candidates (R414). -/
def becomeCands (idxs : List Nat) (s : State) : State :=
  s.modPass fun p => { p with cands := idxs.foldl (fun l i => if i ∈ l then l else l ++ [i]) p.cands }

/-- Stakes of a list are candidates no longer (R414). -/
def leaveCands (idxs : List Nat) (s : State) : State := s.modPass fun p => { p with cands := p.cands.filter fun i => !idxs.contains i }

/-- Stakes of a list pass without a wake (R414, R422). -/
def passBy (idxs : List Nat) (s : State) : State :=
  idxs.foldl (fun t i => countStat 10 (t.modPass fun p => { p with skipped := p.skipped ++ [i] })) (leaveCands idxs s)

/-- A stake out of range: a candidate leaves, counted as passed without a wake (R414). -/
def leaveRange (i : Nat) (s : State) : State := if i ∈ s.pass.cands then passBy [i] s else s

/-- An exchange of n sessions is placed, when R377, R396, R398, R399 and R422 let it. -/
def place (x : Exch) (n : Nat) (s : State) : State :=
  if 1024 < sessions s + n then (passBy x.idxs s).modPass fun p => { p with full := true }
  else if s.pass.slots < s.pass.rdgCount + sessions s + n ∨ clearOf s x.ch x.startUs (wakeEnd x) = false ∨ windowsClear s x = false then s
  else if coexAllows s x = false then
    (if x.kind = 1 ∧ (s.chan x.ch).coex = .sharing then s.setChan x.ch { s.chan x.ch with coldWanted := true } else s)
  else if dutyCovers s x.ch (wakeUs x.kind + 3 * ackMaxUs x.kind) = false then countStat 11 s
  else
    let t := s.modPass fun p => { p with exchs := p.exchs ++ [x] }
    if x.kind = 1 then t.setChan x.ch { t.chan x.ch with coldWanted := false } else t

/-- A new exchange. -/
def newExch (s : State) (idxs : List Nat) (recs : List (List Word)) (kind : Nat) (power : Int) (ch u : Nat) : Exch :=
  { idxs := idxs, recs := recs, kind := kind, power := power, ch := ch, port := s.pass.port, startUs := u
    endTime := (readerTime s).getD 0 + (u + wakeUs kind) - s.nowUs, onAir := false, replies := [], ackDue := none, enrolled := [], ended := [] }

/-- A record not whole at its first reading is read again later (R411); one that cannot be read ends its stake's part in the pass. -/
def recordUsable (s : State) (i : Nat) (r : List Word) : State × Bool :=
  if r = [] then ((countStat 14 s).modPass fun p => { p with skipped := p.skipped ++ [i] }, false)
  else if recWhole r = false ∧ i ∉ s.pass.torn then
    (if i ∈ s.pass.reread then s else s.modPass fun p => { p with reread := p.reread ++ [i] }, false)
  else (s, true)

/-- A stake that Table 17.3 skips is counted once. -/
def skipStake (i code : Nat) (s : State) : State :=
  let k := match code with | 3 => 7 | 4 => 8 | 5 => 9 | _ => 16
  if code = 7 then s else countStat k ((leaveCands [i] s).modPass fun p => { p with skipped := p.skipped ++ [i] })

/-- The wake of one candidate: targeted where the test passes at the sniff that the lead-in meets, else cold. -/
def placeOne (i : Nat) (r0 : List Word) (p : Int × Int) (ch u : Nat) (s : State) : State :=
  let r := recSeen (decide (i ∈ s.pass.torn)) r0
  if inRange s p i r = false then leaveRange i s
  else match skipCode s r with
    | some code => skipStake i code s
    | none =>
      let t := becomeCands [i] s
      let targeted := targetedAt s r u
      if targeted ∧ aligned s r u = false then t
      else place (newExch s [i] [r] (if targeted then 0 else 1) (wakePower s i r (dist2 p r)) ch u) 1 t

/-- Slot indices of the addressed stakes differ by at least 2 (R385). -/
def slotsApart : List Nat → Bool
  | [] => true
  | a :: t => (t.all fun b => decide (2 ≤ ((a : Int) - b).natAbs)) && slotsApart t

/-- The GROUP wake of several candidates (R420): the power is the highest that any of them asks for. -/
def placeGroup (idxs : List Nat) (recs : List (List Word)) (p : Int × Int) (ch u : Nat) (s : State) : State :=
  let rs := recs.map (recSeen false)
  let g := recGroup (rs.headD [])
  let ok := (idxs.zip rs).all fun e =>
    recGroup e.2 == g && recTimingOk e.2 && inRange s p e.1 e.2 && (skipCode s e.2).isNone && !targetedNext s e.2
  if g = 0 ∨ ok = false ∨ slotsApart (rs.map recSlot) = false then s
  else
    let pw := (idxs.zip rs).foldl (fun m e => max m (wakePower s e.1 e.2 (dist2 p e.2))) (pfsOf s s.pass.port - 60)
    place (newExch s idxs rs 2 (min pw (topPower s)) ch u) idxs.length (becomeCands idxs s)

/-- The DISCOVER wake (R421). -/
def placeDiscover (ch u : Nat) (s : State) : State :=
  if bit (dwOf s 11) 16 = false ∨ fld (dwOf s 11) 15 0 ≤ s.pass.discNo ∨ s.pass.travelMm / 40000 ≤ s.pass.discNo ∨
      s.pass.exchs.any (fun x => x.kind == 3) = true then s
  else place (newExch s [] [] 3 (topPower s) ch u) 1 s

/-- What a read of a record yields: none while the bridge cannot send (R204). -/
def recordRead (s : State) (r : List Word) : List Word := if canSend s then r else []

/-- Every record of a wake is read; the reads that fail or find a torn record end the attempt (R410, R411). -/
def readAll : List Nat → List (List Word) → State → State × Bool
  | i :: is, r :: rs, s =>
    let a := recordUsable (readRecord s.pass.ring i s) i (recordRead s r)
    let b := readAll is rs a.1
    (b.1, a.2 && b.2)
  | _, _, s => (s, true)

/-- A stake may be placed: it has a record, no open exchange, and the pass has not passed it by. -/
def placeable (s : State) (i : Nat) : Bool :=
  decide (i < ledgerCount s) && decide (i ∉ s.pass.skipped) && s.pass.exchs.all fun x => !(x.idxs.contains i && !x.ended.contains i)

/-- WAKE_PLACE (R416): the records as the ledger holds them (none that cannot be read), a channel, and the moment the lead-in starts. -/
def execWakePlace (idxs : List Nat) (recs : List (List Word)) (ch startUs : Nat) (s : State) : Out :=
  .next (if s.pass.isOpen = false ∨ s.pass.ending ∨ readsNow s = false ∨ nch s ≤ ch ∨ startUs < s.nowUs ∨ idxs.length ≠ recs.length ∨
      idxs.all (placeable s) = false ∨ idxs.Nodup = false ∨ (readerTime s).isNone then s
    else match positionAt s startUs with
      | none => s
      | some p =>
        match idxs, recs with
        | [], _ => placeDiscover ch startUs s
        | [i], [r] =>
          let a := readAll [i] [r] s
          if a.2 then placeOne i r p ch startUs a.1 else a.1
        | _, _ =>
          let a := readAll idxs recs s
          if a.2 ∧ idxs.any (fun i => s.pass.torn.contains i) = false then placeGroup idxs recs p ch startUs a.1 else a.1)

/-- LEDGER_REREAD (R411): 1 ms later the record is whole, or it is taken as torn. -/
def execLedgerReread (idx : Nat) (rec : List Word) (s : State) : Out :=
  .next (if s.pass.isOpen = false ∨ readsNow s = false ∨ idx ∉ s.pass.reread then s
    else
      let t := (readRecord s.pass.ring idx s).modPass fun p => { p with reread := p.reread.filter fun i => i != idx }
      if recordRead s rec = [] then (countStat 14 t).modPass fun p => { p with skipped := p.skipped ++ [idx] }
      else if recWhole rec then t else countStat 13 (t.modPass fun p => { p with torn := p.torn ++ [idx] }))

/-! ## STAKE_QUERY -/

/-- The decision code of a record at present (Table 17.3). Whether R420 permits a GROUP wake depends on records that the command
does not read: where it could, a free value decides between rows 2 and 1. -/
def queryCode (torn : Bool) (r : List Word) (s : State) : Nat × State :=
  match skipCode s r with
  | some c => (c, s)
  | none =>
    if torn then (6, s)
    else if targetedNext s r then (0, s)
    else if s.pass.isOpen && decide (recGroup r ≠ 0) && recTimingOk r then
      let f := s.freshWord
      (if bit f.1 0 then 2 else 1, f.2)
    else (1, s)

/-- The present charge estimate in 0.1 mAh; where the manual states none it is a free value: without history, below 0, or without reader
time. -/
def queryCharge (r : List Word) (s : State) : Word × State :=
  if recCap r = 0 then (0xFFFFFFFF, s)
  else match readerTime s with
    | some t =>
      let v := roundDiv (charge100 r t) 10 s
      if recLastDay r = 0 ∨ v.1 < 0 then s.freshWord else (wd v.1.toNat, v.2)
    | none => s.freshWord

/-- STAKE_QUERY (R408): `res` is what reading the record yields, the second reading where the first was not whole. -/
def execStakeQuery (n : Nat) (res : RdResult) (s : State) : Out :=
  .next (match headWith s n 0x43 with
    | none => s
    | some e =>
      let i := fld (e.dw 2) 17 0
      if s.host.ledger.isNone then completeHead n e 0x0405 0 0 s
      else if e.reservedOk 3 = false ∨ onlyBits (e.dw 2) 0x3FFFF = false ∨ ledgerCount s ≤ i then completeHead n e 0x0002 0 0 s
      else if readsNow s = false then s
      else if canSend s = false then completeHead n e 0x0005 0 0 (readRecord n i s)
      else
        let t := readRecord n i s
        match res with
        | .err st => completeHead n e 0x0005 0 0
            (logFault 0x05 1 0x0005 0x7F 2 (some n) st (ledgerAddr t i) (noteHbErr st (ledgerAddr t i) t))
        | .data ws =>
          let torn := !recWhole ws
          let r := recSeen torn ws
          let c := queryCode torn r t
          let v := queryCharge r c.2
          completeHead n e 0 (wd c.1) v.1 v.2)

end Sys2Proof.Machine
end

