-- ==== Sys2Proof/Machine/Air.lean ====
section
/-! DEFINITION. The air: checks (R382, R387), wakes, replies, acknowledgements and beacons (R376, R381 to R396, R400, R401), readers heard
(R398, R402), and what an exchange's end learns and writes (R397, R410, R423 to R426). -/

namespace Sys2Proof.Machine

open Sys2Proof

/-! ## Checks -/

/-- Eight bits of a CRC-8 register, and of a CRC-16 register. -/
def crc8Shifts (r : BitVec 8) : BitVec 8 := (List.range 8).foldl (fun q _ => if bit q 7 then (q <<< 1) ^^^ 0x07#8 else q <<< 1) r
def crc16Shifts (r : BitVec 16) : BitVec 16 := (List.range 8).foldl (fun q _ => if bit q 15 then (q <<< 1) ^^^ 0x1021#16 else q <<< 1) r

/-- CRC-8 with polynomial 0x07, initial value 0 (R382). -/
def crc8 (bs : List Byte) : BitVec 8 := bs.foldl (fun r b => crc8Shifts (r ^^^ b)) 0

/-- CRC-16 with polynomial 0x1021, initial value 0xFFFF (R387). -/
def crc16 (bs : List Byte) : BitVec 16 := bs.foldl (fun r b => crc16Shifts (r ^^^ BitVec.ofNat 16 (b.toNat * 256))) 0xFFFF

/-- n bytes of a number, most significant first. -/
def beBytes : Nat → Nat → List Byte
  | 0, _ => []
  | n + 1, v => BitVec.ofNat 8 (v / 256 ^ n) :: beBytes n v

/-- The number that bytes spell, most significant first. -/
def beNat (bs : List Byte) : Nat := bs.foldl (fun n b => 256 * n + b.toNat) 0

/-- A frame from Length to CRC (Table 16.4). -/
def frameBytes (body : List Byte) : List Byte :=
  let l := BitVec.ofNat 8 body.length :: body
  l ++ beBytes 2 (crc16 l).toNat

/-! ## Transmitting -/

/-- A transmission of `us` µs leaves on a channel, and counts against its duty (R376, R377). -/
def transmit (ch port startUs us : Nat) (power : Int) (it : AirItem) (s : State) : State :=
  s.modPass fun p =>
    { p with
      air := p.air ++ [⟨ch, port, startUs, power, amplitudeOf s port power, it⟩]
      txLog := (p.txLog.filter fun e => decide (startUs < e.2.1 + e.2.2 + 3600000000)) ++ [(chKhz s ch, startUs, us)] }

/-- The wake word (Table 16.3). -/
def wakeWord (s : State) (x : Exch) : Word :=
  let r := x.recs.headD []
  let type := if x.kind < 2 then 0 else x.kind - 1
  let target := if x.kind < 2 then recHash r else if x.kind = 2 then recGroup r else 0xFFFF
  let top := type * 32 + (ownRid s).toNat % 32
  wd (top * 2 ^ 24 + target * 2 ^ 8 + (crc8 [BitVec.ofNat 8 top, BitVec.ofNat 8 (target / 256), BitVec.ofNat 8 target]).toNat)

/-- One exchange of the pass is replaced. -/
def setExch (i : Nat) (x : Exch) (s : State) : State := s.modPass fun p => { p with exchs := p.exchs.set i x }

/-- An exchange leaves the pass. -/
def dropExch (i : Nat) (s : State) : State := s.modPass fun p => { p with exchs := p.exchs.eraseIdx i }

/-- The channel's state, which may have changed since the wake was placed, still admits it (Table 16.9, R399). -/
def coexStill (s : State) (x : Exch) : Bool :=
  match (s.chan x.ch).coex with
  | .alone => true
  | .contend => decide (x.kind < 2)
  | .sharing => coexAllows s x

/-- WAKE_START (R22, R214, R377, R381): at its moment the lead-in begins. While the front-ends are not owned the wake waits; in CONTEND carrier sensed in the
preceding 5 ms leaves the stake a candidate, and so do a state of the channel that does not admit the wake and an allowance that no longer covers it. -/
def execWakeStart (i : Nat) (noCarrier : Bool) (s : State) : Out :=
  .next (match s.pass.exchs[i]? with
    | none => s
    | some x =>
      if x.onAir ∨ s.pass.isOpen = false ∨ s.pass.ending ∨ s.twin.feOwn = false ∨ s.nowUs < x.startUs then s
      else if coexStill s x = false ∨ ((s.chan x.ch).coex = .contend ∧ noCarrier = false) then dropExch i s
      else if dutyCovers s x.ch 0 = false then dropExch i (countStat 11 s)
      else
        let t := countStat (x.kind + 1) (setExch i { x with onAir := true } s)
        let u := transmit x.ch x.port x.startUs (wakeUs x.kind) x.power (.wake (leadUs x.kind) (wakeWord s x)) t
        if x.kind = 3 then u.modPass fun p => { p with discNo := p.discNo + 1 } else u)

/-! ## Replies and acknowledgements -/

/-- Fields of a reply's frame, counted from Length (Table 16.5). -/
def repId (b : List Byte) : Nat := beNat ((b.drop 1).take 4)
def repSeq (b : List Byte) : Byte := b.getD 5 0
def repFlags (b : List Byte) : Byte := b.getD 6 0
def repRtc (b : List Byte) : Nat := beNat ((b.drop 7).take 4)
def repPayload (b : List Byte) : List Byte := (b.drop 11).take (b.length - 13)
def repUnset (b : List Byte) : Bool := bit (repFlags b) 7

/-- A frame that passes R387 as a reply to a wake of this reader (R388, R396). -/
def replyOk (s : State) (b : List Byte) : Bool :=
  let n := (b.headD 0).toNat
  decide (b.length = n + 3) && decide (20 ≤ n ∧ n ≤ 42) &&
  decide (beNat (b.drop (n + 1)) = (crc16 (b.take (n + 1))).toNat) && decide ((repFlags b).toNat % 32 = (ownRid s).toNat % 32)

/-- The place of a replying stake: its own among those addressed; beyond them for another stake. -/
def placeOf (x : Exch) (id : Nat) : Nat := x.recs.findIdx fun r => (recId r).toNat == id

/-- A frame starts within a reply window of the stake's place (R419). -/
def inWindow (x : Exch) (who at_ : Nat) : Bool :=
  (slotsOf x).zipIdx.any fun e => (x.kind == 3 || e.2 == who || decide (x.recs.length ≤ who)) && (List.range 3).any fun a =>
    let t := attemptAfter e.1 a
    let w := halfWidth x.kind (recAt x e.2) t
    decide (wakeEnd x + t ≤ at_ + w) && decide (at_ ≤ wakeEnd x + t + w)

/-- REPLY_FRAME (R387, R396, R419): received at its end, it is acknowledged, and the reading of each STAKE_ID and SEQ is kept once. While the port's RX
source clock is stopped no frame arrives. -/
def execReplyFrame (i : Nat) (bytes : List Byte) (snrDb : Int) (atUs : Nat) (s : State) : Out :=
  .next (match s.pass.exchs[i]? with
    | none => s
    | some x =>
      let who := placeOf x (repId bytes)
      let key := (wd (repId bytes), repSeq bytes)
      let rp : Reply := ⟨who, bytes, snrDb, atUs⟩
      if x.onAir = false ∨ (s.fe x.port).stalled ∨ replyOk s bytes = false ∨ inWindow x who atUs = false ∨
          s.nowUs < atUs + frameUs bytes then s
      else
        let known := decide (key ∈ s.pass.recorded)
        let mine := x.replies.any fun q => (wd (repId q.bytes), repSeq q.bytes) == key
        let counts := (decide (x.kind = 3) || decide (who < x.recs.length)) && (!known || mine)
        (setExch i { x with ackDue := some rp, replies := if counts then x.replies ++ [rp] else x.replies } s).modPass fun p =>
          { p with recorded := if known then p.recorded else p.recorded ++ [key] })

/-- Whether an acknowledgement carries ENROLL (R421, R425): for a stake whose record the exchange does not hold, a free value decides. -/
def ackEnroll (x : Exch) (rp : Reply) (s : State) : Bool × State :=
  if x.kind = 3 then (true, s)
  else match x.recs[rp.who]? with
    | some r => (recBlank r || decide (recEnrSeason r ≠ season s), s)
    | none => let f := s.freshWord; (bit f.1 0, f.2)

/-- The body of an acknowledgement (Tables 16.7 and 16.8, R425). -/
def ackBody (s : State) (x : Exch) (rp : Reply) (enroll : Bool) : List Byte :=
  let lm := listenMin s
  let unread : Bool := match x.recs[rp.who]? with | some r => recNread r == 0 | none => true
  [0x01] ++ beBytes 4 (repId rp.bytes) ++ [repSeq rp.bytes] ++ beBytes 2 (ownRid s).toNat ++ (if enroll then [0x03, 0] else []) ++
    (if lm ≠ 0 ∧ (repUnset rp.bytes ∨ unread ∨ enroll) then [0x01, 5] ++ beBytes 3 (86400 - 30 * lm) ++ beBytes 2 lm else [])

/-- ACK_SEND (R22, R393): at its moment, at the power of the wake. -/
def execAckSend (i : Nat) (s : State) : Out :=
  .next (match s.pass.exchs[i]? with
    | none => s
    | some x =>
      match x.ackDue with
      | none => s
      | some rp =>
        if s.pass.isOpen = false ∨ s.twin.feOwn = false then setExch i { x with ackDue := none } s
        else if s.nowUs < ackAt rp then s
        else
          let e := ackEnroll x rp s
          let b := frameBytes (ackBody s x rp e.1)
          let t := setExch i { x with
            ackDue := none, enrolled := if e.1 then x.enrolled ++ [rp.who] else x.enrolled, ackUs := x.ackUs + frameUs b } e.2
          transmit x.ch x.port (ackAt rp) (frameUs b) x.power (.ack b) t)

/-! ## Learning (R423, R424) -/

/-- The reader time in µs of a reply's first preamble bit. -/
def replyTime (x : Exch) (rp : Reply) : Nat := x.endTime + rp.atUs - wakeEnd x

/-- DRIFT, DRIFT_U and SUSPECT after a reading d µs after the last one: the observation is accepted, discarded, or not made. -/
def learnDrift (r : List Word) (rp : Reply) (d : Nat) (s : State) : (Int × Nat × Bool) × State :=
  if recBlank r then
    let f := s.freshWord
    ((f.1.toInt, 0xFFFF, recSuspect r), f.2)
  else if recPhaseOk r = false ∨ repUnset rp.bytes ∨ d < 3600000000 then ((recDrift r, recDriftU r, recSuspect r), s)
  else
    let delta : Nat := (repRtc rp.bytes + 2 ^ 32 - recRtc r) % 2 ^ 32
    let o := roundDiv ((delta : Int) * 10 ^ 14 - 1024 * (d : Int) * 10 ^ 8) (1024 * d) s
    if 15000 < o.1.natAbs then ((recDrift r, recDriftU r, true), o.2)
    else if recDriftU r = 0xFFFF then ((o.1, 100, false), o.2)
    else
      let e := 10 * (o.1 - recDrift r).natAbs
      let u := roundDiv ((recDriftU r : Int) + e) 2 o.2
      let drift := recDrift r + (o.1 - recDrift r).tdiv 4
      if 0xFFFF ≤ u.1 then
        let f := u.2.freshWord
        ((drift, f.1.toNat % 2 ^ 16, false), f.2)
      else ((drift, max 5 u.1.toNat, false), u.2)

/-- MARGIN_0 of a reading (R424), in half dB: a free value where the manual states none. -/
def newMargin (x : Exch) (i : Nat) (rp : Reply) (s : State) : Nat × State :=
  let f := s.freshWord
  let fr := (f.1.toNat % 256, f.2)
  match positionAt s rp.atUs, x.recs[i]? with
  | some p, some r =>
    let d := dist2 p r
    if d = 0 then fr
    else
      let l := log10 500 (d ^ 20)
      let up := if d ^ 20 = 10 ^ l then 0 else b2n (Config.roundUp s.free)
      let v : Int := 2 * (rp.snr + sgn 8 (fld (dwOf s 12) 31 24) + 78) + l - 160 + up
      if -127 ≤ v ∧ v ≤ 127 then ((v % 256).toNat, { s with free := s.free + 1 }) else fr
  | _, _ => fr

/-- The cumulative energy that a payload reports (Table 16.6); a payload that does not follow the table reports a free value. -/
def repEnergy (b : List Byte) (s : State) : Nat × State :=
  let p := repPayload b
  let nm := (p.headD 0).toNat
  if nm ≤ 4 ∧ 10 + 2 * nm ≤ p.length then (beNat ((p.drop (2 * nm + 5)).take 3), s)
  else let f := s.freshWord; (f.1.toNat % 2 ^ 24, f.2)

/-- DAILY after a reading d µs after the last one (R424). -/
def learnDaily (r : List Word) (energy d : Nat) (s : State) : Nat × State :=
  if recBlank r ∨ d = 0 then let f := s.freshWord; (f.1.toNat % 256, f.2)
  else if energy < recEnergy r then (recDaily r, s)
  else
    let q := roundDiv (recDaily r * d + 10 * (energy - recEnergy r) * 86400000000 : Nat) (2 * d) s
    (min 255 q.1.toNat, q.2)

/-- The record after a reading. -/
def learn (x : Exch) (i : Nat) (r : List Word) (rp : Reply) (s : State) : List Word × State :=
  let t := replyTime x rp
  let d := t - recLastUs r
  let a := learnDrift r rp d s
  let m := newMargin x i rp a.2
  let e := repEnergy rp.bytes m.2
  let y := learnDaily r e.1 d e.2
  let f := y.2.freshWord
  let chg := if e.1 ≤ recCap r then recCap r - e.1 else f.1.toNat % 2 ^ 24
  let flags := putBit (putBit (putBit (putBit (nthW r 5) 8 false) 9 a.1.2.2) 11 true) 12 true
  let en := if x.enrolled.contains i then season s else recEnrSeason r
  ([nthW r 0, nthW r 1, nthW r 2, nthW r 3, nthW r 4, putFld flags 16 16 (t / 86400000000), wd (t / 1000 % 86400000),
    wd (repRtc rp.bytes), BitVec.ofInt 32 a.1.1, fields [(a.1.2.1, 0), (min 255 (recNread r + 1), 16), (en, 24)],
    (nthW r 10 <<< 8) ||| wd m.1, wd (x.power % 256).toNat, nthW r 12, wd e.1, fields [(chg, 0), (y.1, 24)], nthW r 15],
   if e.1 ≤ recCap r then y.2 else f.2)

/-- The record after an exchange without a reading: 0x80 shifts into the margins, and a targeted wake unanswered clears PHASE_OK. -/
def learnNone (x : Exch) (r : List Word) : List Word :=
  let r1 := if x.kind = 0 then setNth r 5 (putBit (nthW r 5) 11 false) else r
  setNth (setNth r1 10 ((nthW r 10 <<< 8) ||| 0x80)) 11 (wd (x.power % 256).toNat)

/-! ## Write-back (R410, R426) -/

/-- A write to host memory for a ring, charged to its account. -/
def hostWrite (ring a : Nat) (ws : List Word) (ns : Bool) (s : State) : State :=
  if canSend s then chargeDma (s.ring ring).acct.toNat (4 * ws.length) (sendTlp (.write a ws ns) s) else s

/-- A record is written back under R410: S, the body, S. -/
def writeBack (idx : Nat) (r : List Word) (s : State) : State :=
  let a := ledgerAddr s idx
  let q := recTail r + 1
  let ns := ledgerNs s idx
  hostWrite s.pass.ring (a + 60) [q] ns (hostWrite s.pass.ring (a + 4) ((r.drop 1).take 14) ns (hostWrite s.pass.ring a [q] ns s))

/-- Bytes as words, least address first, padded with zeros to n words. -/
def packWords : Nat → List Byte → List Word
  | 0, _ => []
  | n + 1, bs => wd (((bs.take 4).zipIdx).foldl (fun v e => v + e.1.toNat * 256 ^ e.2) 0) :: packWords n (bs.drop 4)

/-- The next reading record is written, and the slot taken (R23, R426, Table 17.4); with no slot free it waits for RDG_HEAD, and while the bridge
cannot send it waits for the bridge (R204). -/
def putReading (ws : List Word) (s : State) : State :=
  let p := s.pass
  if p.held ≠ [] ∨ p.slots ≤ p.rdgCount ∨ canSend s = false then s.modPass fun q => { q with held := q.held ++ [ws] } else
  let n := fld (dwOf s 12) 7 0
  let a := hostAddr s n ((dwOf s 13).toNat + 64 * p.slot)
  (hostWrite p.ring a (setNth ws 1 (putBit (nthW ws 1) 31 p.phase)) (s.win n).ns s).modPass fun q =>
    if q.slot + 1 < q.slots then { q with slot := q.slot + 1, rdgCount := q.rdgCount + 1 }
    else { q with slot := 0, phase := !q.phase, rdgCount := q.rdgCount + 1 }

/-- Word 5 of a reading record: MARGIN_0, channel and port, payload bytes. -/
def readingWord5 (x : Exch) (margin len : Nat) : Word := fields [(margin, 0), (x.ch, 8), (x.port, 12), (len, 16)]

/-- The reading record of a reply (Table 17.4): `last` is the last attempt received. -/
def readingOf (x : Exch) (rp last : Reply) (record margin : Nat) (unknown : Bool) : List Word :=
  let t := replyTime x rp
  let b := rp.bytes
  [wd (repId b), fields [(record, 0), (b2n unknown, 30)], wd (t / 86400000000 % 2 ^ 16 * 2 ^ 16), wd (t / 1000 % 86400000),
   fields [((repSeq b).toNat, 0), ((repFlags b).toNat, 8), (x.kind + fld (repFlags last.bytes) 6 5 * 4, 16), ((x.power % 256).toNat, 24)],
   readingWord5 x margin (repPayload b).length, wd (repRtc b), 0] ++ packWords 8 (repPayload b)

/-- The reading record of an exchange without a reading: SEQ, FLAGS and RTC, of which the manual says nothing, are free values. -/
def readingNone (x : Exch) (idx status : Nat) (r : List Word) (s : State) : List Word × State :=
  let f := s.freshWord
  let g := f.2.freshWord
  ([recId r, wd idx, wd (status + x.endTime / 86400000000 % 2 ^ 16 * 2 ^ 16), wd (x.endTime / 1000 % 86400000),
    fields [(fld f.1 15 0, 0), (x.kind + 2 * 4, 16), ((x.power % 256).toNat, 24)], readingWord5 x 0x80 0, g.1, 0] ++ List.replicate 8 0, g.2)

/-- The statistics block of a pass is written and PASS_END completes; the pass closes once its entry is written (R22, R23, R407, Table 17.5). -/
def finishPass (s : State) : State :=
  let p := s.pass
  match startedEnt s p.ring p.cmd with
  | none => settlePass s
  | some e =>
    let w := fld (e.dw 2) 7 0
    let t := if w = 0xFF then s
      else hostWrite p.ring (hostAddr s w (e.dw 3).toNat) ((List.range 16).map fun i => tget 0 p.stats i) (s.win w).ns s
    settlePass (endCommand p.ring p.cmd 0 (tget 0 p.stats 0) (tget 0 p.stats 10) t)

/-- The statistics block of the PASS_END under way can be written: the bridge may send, or none is asked for (R204, R407). -/
def statsReady (s : State) : Bool :=
  canSend s || (startedEnt s s.pass.ring s.pass.cmd).all fun e => fld (e.dw 2) 7 0 == 0xFF

/-- With no exchange open and no reading unwritten, a PASS_END that waits goes on (R23, log 111). -/
def passWaits (s : State) : State :=
  if s.pass.isOpen && s.pass.ending && s.pass.exchs.isEmpty && s.pass.held.isEmpty && statsReady s then finishPass s else s

/-- Readings that wait are written as far as slots are free. -/
def flushReadings (s : State) : State := s.pass.held.foldl (fun t ws => putReading ws t) (s.modPass fun p => { p with held := [] })

/-- The exchange has ended for the stake at place i. -/
def endPlace (n i : Nat) (x : Exch) (s : State) : State :=
  let y := { x with ended := x.ended ++ [i] }
  passWaits (if y.ended.length < y.idxs.length then setExch n y s else dropExch n s)

/-- An addressed stake's exchange ends: learning, write-back, then the reading record (R397, R426). -/
def endStake (n i : Nat) (x : Exch) (syncSeen wbOk : Bool) (s : State) : State :=
  let idx := x.idxs.getD i 0
  let r := recAt x i
  let mine := x.replies.filter fun q => q.who == i
  let back := fun (w : List Word) (t : State) =>
    (if wbOk then writeBack idx w t else countStat 14 t).modPass fun p => { p with torn := if wbOk then p.torn.filter (· != idx) else p.torn }
  match mine with
  | rp :: _ =>
    let l := learn x i r rp s
    endPlace n i x (countStat 0 (putReading (readingOf x rp (mine.getLastD rp) idx (recMargin l.1 0) false) (leaveCands [idx] (back l.1 l.2))))
  | [] =>
    let st := if syncSeen then 0x0402 else 0x0401
    let t := back (learnNone x r) s
    let q := readingNone x idx st r t
    endPlace n i x (countStat (if syncSeen then 6 else 5) ((putReading q.1 q.2).modPass fun p => { p with unanswered := p.unanswered ++ [idx] }))

/-- Replies of different stakes or SEQs, each once. -/
def distinctReplies (l : List Reply) : List Reply :=
  l.foldl (fun acc q => if acc.any fun a => repId a.bytes == repId q.bytes && repSeq a.bytes == repSeq q.bytes then acc else acc ++ [q]) []

/-- A stake that answered a DISCOVER wake and has a ledger record is read as any other: its record learns and is written back, and the reading names
it (R426). -/
def readKnown (idx : Nat) (r0 : List Word) (x : Exch) (rp last : Reply) (wbOk : Bool) (s : State) : State :=
  let r := recSeen (!recWhole r0) r0
  let y := { x with idxs := [idx], recs := [r], enrolled := [0] }
  let l := learn y 0 r rp (readRecord s.pass.ring idx s)
  let t := if wbOk then writeBack idx l.1 l.2 else countStat 14 l.2
  countStat 0 (putReading (readingOf y rp last idx (recMargin l.1 0) false) (leaveCands [idx] t))

/-- A DISCOVER exchange ends: a reading record for each stake that replied, which is unknown unless the ledger holds its STAKE_ID (R426). -/
def endDiscover (n : Nat) (x : Exch) (wbOk : Bool) (found : List (Nat × List Word)) (s : State) : State :=
  let t := (distinctReplies x.replies).foldl (fun u rp =>
    let last := (x.replies.filter fun q => repId q.bytes == repId rp.bytes).getLastD rp
    match found.find? fun e => (recId e.2).toNat == repId rp.bytes && decide (e.1 < ledgerCount s) && canSend s with
    | some e => readKnown e.1 e.2 x rp last wbOk u
    | none =>
      let m := newMargin x 0 rp u
      countStat 15 (countStat 0 (putReading (readingOf x rp last 0 m.1 true) m.2))) s
  passWaits (dropExch n t)

/-- The end of the last window of an exchange: of the stake at place i, or of every slot of a DISCOVER wake. -/
def lastWindow (x : Exch) (i : Nat) : Nat :=
  (slotsOf x).zipIdx.foldl (fun m e =>
    let t := attemptAfter e.1 2
    if x.kind = 3 ∨ e.2 = i then max m (wakeEnd x + t + halfWidth x.kind (recAt x e.2) t) else m) 0

/-- EXCHANGE_END (R397): after the last attempt window of the stake at place i, and after the ACK that is due; `found` are the ledger's records of
stakes that answered a DISCOVER wake. An exchange whose front-ends have gone to the twin is lost, and its stakes stay candidates. -/
def execExchangeEnd (n i : Nat) (syncSeen wbOk : Bool) (s : State) (found : List (Nat × List Word) := []) : Out :=
  .next (match s.pass.exchs[n]? with
    | none => s
    | some x =>
      if x.onAir = false ∨ s.pass.isOpen = false ∨ x.ackDue.isSome ∨ s.nowUs < lastWindow x i then s
      else if s.twin.feOwn = false then passWaits (dropExch n s)
      else if x.kind = 3 then endDiscover n x (wbOk && canSend s) found s
      else if x.idxs.length ≤ i ∨ i ∈ x.ended then s
      else endStake n i x syncSeen (wbOk && canSend s) s)

/-! ## Beacons and other readers -/

/-- The frame of each second in which the Gorgar beacons on a channel (R400). -/
def beaconFrame (s : State) (ch : Nat) : Nat := if (s.chan ch).coex = .sharing ∧ ridLower s ch = false then 1 else 0

/-- A beacon of `us` µs may start now (R396, R399, R400): at the start of its frame, or, while a wake or an exchange is under way in ALONE, in the
first free 3 ms of that frame. -/
def beaconMay (s : State) (ch us : Nat) : Bool :=
  let off := (s.nowUs - frameBase s) % 100000
  let late := decide ((s.chan ch).coex = .alone) && s.pass.exchs.any fun x => x.ch == ch && x.onAir
  let need := if off = 0 then us else 3000
  (frameOf s s.nowUs == beaconFrame s ch) && (decide (off = 0) || late) && decide (off + need + 2000 ≤ 100000) &&
  clearOf s ch s.nowUs (s.nowUs + need) && noneUnderWay s ch s.nowUs (s.nowUs + need)

/-- BEACON_SEND (R376, R377, R389, R396, R400, R401): at the start of frame 0, or of frame 1 for the higher RID in SHARING, when duty, the wakes and
the channel's open windows let it. -/
def execBeaconSend (ch : Nat) (s : State) : Out :=
  let c := s.chan ch
  let sharing := decide (c.coex = .sharing)
  let ask := sharing && c.coldWanted && !c.ownLong && !c.peerLong
  let flags := b2n (ppsLocked s) + 2 * b2n sharing + 4 * b2n (decide (c.coex = .contend)) + 8 * b2n ask
  let b := frameBytes ([0x02] ++ beBytes 2 (ownRid s).toNat ++ [BitVec.ofNat 8 (beaconFrame s ch), BitVec.ofNat 8 flags] ++
    beBytes 2 (if sharing then (peerRid s ch).toNat else 0))
  .next (if s.pass.isOpen = false ∨ nch s ≤ ch ∨ s.twin.feOwn = false ∨ beaconMay s ch (frameUs b) = false ∨
      dutyCovers s ch (frameUs b) = false then s
    else transmit ch s.pass.port s.nowUs (frameUs b) (topPower s) (.beacon b) (s.setChan ch { c with ownAsked := ask }))

/-- FOREIGN_READER_FRAME (R398, R401, R402): a reader frame that passes R387; of a beacon its FRAME, FLAGS and PEER. A RID equal to the
Gorgar's own is counted as a duplicate. -/
def execForeignReaderFrame (ch : Nat) (rid : BitVec 16) (beacon : Option (BitVec 8 × BitVec 8 × BitVec 16)) (s : State) : Out :=
  .next (if s.pass.isOpen = false ∨ nch s ≤ ch then s
    else
      let c := s.chan ch
      let first := (heardNow s ch).all fun e => e.1 != rid
      let old := (heardNow s ch).any fun e => e.1 == rid && e.2.2
      let pps := match beacon with | some b => bit b.2.1 0 | none => old
      let asks := match beacon with | some b => bit b.2.1 3 && decide (c.coex = .sharing) | none => false
      let t := s.setChan ch
        { c with foreign := (heardNow s ch).filter (fun e => e.1 != rid) ++ [(rid, s.nowUs, pps)], peerAsked := c.peerAsked || asks }
      let u := if rid = ownRid s ∧ first then countStat 12 t else t
      u.setChan ch { u.chan ch with coex := coexWith u ch })

/-- COEX_QUIET_TIMEOUT (R398): no frame of a foreign reader for 5 s. -/
def execCoexQuietTimeout (ch : Nat) (s : State) : Out :=
  .next (if nch s ≤ ch ∨ heardNow s ch ≠ [] then s else s.setChan ch {})

/-- FE_TX_STALL (Table 20.3, chapter 16 "When things go wrong"): a stall of more than 10 ms during a transmission is reported, and the pass
moves to the other port if PORTS allows. -/
def execFeTxStall (p : Nat) (s : State) : Out :=
  .next (if 2 ≤ p ∨ s.pass.isOpen = false ∨ s.pass.port ≠ p ∨ (s.fe p).stalled = false then s
    else
      let t := logFault 0x11 1 0 0x7F (23 + p) none 0 0 s
      if bit (dwOf s 2) (8 + (1 - p)) then t.modPass fun q => { q with port := 1 - p } else t)

/-! ## Session commands -/

/-- The fields of PASS_BEGIN are in the ranges of Tables 16.1 and 17.1 (R373, R374). -/
def passFieldsOk (e : SqEnt) : Bool :=
  let n := fld (e.dw 2) 2 0
  let sr := fld (e.dw 2) 14 12
  let lo := (e.dw 3).toNat
  e.reservedOk 16 && onlyBits (e.dw 2) 0xFFFF7307 && decide (1 ≤ n ∧ n ≤ 4) && decide (fld (e.dw 2) 9 8 ≠ 0) && decide (1 ≤ sr ∧ sr ≤ 4) &&
  decide (1 ≤ fld (e.dw 2) 31 16 ∧ fld (e.dw 2) 31 16 ≤ 0xFFFE) &&
  ((List.range 4).all fun i =>
    let c := (e.dw (4 + i)).toNat
    if i < n then decide (((c : Int) - lo).natAbs + 100 ≤ 400 * 2 ^ sr) else c == 0) &&
  onlyBits (e.dw 8) 0xFFFFFF && onlyBits (e.dw 9) 0xFFFF && decide (1 ≤ fld (e.dw 9) 15 0 ∧ fld (e.dw 9) 15 0 ≤ 1000) &&
  onlyBits (e.dw 11) 0xFFF3FFFF && decide (fld (e.dw 11) 31 20 ≤ 1440) && onlyBits (e.dw 12) 0xFF001FFF &&
  decide (4 ≤ fld (e.dw 12) 12 8 ∧ fld (e.dw 12) 12 8 ≤ 14) && decide ((e.dw 13).toNat % 64 = 0)

/-- A window permitted to a ring, valid, with the rights asked, that covers a stretch (R194, R405, R407). -/
def windowOk (s : State) (n w off len : Nat) (rd : Bool) : Bool :=
  let q := s.win w
  q.v && (!rd || q.rd) && q.wr && decide (off + len ≤ 2 ^ q.size) && decide (w ∈ (tget {} s.prot.map.rings n).win)

/-- The pass opens for ring n with the parameters DW2 to DW15. -/
def openPass (n : Nat) (dws : List Word) (s : State) : State :=
  s.modPass fun p =>
    { isOpen := true, ring := n, dws := dws, beginUs := s.nowUs
      port := if bit (nthW dws 0) 8 then 0 else 1
      slots := 2 ^ fld (nthW dws 10) 12 8
      speed := p.speed, heading := p.heading, hostTime := p.hostTime, gnssTime := p.gnssTime, txLog := p.txLog, air := p.air }

/-- PASS_BEGIN (R404, R405). -/
def execPassBegin (n : Nat) (s : State) : Out :=
  .next (match headWith s n 0x40 with
    | none => s
    | some e =>
      if s.pass.isOpen then completeHead n e 0x0404 0 0 s
      else if s.host.ledger.isNone then completeHead n e 0x0405 0 0 s
      else if passFieldsOk e = false then completeHead n e 0x0002 0 0 s
      else if windowOk s n (fld (e.dw 12) 7 0) (e.dw 13).toNat (64 * 2 ^ fld (e.dw 12) 12 8) true = false then completeHead n e 0x0004 0 0 s
      else
        let t := openPass n ((e.ws.drop 2).take 14) s
        completeHead n e 0 (wd (ledgerCount s)) 0 (journal 2 (sendShadow (.pass t.pass.dws true n) t)))

/-- The TIME of a PASS_UPDATE is taken, and the RTC loaded from it, when neither GNSS time nor a valid RTC is present (R406, R436). -/
def takeTime (e : SqEnt) (s : State) : State × Bool :=
  if bit (e.dw 2) 1 ∧ 2 ≤ timeSource s then
    let t : RTime := ⟨fld (e.dw 6) 15 0, (e.dw 7).toNat⟩
    (loadRtc t.us (s.modPass fun p => { p with hostTime := some (t, s.nowUs) }), true)
  else (s, false)

/-- POS, HEAD and RDG_HEAD of a PASS_UPDATE apply (R406, R426). -/
def applyUpdate (e : SqEnt) (s : State) : State :=
  let pos : Int × Int × Nat := ((e.dw 3).toInt, (e.dw 4).toInt, s.nowUs)
  let t := if bit (e.dw 2) 0 then (addTravel pos s).modPass fun p => { p with posHost := some pos } else s
  let u := if bit (e.dw 2) 2 then t.modPass fun p => { p with speed := fld (e.dw 5) 15 0, heading := (e.dw 5).extractLsb' 16 16 } else t
  let h := fld (e.dw 8) 13 0
  flushReadings (u.modPass fun p => { p with rdgHead := h, rdgCount := p.rdgCount - ringSpan p.slots p.rdgHead h })

/-- PASS_UPDATE (R404, R406, R422): readings that waited for RDG_HEAD are written, and a PASS_END that waited for them goes on. -/
def execPassUpdate (n : Nat) (s : State) : Out :=
  .next (match headWith s n 0x41 with
    | none => s
    | some e =>
      if s.pass.isOpen = false ∨ s.pass.ring ≠ n then completeHead n e 0x0403 0 0 s
      else if e.reservedOk 9 = false ∨ onlyBits (e.dw 2) 7 = false ∨ onlyBits (e.dw 6) 0xFFFF = false ∨ onlyBits (e.dw 8) 0x3FFF = false ∨
          86400000 ≤ (e.dw 7).toNat ∨ s.pass.slots ≤ fld (e.dw 8) 13 0 then completeHead n e 0x0002 0 0 s
      else
        let t := takeTime e (applyUpdate e s)
        let u := if t.1.pass.full then completeHead n e 0x0406 (wd (b2n t.2)) 0 (t.1.modPass fun p => { p with full := false })
          else completeHead n e 0 (wd (b2n t.2)) 0 t.1
        if s.pass.held = [] then u else passWaits u)

/-- Candidates whose exchange is not under way: what PASS_END passes by (R407, R414). -/
def idleCands (s : State) : List Nat :=
  s.pass.cands.filter fun i => s.pass.exchs.all fun x => !(x.onAir && x.idxs.contains i && !x.ended.contains i)

/-- PASS_END (R404, R407): no new wake starts; candidates without an exchange under way are passed by; open exchanges run on. -/
def execPassEnd (n : Nat) (s : State) : Out :=
  .next (match headWith s n 0x42 with
    | none => s
    | some e =>
      let w := fld (e.dw 2) 7 0
      if s.pass.isOpen = false ∨ s.pass.ring ≠ n ∨ s.pass.ending then completeHead n e 0x0403 0 0 s
      else if e.reservedOk 4 = false ∨ onlyBits (e.dw 2) 0xFF = false ∨ (e.dw 3).toNat % 64 ≠ 0 then completeHead n e 0x0002 0 0 s
      else if w ≠ 0xFF ∧ windowOk s n w (e.dw 3).toNat 64 false = false then completeHead n e 0x0004 0 0 s
      else
        let t := passBy (idleCands s) (startHead n e s)
        passWaits (t.modPass fun p => { p with ending := true, cmd := e.cmd, exchs := p.exchs.filter fun x => x.onAir }))

end Sys2Proof.Machine
end

