-- ==== Sys2Proof/Machine/Resync.lean ====
section
/-! DEFINITION. Writes of a host buffer by the firmware (R201, R305), the Resync Summary Block (R319, R320), and what starts, ends and
undoes a resync (R317, R318, R322); RING_RESET (R307). -/

namespace Sys2Proof.Machine

open Sys2Proof

/-! ## Host buffers -/

/-- Words written from a host address on, cut at 4 KiB and at the effective MPS (R201), and charged to ACCT_0 (R305). -/
def writeBuffer : Nat → Nat → List Word → State → State
  | 0, _, _, s => s
  | f + 1, a, ws, s =>
    if ws.isEmpty then s
    else
      let k := max 4 (min (4096 - a % 4096) (min 256 s.host.mps)) / 4
      writeBuffer f (a + 4 * k) (ws.drop k) (chargeDma 0 (4 * (ws.take k).length) (sendTlp (.write a (ws.take k)) s))

/-- A buffer is written for a command: DATA_ERROR while the bridge cannot send (R204, R305). -/
def bufferOut (a : Nat) (ws : List Word) (s : State) : State × Bool :=
  if canSend s then (writeBuffer ws.length a ws s, true) else (noteHbErr 5 a s, false)

/-- Read requests for a host buffer, each through a tag that is free, cut at 4 KiB and at the effective MRRS, and charged to ACCT_0 (R197, R201,
R305). -/
def readBuffer : Nat → Nat → Nat → State → State
  | 0, _, _, s => s
  | f + 1, a, len, s =>
    if len = 0 then s
    else
      let k := min len (max 4 (min (4096 - a % 4096) (min 512 s.host.mrrs)))
      readBuffer f (a + k) (len - k) (chargeDma 0 k (sendTlp (.read ((dmaTag s).getD 8) a k) s))

/-- A buffer is read for a command: its words, or DATA_ERROR, logged (R198, R305). -/
def bufferIn (a len : Nat) (r : RdResult) (s : State) : State × Option (List Word) :=
  if canSend s = false then (noteHbErr 5 a s, none)
  else
    let t := readBuffer (len / 4 + 1) a len s
    match r with
    | .data ws => (t, some (ws.take (len / 4)))
    | .err st => (logFault 0x05 1 0x0005 0x7F 2 (some 0) st a (noteHbErr st a t), none)

/-! ## The block -/

/-- A 64-bit value as two words, low first. -/
def two (n : Nat) : List Word := [wd n, wd (n / 2 ^ 32)]

/-- A list of words filled with zeros to n. -/
def padTo (n : Nat) (ws : List Word) : List Word := ws ++ List.replicate (n - ws.length) 0

def idWords : List Word := [0x1625, 0xB0, serialLo, serialHi]

/-- Header (Table 13.5). -/
def blockHeader (s : State) (src : Nat) : List Word :=
  padTo 64 ([0x5E7A1625, wd (1 + 0xC000 * 2 ^ 16), fields [(s.host.resyncSeq.toNat, 0), (src, 16)], 0] ++ idWords ++
    [bootStatus s, devStatus s, wd s.host.fatalCode.toNat] ++ two s.hearth.rtc.toNat ++
    [wd (timeSource s), clkStatus s, millStatus s, cxStatus s, wd s.host.sessionCores.toNat,
     fields [(b2n s.pass.isOpen, 0), (sessions s, 16)], wd (ledgerCount s)])

def RingState.code : RingState → Nat
  | .absent => 0
  | .active => 1
  | .stopped => 2
  | .failed => 3

/-- A ring record (Table 13.6). -/
def ringRecord (r : Ring) : List Word :=
  if r.st = .absent then [0, 0, 0, 0]
  else
    let cmd := match r.started with | q :: _ => q.cmd.toNat | [] => 0
    [fields [(r.st.code, 0), (b2n r.order, 2), (r.log2n, 4), (r.epoch.toNat, 8), (r.acct.toNat, 16), (r.vector.toNat, 24)],
     fields [(r.sqHead, 0), (r.sqTail, 16)], fields [(r.cqHead, 0), (r.cqTail, 16), (b2n r.phase, 28)],
     fields [(r.started.length, 0), (b2n r.latched, 8), (cmd, 16)]]

def CtxState.code : CtxState → Nat
  | .halted => 0
  | .run => 1
  | .wait => 2
  | .long => 3
  | .parked => 4

/-- A context record (Table 13.7). -/
def ctxRecord (s : State) (c : Nat) : List Word :=
  let x := s.ctx c
  let j := x.job.getD (0, 0, 0)
  [fields [(x.st.code, 0), (b2n (s.core (coreOf c)).det, 3), (b2n x.inh, 4), (b2n x.hold.isSome, 5), (x.acct.toNat, 8), (j.1, 16),
     (b2n x.job.isSome, 26)],
   wd x.pc.toNat, x.evWmask, fields [(j.2.1.toNat, 0), (x.trapCause.toNat, 16)]]

/-- An account record. -/
def acctRecord (s : State) (a : Nat) : List Word := ([0, 6, 7, 8, 9, 5, 14].map (acctReg s a)) ++ [0]

/-- A tag record from the op's GO word: in flight, started, RLANE, OP, ACC, core, context, and its account. -/
def tagWords (c : Nat) (go : Word) (acct : BitVec 6) (started : Bool) : List Word :=
  [fields [(1, 0), (b2n started, 1), (b2n (bit go 8), 2), (fld go 3 0, 3), (fld go 6 4, 7), (coreOf c, 10), (ctxIx c, 15)], wd acct.toNat]

/-- The record of Cauldron tag i. -/
def tagRecord (s : State) (i : Nat) : List Word :=
  match s.cx.ops.find? fun o => o.tag == i with
  | some o => tagWords o.c o.go o.acct o.started
  | none =>
    match allCtxs.findSome? fun c => ((s.ctx c).recs.find? fun r => r.tag == some i).map fun r => (c, r) with
    | some e => tagWords e.1 e.2.go e.2.acct true
    | none => [0, 0]

/-- Seconds of lockout left (R368), a part of one counted as one. -/
def lockoutLeft (s : State) : Nat := match s.prot.lockout with | some u => (u + 600000000 - s.nowUs + 999999) / 1000000 | none => 0

/-- Twin, protection and calibration (Table 13.8). -/
def blockUnits (s : State) : List Word :=
  let p := s.prot
  padTo 48 (padTo 32 (padTo 16
    ([fields [(s.twin.st.role, 0), (b2n s.twin.lanesUp, 2), (b2n s.twin.detached, 3), (b2n s.fab.sbStale, 4)]] ++
      two s.twin.peerSerial.toNat ++ [wd s.twin.wah.length]) ++
    two p.epoch.toNat ++ two p.pNum.toNat ++
    [fields [(b2n p.isDefault, 0), (b2n p.keyH.isSome, 1), (b2n p.keyF.isSome, 2), (b2n p.keyI.isSome, 3), (b2n p.pend.isSome, 4),
      (b2n p.lockout.isSome, 5)], wd (lockoutLeft s)]) ++
    [fields [(b2n s.clk.calDefaults, 0), (b2n s.boot.calValid, 1)], wd s.boot.eraseCount])

/-- The slot of the last good journal entry, with its SEQ: the newer of the valid slots; the one being written is not. -/
def lastJournal (s : State) : Word × Bool :=
  if jnlValid s false && (!jnlValid s true || seqNewer (jnlWord s false 1) (jnlWord s true 1)) then (jnlWord s false 1, false)
  else if jnlValid s true then (jnlWord s true 1, true)
  else (0, false)

/-- Hearth status and the copy of the retention SRAM (Tables 13.4 and 13.8). -/
def blockHearth (s : State) : List Word :=
  let j := lastJournal s
  padTo 64 [fields [(s.hearth.hstate.toNat, 0), (b2n s.hearth.rtcValid, 2)], j.1, wd (b2n j.2)] ++ readWords s.hearth.journal 0 2048

/-- The words of a log entry as they read: all ones once it is bad (R520). -/
def LogEnt.read (e : LogEnt) : List Word := if e.bad then List.replicate 8 0xFFFFFFFF else e.ws

/-- The recent faults, newest first. -/
def blockFaults (s : State) : List Word := padTo 512 ((s.faults.log.reverse.map LogEnt.read).flatten)

/-- The block without its trailer word: 0x0000 to 0xBFFB (Table 13.4). -/
def resyncBlock (s : State) (src : Nat) : List Word :=
  let body := blockHeader s src ++ ((List.range 1024).map fun n => ringRecord (s.ring n)).flatten ++
    (allCtxs.map (ctxRecord s)).flatten ++ ((List.range 64).map (acctRecord s)).flatten ++ ((List.range 32).map (tagRecord s)).flatten ++
    blockUnits s ++ blockHearth s ++ blockFaults s ++ List.replicate 4604 0
  body ++ [crc32 body, 0, 0]

/-! ## Resync -/

/-- Quiescing: every ACTIVE ring but RING_0 enters STOPPED (R284, R318). -/
def quiesce (s : State) : State :=
  s.modHost fun h => { h with rings := h.rings.map fun e =>
    if e.1 ≠ 0 ∧ e.2.st = .active then (e.1, { e.2 with st := .stopped, latched := false }) else e }

/-- The end of a resync: the trailer word, the admin command's completion or the takeover's, whose message vector 0 carries, and vector 0
alone where no message of theirs leaves (R294, R319, R340). When the block could not be written neither trailer nor message follows. -/
def endResync (ok : Bool) (s : State) : State :=
  let h := s.host
  let cmd := (s.ring 0).started.find? fun q => q.ent.opcode == 0x14
  let t := if ok then sendTlp (.write (h.resyncAddr + 0xBFFC) [wd (0x5E7A * 2 ^ 16 + h.resyncSeq.toNat)]) s else s
  let u := match cmd with
    | some q => endCommand 0 q.cmd (if ok then 0 else 0x0005) 0 0 t
    | none => t
  let v := if h.resyncSrc = 2 then
      postTakeover (if ok then wd h.resyncSeq.toNat else 0) (wd (u.twin.rerun + u.twin.aborted * 2 ^ 16)) u
    else u
  let quiet := match cmd with | some q => q.ent.noint | none => true
  (if ok && quiet && decide (h.resyncSrc ≠ 2) then sendMsix 0 v else v).modHost fun h => { h with resyncBusy := false, resyncUs := 0 }

/-- A descriptor read is under way. -/
def descReads (s : State) : Bool :=
  s.fab.tags.any fun e => match e.2 with
    | some t => (match t.use with | .desc _ _ _ => !t.dead | _ => false)
    | none => false

/-- Steps 2 to 4 (R319): the block is captured once the descriptor reads under way at the trigger have ended, 4 ht after it at the latest, and
written; a bridge that may not send ends the resync. -/
def captureResync (s : State) : State :=
  let h := s.host
  if h.resyncBusy = false ∨ h.captured then s
  else if canSend s = false then endResync false s
  else if descReads s ∧ 4878 < h.resyncUs then s
  else writeBuffer 12288 h.resyncAddr (resyncBlock s h.resyncSrc) (s.modHost fun h => { h with captured := true })

/-- A resync begins: intake is quiesced and the block captured; its trailer follows 164 ht after the trigger (R318, R319). -/
def startResync (addr src : Nat) (s : State) : State :=
  captureResync ((quiesce s).modHost fun h =>
    { h with
      resyncBusy := true, resyncSeq := h.resyncSeq + 1, resyncAddr := addr, resyncSrc := src, resyncUs := 5000, captured := false })

/-- 1 µs of a resync under way (Table 13.3); a device-fatal fault ends it without a trailer. -/
def resyncTick (s : State) : State :=
  let h := s.host
  if h.resyncBusy = false then s
  else if h.fatal then s.modHost fun h => { h with resyncBusy := false, resyncUs := 0 }
  else if canSend s = false then endResync false s
  else if h.resyncUs ≤ 1 then endResync true s
  else captureResync (s.modHost fun h => { h with resyncUs := h.resyncUs - 1 })

/-- RESYNC_ADDR. -/
def resyncAddrOf (s : State) : Nat := cat64 (s.host.resyncLo &&& 0xFFFF0000) s.host.resyncHi

/-- A write of RESYNC_DB (R274, R317); one that starts a resync raises line 1 of S (R150, log 116). -/
def writeResyncDb (w : Word) (s : State) : State :=
  if hostOpen s = false ∨ bit w 0 = false ∨ s.host.resyncBusy then s
  else if resyncAddrOf s = 0 then badDoorbell 0 0x2000 1 s
  else startResync (resyncAddrOf s) 1 (raiseLine 16 1 s)

/-- RESYNC_DB: `bad` are entries of the fabric error log that the block's reading finds with wrong parity (R520, log 73). -/
def execResyncDb (w : Word) (s : State) (bad : List Nat := []) : Out :=
  .next (writeResyncDb w (if hostOpen s ∧ bit w 0 ∧ s.host.resyncBusy = false ∧ resyncAddrOf s ≠ 0 then markBad 17 bad s else s))

/-- RESYNC with ACTION = 0 (R317). -/
def resyncSummary (bad : List Nat) (e : SqEnt) (s : State) : State :=
  let a := cat64 (e.dw 3 &&& 0xFFFF0000) (e.dw 4)
  if e.reservedOk 5 = false ∨ onlyBits (e.dw 2) 1 = false ∨ onlyBits (e.dw 3) 0xFFFF0000 = false then completeHead 0 e 0x0002 0 0 s
  else if s.host.resyncBusy then s
  else startResync a 0 (startHead 0 e (markBad 17 bad s))

/-- A ring returns to ACTIVE, and its latched doorbells act (R284, R322). -/
def resumeRing (n : Nat) (s : State) : State :=
  let r := s.ring n
  let t := s.setRing n { r with st := .active, latchSq := none, latchCq := none, latched := false }
  let u := match r.latchSq with | some v => actSqTail n v t | none => t
  let v := match r.latchCq with | some v => actCqHead n v u | none => u
  flushBad n (v.ring n).fetched.length v

/-- RESYNC with ACTION = 1 (R322). -/
def resyncResume (e : SqEnt) (s : State) : State :=
  let n := fld (e.dw 3) 15 0
  if e.reservedOk 4 = false ∨ onlyBits (e.dw 2) 1 = false ∨ onlyBits (e.dw 3) 0xFFFF = false ∨ (1023 < n ∧ n ≠ 0xFFFF) then
    completeHead 0 e 0x0002 0 0 s
  else if n = 0xFFFF then
    let ns := (s.host.rings.filter fun q => decide (q.2.st = .stopped)).map fun q => q.1
    completeHead 0 e 0 (wd ns.length) 0 (ns.foldl (fun t m => resumeRing m t) s)
  else if (s.ring n).st = .absent then completeHead 0 e 0x0102 0 0 s
  else if (s.ring n).st ≠ .stopped then completeHead 0 e 0x0103 0 0 s
  else completeHead 0 e 0 0 0 (resumeRing n s)

/-! ## RING_RESET -/

/-- The fence of a new epoch (R290), signalled as any entry is (R294): written ahead on a primary. -/
def writeFence (n : Nat) (s : State) : State :=
  let t := s.modRing n fun r => { r with fencePut := true }
  let r := t.ring n
  if shadowing t then writeAhead n 0xFFFF 0 0 0 r.epoch false true false t
  else writeEntry n 0xFFFF 0 0 0 r.epoch false true t

/-- What RING_RESET discards and restarts (R307): entries fetched and not started, entries not fetched, latched submission doorbells; a
latched completion doorbell acts. -/
def clearRing (n : Nat) (s : State) : State :=
  let r := s.ring n
  let t := dropReads n (s.setRing n
    { r with
      fetched := [], sqHead := 0, sqTail := 0, epoch := r.epoch + 1
      fenced := some (ringSpan r.size r.sqHead r.sqTail + r.fetched.length), latchSq := none, latchCq := none, latched := false })
  match r.latchCq with
  | some v => actCqHead n v t
  | none => t

/-- Held entries of ring n are written; a pass whose PASS_END was among them closes (R22, R307, R474). -/
def releaseHeldEntries (n : Nat) (s : State) : State := settlePass (writeHeld n s)

/-- The fence goes to the ring once an entry is free (R282, R290). -/
def fenceStep (n : Nat) (s : State) : State :=
  if (s.ring n).used < (s.ring n).size - 1 ∧ canSend s = true then writeFence n s else s

/-- One more step of a reset under way (R307): once every started command has its entry, held entries are written, the ring restarts and its fence
goes out; it is done when the fence is written, on a primary after the standby has its record (R343). -/
def resetStep (n : Nat) (s : State) : State :=
  let r := s.ring n
  if r.fenced.isNone then
    (if r.started ≠ [] ∨ r.late ≠ [] ∨ rerunsLeft s n = true ∨ recordsWait s n = true ∨ canSend s = false then s
     else fenceStep n (clearRing n (releaseHeldEntries n s)))
  else if r.fencePut = false then fenceStep n s
  else if r.held ≠ [] ∧ canSend s = true then releaseHeldEntries n s
  else s

/-- The fence of a reset is written. -/
def fenceWritten (s : State) (n : Nat) : Bool := (s.ring n).fencePut && (s.ring n).held.isEmpty && !recordsWait s n

/-- RING_RESET at the head of RING_0 (R307): it waits there until its steps are done. -/
def ringReset (e : SqEnt) (s : State) : State :=
  match ringNamed e with
  | none => completeHead 0 e 0x0002 0 0 s
  | some n =>
    if (s.ring n).st = .absent then completeHead 0 e 0x0102 0 0 s
    else
      let t := resetStep n (s.modRing n fun r => { r with resetting := true })
      if fenceWritten t n then
        let r := t.ring n
        completeHead 0 e 0 (r.epoch.setWidth 32) (wd (r.fenced.getD 0))
          (sendShadow (.admin e.ws) (t.setRing n { r with st := .active, resetting := false, fenced := none, fencePut := false }))
      else t

end Sys2Proof.Machine
end

