-- ==== Sys2Proof/Machine/TwinRole.lean ====
section
/-! DEFINITION. The twin's lanes and roles: claims and their settling (R332 to R334), heartbeat and loss (R335, R336), the snapshot's
sending (R350) and the ownership of the front-ends (R346 to R348). -/

namespace Sys2Proof.Machine

open Sys2Proof

/-- A change of ROLE raises line 4 of S (R150, R331). -/
def noteRole (before s : State) : State := if s.twin.st.role ≠ before.twin.st.role then raiseLine 16 4 s else s

/-! ## Front-end ownership -/

/-- FE_OWN is driven in PRIMARY, ALONE or TAKING once both senses read deasserted (R347); not while a backoff runs (R348), nor before
READY, nor after a device-fatal fault (R477). -/
def tryDrive (s : State) : State :=
  let t := s.twin
  if (t.st = .primary ∨ t.st = .alone ∨ t.st = .taking) ∧ t.senseA = false ∧ t.senseB = false ∧ t.backoff = none ∧ s.host.fatal = false ∧
      s.boot.ready then s.modTwin fun t => { t with feOwn := true }
  else s

/-- The Gorgar enters CLAIMING (R332): FE_OWN stays driven only for an incumbent that drives it (R347), and its rings are served as before (Table
14.3). -/
def enterClaiming (incumbent : Bool) (s : State) : State :=
  noteRole s (s.modTwin fun t =>
    { t with
      st := .claiming, incumbent := incumbent, theirs := none, settling := false, snapping := false, snapIn := none, snapQueue := []
      feOwn := t.feOwn && incumbent
      localOnly := decide (t.st = .standby) || decide (t.st = .catchup) || (decide (t.st = .claiming) && t.localOnly) })

/-- INCUMBENT of a claim entered from this state (R332). -/
def incumbentNow (s : State) : Bool := decide (s.twin.st = .primary) || (decide (s.twin.st = .alone) && s.twin.feOwn)

/-- FE_OWN_COLLISION (R348): the lanes decide between a claim and a backoff of 1 to 16 ms drawn from RAND. -/
def execFeOwnCollision (s : State) : Out :=
  .next (if s.twin.feOwn = false then s
    else
      let t := s.modTwin fun t => { t with feOwn := false, collision := true, senseA := true, senseB := true, witFe := false }
      if t.twin.lanesUp then enterClaiming false t
      else ({ t with free := t.free + 1 }).modTwin fun q => { q with backoff := some (Config.draw t.free % 16 + 1) })

/-- FE_OWN_BACKOFF_END (R348). -/
def execFeOwnBackoffEnd (s : State) : Out :=
  .next (if s.twin.backoff.isNone then s else tryDrive (s.modTwin fun t => { t with backoff := none }))

/-- FE_OWN_SENSE_RELEASE (R337, R347): both senses have read deasserted for 20 µs. -/
def execFeOwnSenseRelease (s : State) : Out :=
  .next (tryDrive (s.modTwin fun t => { t with senseA := false, senseB := false, witFe := true }))

/-! ## Claims -/

/-- Two claims agree but for HEARD. -/
def sameClaim (a b : Claim) : Bool := decide ({ a with heard := false } = { b with heard := false })

/-- The four words of a claim. -/
def claimWords (c : Claim) : List Word :=
  [fields [(c.prio.toNat, 0), (b2n c.incumbent, 8), (b2n c.heard, 9)], c.serial.extractLsb' 0 32, c.serial.extractLsb' 32 32,
   fields [(c.rand.toNat, 0), (c.gen.toNat, 16)]]

/-- A CLAIM leaves, with the echo of the last one received. -/
def sendClaim (s : State) : State :=
  sendPlain 0x01 0 (claimWords (myClaim s) ++ (match s.twin.theirs with | some c => claimWords c | none => [0, 0, 0, 0])) s

/-- CLAIM_TIMER (R332). -/
def execClaimTimer (s : State) : Out :=
  .next (if s.twin.st = .claiming ∧ s.twin.lanesUp ∧ s.host.fatal = false then sendClaim s else s)

/-- The snapshot leaves in SNAPSHOT packets, one record of the image to each; offset and length count records (assumption log 50). -/
def sendSnapshot (s : State) : State :=
  let img := snapshotImage s
  (img.zipIdx).foldl (fun t e => sendRel 0x04 0 [wd e.2, wd img.length] (some e.1) t) (s.modTwin fun t => { t with snapping := true })

/-- Rings other than RING_0 stop (R334). -/
def stopRings (s : State) : State := quiesce s

/-- A TWIN_CONTROL ATTACH under way ends (R349, R350). -/
def endAttach (status : Nat) (s : State) : State :=
  if s.twin.attaching = false then s
  else
    let t := s.modTwin fun t => { t with attaching := false }
    match (t.ring 0).started.find? fun q => q.ent.opcode == 0x12 with
    | some q => endCommand 0 q.cmd status 0 0 t
    | none => t

/-- The settled role takes effect (R334): PRIMARY starts a snapshot; STANDBY quiesces and waits for its started commands; CONFLICT releases
FE_OWN, stops its rings and posts ROLE_CONFLICT. -/
def settleRole (theirs : Claim) (s : State) : State :=
  let t := s.modTwin fun t => { t with peerSerial := theirs.serial, peerGen := theirs.gen }
  match claimRole (myClaim t) theirs with
  | .primary => sendSnapshot (tryDrive (noteRole t (t.modTwin fun q => { q with st := .primary, stoodDown := false })))
  | .standby => (endAttach 0x0303 (stopRings t)).modTwin fun q => { q with settling := true }
  | _ =>
    postUnsol 0x0302 5 0 (endAttach 0x0302 (stopRings (noteRole t (t.modTwin fun q => { q with st := .conflict, feOwn := false }))))

/-- CLAIM (R332, R333): in CLAIMING it is heard, and settles the role when it echoes this side's own claim; the answer lets the twin
settle too. A side that serves answers a new claim by claiming; a standby answers an incumbent (R336, R349). -/
def execClaim (cl : Claim) (echo : Option Claim) (s : State) : Out :=
  let settles := cl.heard && (match echo with | some e => sameClaim e (myClaim s) | none => false)
  let again := match s.twin.theirs with | some c => sameClaim c cl | none => false
  .next (if s.twin.lanesUp = false ∨ s.boot.ready = false ∨ s.host.fatal then s
    else match s.twin.st with
      | .claiming =>
        let t := s.modTwin fun t => { t with theirs := some cl }
        if s.twin.settling then sendClaim t else if settles then settleRole cl (sendClaim t) else t
      | .primary => if again then sendClaim s else (enterClaiming true s).modTwin fun t => { t with theirs := some cl }
      | .alone =>
        if s.twin.detached then s
        else (enterClaiming s.twin.feOwn s).modTwin fun t => { t with theirs := some cl }
      | .standby | .catchup =>
        if again then sendClaim s
        else if cl.incumbent then (enterClaiming false s).modTwin fun t => { t with theirs := some cl, detached := false }
        else s
      | _ => s)

/-- The side becomes ALONE: it serves every ring, and drives FE_OWN when it may. -/
def enterAlone (s : State) : State :=
  tryDrive (noteRole s (s.modTwin fun t =>
    { t with st := .alone, settling := false, snapping := false, stoodDown := false, incumbent := false, snapIn := none, snapQueue := [] }))

/-- CLAIM_SETTLE_TIMEOUT (R332, R349): no role within 1 ms; the lanes go down and retrain, and an ATTACH fails, also where the lanes have gone down
by themselves. -/
def execClaimSettleTimeout (s : State) : Out :=
  .next (if s.twin.st ≠ .claiming ∨ s.twin.settling ∨ (s.twin.lanesUp = false ∧ s.twin.attaching = false) then s
    else
      let t := if s.twin.lanesUp then dropLanes s else s
      if s.twin.attaching then endAttach 0x0301 (enterAlone (t.modTwin fun q => { q with detached := q.wasDetached })) else t)

/-- CLAIMING_TIMEOUT (R332): the lanes are still down 50 ms after READY. -/
def execClaimingTimeout (s : State) : Out :=
  .next (if s.twin.st = .claiming ∧ s.twin.lanesUp = false ∧ s.twin.attaching = false ∧ s.boot.ready then enterAlone s else s)

/-! ## Lanes -/

/-- LANES_UP (R324, R332, R334): D_22 runs from the recovered clock; a lone side that is not detached, or one in CONFLICT, claims. -/
def execLanesUp (s : State) : Out :=
  .next (if s.twin.lanesUp then s
    else
      let t := (s.modTwin fun t => { t with lanesUp := true }).modDom 22 fun m => { m with state := .run, clockOn := true }
      if t.boot.ready = false ∨ t.host.fatal then t
      else match t.twin.st with
        | .alone => if t.twin.detached then t else enterClaiming t.twin.feOwn t
        | .conflict => enterClaiming false t
        | _ => t)

/-- LANES_DOWN (R324, R469). -/
def execLanesDown (s : State) : Out := .next (if s.twin.lanesUp then failLanes s else s)

/-! ## Heartbeat -/

/-- HEARTBEAT_TIMER (R335). -/
def execHeartbeatTimer (s : State) : Out :=
  .next (if s.twin.lanesUp = false ∨ s.boot.ready = false ∨ s.host.fatal then s
    else
      let t := s.modTwin fun t => { t with hbCount := t.hbCount + 1 }
      sendPlain 0x02 0 [fields [(s.twin.st.code, 0), (b2n s.twin.feOwn, 3), (s.twin.gen.toNat, 16)], t.twin.hbCount,
        s.prot.epoch.extractLsb' 0 32] t)

/-- A side stands down (R336): it fetches nothing and writes no completion entry, discards its unacknowledged records, releases FE_OWN
and claims without incumbency. A resync under way ends without its trailer ("When things coincide", chapter 13). -/
def standDown (s : State) : State :=
  let t := if s.host.resyncBusy then endResync false s else s
  enterClaiming false (t.modTwin fun t => { t with stoodDown := true, wah := [], feOwn := false })

/-- What a valid HEARTBEAT clears and shows (R335, R337, R371): loss and the permit clear; FE_OWN of the twin is what the senses read. -/
def noteHeartbeat (st : BitVec 3) (feOwn : Bool) (gen : BitVec 16) (epochLo : Word) (s : State) : State :=
  (s.modTwin fun t =>
    { t with
      peerSt := st, peerGen := gen, hbLost := false, permit := false, senseA := feOwn, senseB := feOwn
      witFe := t.witFe && !feOwn }).modProt fun p => { p with mismatch := decide (epochLo ≠ p.epoch.extractLsb' 0 32) }

/-- HEARTBEAT (R335 to R337, R350, R371): of two sides that serve with FE_OWN driven the one with the older GEN stands down, and equal ones
claim anew; a twin that has reached STANDBY ends the snapshot. The heartbeat count has no effect. -/
def execHeartbeat (st : BitVec 3) (feOwn : Bool) (gen : BitVec 16) (_count epochLo : Word) (s : State) : Out :=
  .next (if s.twin.lanesUp = false then s
    else
      let t := noteHeartbeat st feOwn gen epochLo s
      let clash := decide (t.twin.st = .primary ∨ t.twin.st = .alone) && t.boot.ready && feOwn && (st == 0 || st == 2)
      if clash ∧ genNewer gen t.twin.gen then standDown t
      else if clash ∧ gen = t.twin.gen then enterClaiming false t
      else
        let u := tryDrive t
        if st = 3 ∧ u.twin.st = .primary ∧ u.twin.snapping then endAttach 0 (u.modTwin fun q => { q with snapping := false }) else u)

/-- The primary goes on alone (R335, R350): entries that wait for an acknowledgement are written without it. -/
def leavePrimary (s : State) : State := enterAlone (releaseRecords s.twin.wah s)

/-- A snapshot has failed (R350): reported in the ATTACH completion, or unsolicited. -/
def snapshotFailed (s : State) : State :=
  if s.twin.attaching then endAttach 0x0304 s else postUnsol 0x0304 (wd s.twin.st.code) 0 s

/-- Every ring but RING_0 is ABSENT; epochs are kept. -/
def dropRings (s : State) : State :=
  s.modHost fun h => { h with rings := h.rings.map fun e => if e.1 = 0 then e else (e.1, { epoch := e.2.epoch }) }

/-- HEARTBEAT_LOSS (R330, R335, R370): loss is declared, sequence numbers and the replay buffer are cleared, and line 4 of S is raised;
a primary goes on alone, a side in CATCHUP discards its image and its rings. -/
def lossDeclared (s : State) : State :=
  raiseLine 16 4 (s.modTwin fun t =>
    { t with hbLost := true, replayBuf := [], heldPkts := [], txSeq := 0, rxSeq := 0xFFF, unackedRx := 0, theirs := none })

def afterLoss (s : State) : State :=
  match s.twin.st with
  | .primary =>
    let snap := s.twin.snapping
    let t := postUnsol 0x0301 0 0 (leavePrimary s)
    if snap then snapshotFailed t else t
  | .catchup => postUnsol 0x0301 0 0 (enterAlone (dropRings (s.modTwin fun t => { t with shadow := {} })))
  | .claiming => s.modTwin fun t => { t with settling := false }
  | _ => s

/-- SNAPSHOT_TIMEOUT (R350): not complete within 10 ms. -/
def execSnapshotTimeout (s : State) : Out :=
  .next (if s.twin.st = .primary ∧ s.twin.snapping then snapshotFailed (leavePrimary s) else s)

end Sys2Proof.Machine
end

