-- ==== Sys2Proof/Machine/Image.lean ====
section
/-! DEFINITION. Boot images: header, directory, segments and records as words (R451 to R453), their checks (R454, R455), and loading them
into the cores (R183, R184, R456, R457). An image is a list of words; offsets are multiples of 4. -/

namespace Sys2Proof.Machine

open Sys2Proof

/-- A record of a body (Table 19.5). -/
structure SegRec where
  type : Nat
  addr : Nat
  ws : List Word
deriving DecidableEq, Repr

/-- A segment as read: the words of its header and of its body. -/
structure Segment where
  hdr : List Word
  body : List Word
deriving DecidableEq, Repr

def Segment.magicOk (g : Segment) : Bool := nthW g.hdr 0 == 0x5E7A5E60
def Segment.kind (g : Segment) : Nat := fld (nthW g.hdr 1) 7 0
def Segment.forS (g : Segment) : Bool := bit (nthW g.hdr 1) 8
def Segment.cores (g : Segment) : Nat := fld (nthW g.hdr 1) 31 16
def Segment.bodyLen (g : Segment) : Nat := (nthW g.hdr 2).toNat
def Segment.uimage (g : Segment) : BitVec 16 := (nthW g.hdr 4).setWidth 16

/-- A segment names a core; KIND 1 is S's own (Table 19.4). -/
def Segment.names (g : Segment) (k : Nat) : Bool := if k = 16 then g.forS || g.kind == 1 else g.cores.testBit k

/-- The segment in a stretch of words: 32 words of header, then BODY_LEN bytes. -/
def segmentOf (ws : List Word) : Segment :=
  let h := ws.take 32
  ⟨h, (ws.drop 32).take ((nthW h 2).toNat / 4)⟩

/-- The records of a body, none when one runs past its end; the fuel is the body's length. -/
def recordsOf : Nat → List Word → Option (List SegRec)
  | _, [] => some []
  | 0, _ => none
  | f + 1, w :: rest =>
    match rest with
    | [] => none
    | a :: data =>
      let n := fld w 31 16
      if data.length < n then none
      else (recordsOf f (data.drop n)).map fun l => ⟨fld w 7 0, a.toNat, data.take n⟩ :: l

def Segment.records (g : Segment) : Option (List SegRec) := recordsOf g.body.length g.body

/-- A segment's signature: over the header's first 64 bytes and the digest of its body (R452). -/
def Segment.signed (key : List Word) (g : Segment) : Bool :=
  Config.ed25519 key (g.hdr.take 16 ++ sha256 g.body) ((g.hdr.drop 16).take 16)

/-- Units a record of a type fills, from its address on (Table 19.5). -/
def SegRec.spanOk (lo hi : Nat) (r : SegRec) (perUnit unit : Nat) : Bool :=
  decide (r.ws.length % perUnit = 0) && decide (lo ≤ r.addr) && decide (r.addr + r.ws.length / perUnit * unit ≤ hi) &&
  decide (r.addr % unit = 0)

/-- A record is well formed for a segment of KIND 4 when its type and range are the customer's, otherwise when the store has the range. -/
def SegRec.ok (customer : Bool) (r : SegRec) : Bool :=
  match r.type with
  | 1 => r.spanOk 0 0x4000 1 4
  | 2 => r.spanOk (if customer then 0xC0 else 0) 0x100 3 1
  | 3 => r.spanOk (if customer then 0x300 else 0) 0x400 1 1
  | 4 => r.spanOk (if customer then 0xC0 else 0) (if customer then 0xF0 else 0x100) 1 1
  | 5 => decide (r.ws.length = 8) && decide (r.addr < 256)
  | 6 => !customer && r.spanOk 0 0x10000 1 4
  | _ => false

/-- A segment is well formed (R452, R453): `session` is SESSION_CORES, which a customer segment may not name. -/
def Segment.wellFormed (session : BitVec 16) (g : Segment) : Bool :=
  g.magicOk && decide (1 ≤ g.kind ∧ g.kind ≤ 4) && decide (g.bodyLen % 4 = 0) && decide (g.bodyLen ≤ 1048448) &&
  decide (g.body.length = g.bodyLen / 4) &&
  (!(decide (g.kind = 4)) || (decide (g.cores &&& session.toNat = 0) && !g.forS)) &&
  (match g.records with
   | some l => l.all (SegRec.ok (decide (g.kind = 4)))
   | none => false)

/-! ## Images -/

def imgNseg (ws : List Word) : Nat := fld (nthW ws 1) 31 16
def imgLen (ws : List Word) : Nat := (nthW ws 2).toNat
def imgSeries (ws : List Word) : Word := nthW ws 3

/-- The segments that the directory names. -/
def imgSegments (ws : List Word) : List Segment :=
  (List.range (imgNseg ws)).map fun j =>
    segmentOf ((ws.drop ((nthW ws (64 + 2 * j)).toNat / 4)).take ((nthW ws (65 + 2 * j)).toNat / 4))

/-- The directory lies within IMAGE_LEN and its segments within the image. -/
def imgDirOk (ws : List Word) : Bool :=
  decide (1 ≤ imgNseg ws ∧ imgNseg ws ≤ 32) && decide (imgLen ws ≤ 0x400000) && decide (256 + 8 * imgNseg ws ≤ imgLen ws) &&
  (List.range (imgNseg ws)).all fun j =>
    let o := (nthW ws (64 + 2 * j)).toNat
    decide (o % 4 = 0) && decide (o + (nthW ws (65 + 2 * j)).toNat ≤ imgLen ws)

/-- The image signature verifies (R451), or the customer image key is absent. -/
def imgSigned (key : Option (List Word)) (ws : List Word) : Bool :=
  match key with
  | none => true
  | some k => Config.ed25519 k (ws.take 48 ++ (ws.drop 64).take (2 * imgNseg ws)) ((ws.drop 48).take 16)

/-- SESSION_CORES of an image: CORES of its KIND 2 segment. -/
def imgSession (ws : List Word) : BitVec 16 :=
  match (imgSegments ws).find? fun g => g.kind == 2 with
  | some g => BitVec.ofNat 16 g.cores
  | none => 0

/-- A slot is valid (R454). -/
def imgValid (key : Option (List Word)) (ws : List Word) : Bool :=
  decide (nthW ws 0 = 0x5E7A0160) && decide (fld (nthW ws 1) 15 0 = 1) && imgDirOk ws && imgSigned key ws &&
  [1, 2, 3].all fun k =>
    let l := (imgSegments ws).filter fun g => g.magicOk && g.kind == k
    decide (l.length = 1) && l.all fun g => g.signed Config.swetiaKey && g.wellFormed (imgSession ws)

/-- Why a KIND 4 segment is skipped (R455): IMAGE_BAD_SIG, BAD_FIELD for a malformed one, or none. -/
def skipReason (key : Option (List Word)) (session : BitVec 16) (g : Segment) : Option Nat :=
  match key with
  | none => some 0x0602
  | some k => if g.signed k = false then some 0x0602 else if g.wellFormed session = false then some 0x0002 else none

/-- The customer segments of an image that load. -/
def customerSegments (key : Option (List Word)) (ws : List Word) : List Segment :=
  (imgSegments ws).filter fun g => decide (g.kind = 4) && (skipReason key (imgSession ws) g).isNone

/-! ## Loading -/

/-- Three words of a nanoword. -/
def nanoWords (ws : List Word) : Nat → List (BitVec 96)
  | 0 => []
  | n + 1 => (nthW ws 2 ++ nthW ws 1 ++ nthW ws 0) :: nanoWords (ws.drop 3) n

/-- One record is applied to a core's memories and stores: I-local is the work cores', patch RAM is S's, at 0x1_0000 of its I-space (R88);
ENTRY fills the firmware's table. -/
def applyRecord (k : Nat) (r : SegRec) (s : State) : State :=
  match r.type with
  | 1 => if k = 16 then s else s.modCore k fun q => { q with code := writeWords q.code r.addr r.ws }
  | 6 => if k = 16 then s.modCore k fun q => { q with code := writeWords q.code (0x10000 + r.addr) r.ws } else s
  | 2 => s.modCore k fun q =>
      { q with nano := ((nanoWords r.ws (r.ws.length / 3)).zipIdx).foldl (fun t e => tput (r.addr + e.2) e.1 t) q.nano }
  | 3 => s.modCore k fun q => { q with micro := (r.ws.zipIdx).foldl (fun t e => tput (r.addr + e.2) (e.1.setWidth 24) t) q.micro }
  | 4 => s.modCore k fun q => { q with dispatch := (r.ws.zipIdx).foldl (fun t e => tput (r.addr + e.2) (e.1.setWidth 24) t) q.dispatch }
  | _ => s

/-- The job entry points that a segment fills (R457). -/
def applyEntries (g : Segment) (s : State) : State :=
  ((g.records.getD []).filter fun r => r.type == 5).foldl (fun t r =>
    t.modHost fun h => { h with entries := tput r.addr (some
      ⟨(nthW r.ws 0).setWidth 24, (nthW r.ws 1).setWidth 16, (nthW r.ws 2).setWidth 16, (nthW r.ws 3).setWidth 16, (nthW r.ws 4).setWidth 16,
        (nthW r.ws 5).setWidth 16, nthW r.ws 6⟩) h.entries }) s

/-- A segment is applied to one core it names: by type, ILOCAL and PATCH first (R456); a customer segment sets UIMAGE_ID. -/
def applySegment (k : Nat) (g : Segment) (s : State) : State :=
  let rs := g.records.getD []
  let t := [[1, 6], [2], [3], [4]].foldl (fun t ts => (rs.filter fun r => ts.contains r.type).foldl (fun u r => applyRecord k r u) t) s
  if g.kind = 4 then t.modCore k fun q => { q with uimageId := g.uimage } else t

/-- The segments of an image in loading order (R456). -/
def loadOrder (key : Option (List Word)) (ws : List Word) : List Segment :=
  ([3, 1, 2].map fun k => (imgSegments ws).filter fun g => decide (g.kind = k)).flatten ++ customerSegments key ws

/-- Phase 7 loads every core that a segment names, with the job entry points, and sets STORES_VALID for each core (R456). -/
def loadImage (key : Option (List Word)) (ws : List Word) (s : State) : State :=
  let gs := loadOrder key ws
  (List.range 17).foldl (fun t k =>
    ((gs.filter (Segment.names · k)).foldl (fun u g => applySegment k g u) t).modCore k fun q => { q with storesValid := true })
    (gs.foldl (fun t g => applyEntries g t) s)

/-- Every customer segment for a core that bring-up loaded still passes its check in these words (R457). -/
def customersPass (key : Option (List Word)) (k : Nat) (ws image : List Word) : Bool :=
  (imgSegments image).zipIdx.all fun g =>
    !(g.1.kind == 4 && g.1.names k && (skipReason key (imgSession image) g.1).isNone) ||
    (match (imgSegments ws)[g.2]? with
      | some q => q.kind == 4 && (skipReason key (imgSession ws) q).isNone
      | none => false)

/-- A core is loaded again from the words of the slot in use (R457): KIND 3, KIND 2 for a core of SESSION_CORES, and every KIND 4 that names it; none
of KIND 4 when the customer image key came after this bring-up (chapter 19, "When things coincide"). `false` when a segment fails its check;
STORES_VALID then stays 0. -/
def reloadCore (k : Nat) (ws : List Word) (s : State) : State × Bool :=
  let key := if s.boot.custKey then s.prot.keyI else none
  let isSession := k < 16 && bit s.host.sessionCores k
  let vendor := (imgSegments ws).filter fun g => (decide (g.kind = 3) || (decide (g.kind = 2) && isSession)) && g.names k
  if imgValid key ws && customersPass key k ws s.boot.image then
    (((vendor ++ (customerSegments key ws).filter (Segment.names · k)).foldl (fun t g => applySegment k g t) s).modCore k fun q =>
      { q with storesValid := true }, true)
  else (s, false)

/-! ## Islands that return -/

/-- A core of SESSION_CORES that has come back from OFF is loaded again before its firmware restarts (R457); the slot in use still holds the image that
bring-up read, since nothing writes that slot (R311). -/
def reloadSession (d : Nat) (s : State) : State :=
  if 5 ≤ d ∧ d ≤ 20 ∧ bit s.host.sessionCores (d - 5) ∧ (s.core (d - 5)).storesValid = false then (reloadCore (d - 5) s.boot.image s).1 else s

/-- ISLAND_WAKE (R25, R27, R457): the island that is asked to RUN completes its return; D_3 when a line of S has been raised. -/
def execIslandWake (d : Nat) (s : State) : Out :=
  let m := s.dom d
  .next (if m.state = .run ∨ d < 3 ∨ 20 < d then s
    else if m.stateReq = .run then reloadSession d (islandRun d s)
    else if d = 3 ∧ (s.xing 3).fromD2.chans.any (fun q => match q.ev with | .line 16 _ => decide (0 < q.new) | _ => false) = true then
      islandRun 3 s
    else s)

end Sys2Proof.Machine
end

