-- ==== Sys2Proof/Machine/Cores.lean ====
section
/-! DEFINITION. The admin commands that start, stop and set the mode of job cores (R308 to R310, R457), as effects that the command and a
takeover share (R339, Table 14.5). -/

namespace Sys2Proof.Machine

open Sys2Proof

/-- Contexts of core k that a mask names. -/
def maskCtxs (k m : Nat) : List Nat := (ctxsOf k).filter fun c => m.testBit (ctxIx c)

/-- Core, mask and the rest of DW2. -/
def coreArg (e : SqEnt) : Nat := fld (e.dw 2) 3 0
def maskArg (e : SqEnt) : Nat := fld (e.dw 2) 11 8

/-- A job core: not of SESSION_CORES. -/
def jobCore (s : State) (k : Nat) : Bool := !bit s.host.sessionCores k

/-- The island of core k is asked to RUN, and returns to it (R25, R308). -/
def bringUp (k : Nat) (s : State) : State :=
  let t := requestState (domOf k) .run s
  if (t.dom (domOf k)).state = .run then t else islandRun (domOf k) t

/-- Contexts are prepared from an entry and bound, one after the other; a refusal leaves those before it bound (R308). -/
def prepareAll (p : EntryPt) (acct : Nat) : List Nat → State → State × Bool
  | [], s => (s, true)
  | c :: cs, s =>
    let b := bindCtx c acct (prepareCtx c p s)
    if b.2 then prepareAll p acct cs b.1 else (b.1, false)

/-- CORE_START (R308): `flash` is what the slot in use holds, none when it cannot be read. -/
def coreStart (e : SqEnt) (flash : Option (List Word)) (s : State) : Res :=
  let k := coreArg e
  let cs := maskCtxs k (maskArg e)
  if e.reservedOk 5 = false ∨ onlyBits (e.dw 2) 0x10F0F = false ∨ onlyBits (e.dw 3) 0xFFFF = false ∨ onlyBits (e.dw 4) 0x3F = false ∨
      jobCore s k = false ∨ (s.rights k).mcw = false then refuse 0x0002 s
  else if cs.any (fun c => decide ((s.ctx c).st ≠ .halted)) then refuse 0x0501 s
  else match tget none s.host.entries (fld (e.dw 3) 15 0) with
    | none => refuse 0x0502 s
    | some p =>
      let t := bringUp k s
      let r := if (t.core k).storesValid then (t, true)
        else match flash with
          | some ws => reloadCore k ws t
          | none => (t, false)
      if r.2 = false then (requestState (domOf k) .stopped r.1, 0x0603, 0, 0)
      else
        let q := prepareAll p (fld (e.dw 4) 5 0) cs r.1
        if q.2 = false then (q.1, 0x0003, 0, 0)
        else
          let u := if bit (e.dw 2) 16 then cs.foldl (fun v c => startCtx c p.start v) q.1 else q.1
          (u, 0, islStat u (domOf k), 0)

/-- The job of a context that CORE_STOP has halted completes with JOB_TRAP and RESULT0 = 0 (R309), or with its own STATUS once DONE reads 1. -/
def endStopped (c : Nat) (s : State) : State :=
  match (s.ctx c).job with
  | none => s
  | some j => if jobDone s j.2.2 then finishJob c j s else endCommand j.1 j.2.1 0x0503 0 0 (dropJob c s)

/-- A context is halted by CORE_STOP; one that finishes other work first keeps its job until it has halted (R124, R309). -/
def stopCtx (c : Nat) (s : State) : State :=
  if (s.ctx c).st = .halted then (if (s.ctx c).stopDue then endStopped c s else s)
  else
    let t := haltRequest c s
    if (t.ctx c).st = .halted then endStopped c t else t.modCtx c fun x => { x with stopDue := x.job.isSome }

/-- CORE_STOP's fields (R309): BAD_FIELD, CORE_BUSY or none. -/
def coreStopRefusal (e : SqEnt) (s : State) : Option Nat :=
  let k := coreArg e
  let pw := fld (e.dw 2) 17 16
  let lane := (s.cx.lane0.en && s.cx.lane0.core.toNat == k) || (s.cx.lane1.en && s.cx.lane1.core.toNat == k)
  if e.reservedOk 3 = false ∨ onlyBits (e.dw 2) 0x30F0F = false ∨ pw = 3 ∨ jobCore s k = false ∨ (pw ≠ 0 ∧ maskArg e ≠ 15) then some 0x0002
  else if pw = 2 ∧ ((s.core k).det ∨ lane) then some 0x0501
  else none

/-- CORE_STOP: the contexts of the mask halt; `false` while one that finishes its work first has not. POWER then acts. -/
def coreStop (e : SqEnt) (s : State) : State × Bool :=
  let k := coreArg e
  let cs := maskCtxs k (maskArg e)
  let t := cs.foldl (fun u c => stopCtx c u) s
  if cs.any (fun c => decide ((t.ctx c).st ≠ .halted)) then (t, false)
  else match fld (e.dw 2) 17 16 with
    | 1 => (requestState (domOf k) .stopped t, true)
    | 2 => (requestState (domOf k) .off t, true)
    | _ => (t, true)

/-- The lane that a core holds. -/
def laneHeld (s : State) (k : Nat) : Option Nat :=
  if s.cx.lane0.en && s.cx.lane0.core.toNat == k then some 0
  else if s.cx.lane1.en && s.cx.lane1.core.toNat == k then some 1
  else none

/-- MODE_SET (R310). -/
def modeSetCmd (e : SqEnt) (s : State) : Res :=
  let k := coreArg e
  let lane := fld (e.dw 2) 10 9
  if e.reservedOk 3 = false ∨ onlyBits (e.dw 2) 0x70F = false ∨ lane = 3 ∨ jobCore s k = false then refuse 0x0002 s
  else if bit (e.dw 2) 8 then
    (if lane ≠ 0 ∧ laneAllowed s (lane - 1) k = false then (s.modCx fun q => { q with laneRefused := true }, 0x0501, 5, 0)
     else
       let t := if lane ≠ 0 then writeLane (lane - 1) (wd (k + 256)) s else s
       let m := setMode k true t
       if m.2 = stDone then (m.1, 0, 0, 0) else (s, 0x0501, m.2, 0))
  else
    match laneHeld s k with
    | none =>
      let m := setMode k false s
      if m.2 = stDone then (m.1, 0, 0, 0) else (s, 0x0501, m.2, 0)
    | some j =>
      if laneBusy s j then (s.modCx fun q => { q with laneRefused := true }, 0x0501, 5, 0)
      else
        let m := setMode k false (writeLane j (wd k) s)
        if m.2 = stDone then (m.1, 0, 0, 0) else (s, 0x0501, m.2, 0)

/-- A recorded CORE_START, CORE_STOP or MODE_SET is applied at a takeover (Table 14.4, step 2); a reload reads the slot in use. -/
def applyCore (ws : List Word) (s : State) : State :=
  let e := twinEntry ws
  if e.opcode = 0x07 then (coreStart e (some s.boot.image) s).1
  else if e.opcode = 0x08 then (if (coreStopRefusal e s).isNone then (coreStop e s).1 else s)
  else (modeSetCmd e s).1

end Sys2Proof.Machine
end

