-- ==== Sys2Proof/Machine/Takeover.lean ====
section
/-! DEFINITION. The standby's side (R343 to R345, R350): shadowed records, the snapshot's receipt, the witness and the takeover (R337 to
R342), and TWIN_CONTROL (R349). -/

namespace Sys2Proof.Machine

open Sys2Proof

/-! ## Shadowed records -/

/-- Nothing is kept any more of a ring that has gone. -/
def forgetRing (n : Nat) (s : State) : State :=
  s.modTwin fun t =>
    { t with shadow := { t.shadow with cpls := t.shadow.cpls.filter (fun e => e.1 != n), started := t.shadow.started.filter fun e => e.1 != n } }

/-- RING_RESET as a standby applies it (R307): submission indices restart in a new epoch; latched submission doorbells are discarded. -/
def shadowReset (n : Nat) (s : State) : State :=
  (s.modTwin fun t => { t with shadow := { t.shadow with started := t.shadow.started.filter fun e => e.1 != n } }).modRing n fun r =>
    { r with sqHead := 0, sqTail := 0, epoch := r.epoch + 1, latchSq := none, latched := r.latchCq.isSome }

/-- A ring that the twin describes keeps the doorbells that this side has latched for it (R345). -/
def keepLatches (old r : Ring) : Ring := { r with latchSq := old.latchSq, latchCq := old.latchCq, latched := old.latched }

/-- An admin command that succeeded on the primary (Table 14.5, KIND 1); rings of a standby are STOPPED. -/
def shadowAdmin (ws : List Word) (s : State) : State :=
  let e := twinEntry ws
  let n := fld (e.dw 2) 9 0
  match e.opcode with
  | 0x02 => (ringCreate e s).1.modRing n fun r => if r.st = .active then keepLatches (s.ring n) { r with st := .stopped } else r
  | 0x03 => forgetRing n ((ringDelete e s).1)
  | 0x04 => shadowReset n s
  | 0x05 => (accountSet e s).1
  | 0x0A => (clockPolicySet e s).1
  | 0x0B => (hedgeConfig e s).1
  | 0x11 => (ledgerAttach e s).1
  | _ => s

/-- A shadowed doorbell is the most recent value of its index (R345); a completion doorbell releases records (R343). -/
def shadowBell (n : Nat) (cq : Bool) (v : Nat) (s : State) : State :=
  if cq then (releaseSlots n v s).modRing n fun r => { r with cqHead := v, latchCq := none, latched := r.latchSq.isSome }
  else s.modRing n fun r => { r with sqTail := v, latchSq := none, latched := r.latchCq.isSome }

/-- A completion record is stored, at most one for a slot (R343). -/
def storeRecord (n slot : Nat) (ws : List Word) (s : State) : State :=
  s.modTwin fun t =>
    { t with shadow := { t.shadow with
        cpls := t.shadow.cpls.filter (fun e => !(e.1 == n && e.2.1 == slot)) ++ [(n, slot, ws)]
        started := t.shadow.started.filter fun e => !(e.1 == n && e.2.2.1.toNat == fld (nthW ws 2) 31 16) } }

/-- The ring's completion tail and PHASE stand after the slot of its last record (R289, R344). -/
def tailAfter (slot : Nat) (ws : List Word) (r : Ring) : Ring := { r with cqTail := slot, phase := bit (nthW ws 3) 24 }.advance

/-- A command has started (KIND 5). -/
def markStarted (n slot : Nat) (cmd : BitVec 16) (idemp : Bool) (s : State) : State :=
  s.modTwin fun t => { t with shadow := { t.shadow with started := t.shadow.started ++ [(n, slot, cmd, idemp)] } }

/-- A SHADOW record takes effect (Table 14.5). -/
def applyShadow (r : ShadowRec) (s : State) : State :=
  match r with
  | .admin e => shadowAdmin e s
  | .core e => s.modTwin fun t => { t with shadow := { t.shadow with cores := t.shadow.cores ++ [e] } }
  | .doorbell n cq v => shadowBell n cq v s
  | .completion n slot ws => (storeRecord n slot ws s).modRing n (tailAfter slot ws)
  | .started n slot cmd idemp => (markStarted n slot cmd idemp s).modRing n fun q => { q with sqHead := (slot + 1) % q.size }
  | .pass ws o n => s.modTwin fun t => { t with shadow := { t.shadow with pass := some (ws, o, n) } }
  | .detach => s.modTwin fun t => { t with detached := true }
  | .ringRec n ws ep sqHead sqTail cqHead cqTail ph =>
    s.modRing n fun q => keepLatches q
      { ringOf (twinEntry ws) .stopped ep with sqHead := sqHead, sqTail := sqTail, cqHead := cqHead, cqTail := cqTail, phase := ph }

/-- A record of the snapshot image: the ring's indices stand in its ring record. -/
def applyImageRec (s : State) (r : ShadowRec) : State :=
  match r with
  | .completion n slot ws => storeRecord n slot ws s
  | .started n slot cmd idemp => markStarted n slot cmd idemp s
  | q => applyShadow q s

/-! ## The snapshot's receipt -/

/-- The rings make room for those of the image; doorbells latched in CATCHUP stay (R345, log 115). -/
def awaitRings (s : State) : State :=
  s.modHost fun h => { h with rings := h.rings.map fun e => if e.1 = 0 then e else (e.1, keepLatches e.2 { epoch := e.2.epoch }) }

/-- The image and then the queued SHADOW packets are applied, and the receiver enters STANDBY (R334, R350). -/
def applyImage (s : State) : State :=
  match s.twin.snapIn with
  | none => s
  | some i =>
    if s.twin.st ≠ .catchup ∨ i.1 ≠ i.2.1 then s
    else
      let t := i.2.2.foldl applyImageRec (awaitRings (s.modTwin fun t => { t with shadow := {} }))
      let u := s.twin.snapQueue.foldl (fun v r => applyShadow r v) t
      u.modTwin fun t => { t with st := .standby, snapIn := none, snapQueue := [], stoodDown := false }

/-- The side receives an image: it is in CATCHUP, or has settled STANDBY and still waits for its commands. -/
def receiving (s : State) : Bool := decide (s.twin.st = .catchup) || (decide (s.twin.st = .claiming) && s.twin.settling)

/-- SNAPSHOT (R350): the next chunk of the image; `size` is what it holds, in the unit of its offset and length. -/
def execSnapshot (h : Hdr) (off len size : Nat) (recs : List ShadowRec) (s : State) : Out :=
  .next (acceptRel h (fun t =>
    if receiving t = false then t
    else
      let old := if off = 0 then [] else match t.twin.snapIn with | some i => i.2.2 | none => []
      applyImage (t.modTwin fun q => { q with snapIn := some (off + size, len, old ++ recs) })) s)

/-- SHADOW (R343, R350): applied by a standby, queued while the image is incomplete. -/
def execShadow (h : Hdr) (r : ShadowRec) (s : State) : Out :=
  .next (acceptRel h (fun t =>
    if t.twin.st = .standby then applyShadow r t
    else if receiving t then t.modTwin fun q => { q with snapQueue := q.snapQueue ++ [r] }
    else t) s)

/-- The side no longer serves: it releases FE_OWN and enters CATCHUP; the open pass is the primary's now. -/
def enterCatchup (s : State) : State :=
  (noteRole s (s.modTwin fun t =>
    { t with st := .catchup, settling := false, feOwn := false, snapping := false, incumbent := false })).modPass fun p =>
      { p with isOpen := false, ending := false, exchs := [] }

/-- STANDBY_QUIESCED (R334): every started command has its entry, none waiting for the twin's acknowledgement. -/
def execStandbyQuiesced (s : State) : Out :=
  .next (if s.twin.st = .claiming ∧ s.twin.settling ∧ s.twin.wah = [] ∧ s.host.rings.all (fun e => e.2.started.isEmpty) then applyImage (enterCatchup s) else s)

/-! ## Witness -/

/-- A write of TAKEOVER_PERMIT latches a permit, but not on a detached side (R337, R351). -/
def grantPermit (w : Word) (s : State) : State :=
  if hostOpen s ∧ bit w 0 ∧ s.twin.detached = false then s.modTwin fun t => { t with permit := true } else s

/-- TAKEOVER_PERMIT. -/
def execTakeoverPermit (w : Word) (s : State) : Out := .next (grantPermit w s)

/-- RELINQUISH (R337): acknowledged at once, and the standby's witness. -/
def execRelinquish (h : Hdr) (gen : BitVec 16) (s : State) : Out :=
  .next (acceptRel h (fun t =>
    let u := sendLinkAck t
    if u.twin.st = .standby ∧ u.twin.detached = false then u.modTwin fun q => { q with relinq := some gen } else u) s)

/-- A standby that is not detached may take over (R337, R351). -/
def witnessed (s : State) : Bool :=
  decide (s.twin.st = .standby) && !s.twin.detached && s.boot.ready && !s.host.fatal &&
  (s.twin.relinq.isSome || (s.twin.hbLost && (s.twin.permit || s.twin.witFe)))

/-! ## Takeover -/

/-- Step 2: latched doorbells stand in the ring's indices where they are valid; they are checked again at resume (R345). -/
def applyLatches (r : Ring) : Ring :=
  let a := match r.latchSq with | some v => if v < r.size then { r with sqTail := v } else r | none => r
  match r.latchCq with
  | some v => if v < r.size ∧ ringSpan r.size r.cqHead v ≤ ringSpan r.size r.cqHead r.cqTail then { a with cqHead := v } else a
  | none => a

/-- Step 2: the rings restored as STOPPED, and the recorded settings of cores (Table 14.4). -/
def restoreRings (s : State) : State :=
  let t := s.modHost fun h => { h with rings := h.rings.map fun e =>
    if e.1 = 0 ∨ e.2.st = .absent then e else (e.1, { applyLatches e.2 with st := .stopped }) }
  t.twin.shadow.cores.foldl (fun u ws => applyCore ws u) t

/-- Step 3: a record is written to its slot without a message (R344), or held (R474). -/
def rewriteRecord (s : State) (e : Nat × Nat × List Word) : State :=
  let r := s.ring e.1
  if canSend s && r.held.isEmpty then sendEntry e.1 e.2.1 e.2.2 s
  else holdEntry e.1 ⟨some e.2, BitVec.ofNat 16 (fld (nthW e.2.2 2) 31 16), BitVec.ofNat 16 (fld (nthW e.2.2 3) 15 0), nthW e.2.2 0,
    nthW e.2.2 1, BitVec.ofNat 8 (fld (nthW e.2.2 3) 23 16), true⟩ s

/-- Step 4: a command started without a record runs again or is aborted (R287, R341); its entry waits while the completion ring is full (R282). -/
def settleStarted (s : State) (e : Nat × Nat × BitVec 16 × Bool) : State :=
  if e.2.2.2 then
    (s.modRing e.1 fun r => { r with reruns := r.reruns ++ [e.2.1] }).modTwin fun t => { t with rerun := t.rerun + 1 }
  else
    let r := s.ring e.1
    let t := if r.late ≠ [] ∨ r.size ≤ ringSpan r.size r.cqHead r.cqTail + 1 then
        s.setRing e.1 { r with late := r.late ++ [⟨none, e.2.2.1, 0x0011, 0, 0, r.epoch, false⟩] }
      else complete e.1 ⟨[wd (e.2.2.1.toNat * 2 ^ 16)], e.2.1, r.epoch, false⟩ 0x0011 0 0 s
    t.modTwin fun t => { t with aborted := t.aborted + 1 }

/-- Step 5: the generation after a takeover (R340). -/
def nextGen (s : State) : BitVec 16 := BitVec.ofNat 16 (max s.twin.gen.toNat s.twin.peerGen.toNat + 1)

/-- The pass goes on (R342): its parameters come from the shadow; the next reading slot is what the buffer shows (free words). -/
def resumePass (s : State) : State :=
  match s.twin.shadow.pass with
  | none => s
  | some p =>
    let a := s.freshWord
    let b := a.2.freshWord
    let t := openPass p.2.2 p.1 b.2
    t.modPass fun q =>
      { q with
        isOpen := p.2.1, slot := a.1.toNat % q.slots, phase := bit b.1 0, rdgCount := fld b.1 31 16 % (q.slots + 1)
        rdgHead := (a.1.toNat % q.slots + q.slots - fld b.1 31 16 % (q.slots + 1)) % q.slots }

/-- TAKING: the steps of Table 14.4. -/
def takeOver (s : State) : State :=
  let s1 := restoreRings (tryDrive (s.modTwin fun t => { t with st := .taking, rerun := 0, aborted := 0 }))
  let s2 := s1.twin.shadow.cpls.foldl rewriteRecord s1
  let s3 := s2.twin.shadow.started.foldl settleStarted s2
  let role := if s3.twin.relinq.isSome then TwinState.primary else TwinState.alone
  let s4 := noteRole s3 ((resumePass s3).modTwin fun t =>
    { t with st := role, gen := s3.twin.relinq.getD (nextGen s3), relinq := none, permit := false
             shadow := { cpls := t.shadow.cpls, cores := t.shadow.cores } })
  let s5 := journal 4 (s4.modProt fun p => { p with pend := none, wait := none })
  let s6 := if role = .primary then sendSnapshot s5 else s5
  if resyncAddrOf s6 ≠ 0 then startResync (resyncAddrOf s6) 2 s6
  else postTakeover 0 (wd (s6.twin.rerun + s6.twin.aborted * 2 ^ 16)) s6

/-- TAKEOVER (R337, R339). -/
def execTakeover (s : State) : Out := .next (if witnessed s then takeOver s else s)

/-! ## TWIN_CONTROL -/

/-- The snapshot stops: its chunks that have not left do not leave, and the packets behind them take their numbers. -/
def stopSnapshot (s : State) : State :=
  let kept := s.twin.heldPkts.filter fun p => p.type != 0x04
  let first := match s.twin.heldPkts with | p :: _ => p.seq | [] => s.twin.txSeq
  s.modTwin fun t =>
    { t with
      snapping := false, txSeq := first + BitVec.ofNat 12 kept.length
      heldPkts := kept.zipIdx.map fun e => { e.1 with seq := first + BitVec.ofNat 12 e.2 } }

/-- TWIN_CONTROL's refusal (R304): a standby's own, a reserved field or ACTION, and then the first in the row of the action in Table 14.6 that applies,
to which Table 13.1 refers: ROLE_CONFLICT, NOT_PRIMARY unless in a state, TWIN_ABSENT (log 114). -/
def twinRefusal (e : SqEnt) (need : TwinState) (present : Bool) (s : State) : Option Nat :=
  if s.twin.st = .standby ∨ s.twin.st = .catchup then some 0x0303
  else if e.reservedOk 3 = false ∨ onlyBits (e.dw 2) 3 = false ∨ fld (e.dw 2) 1 0 = 3 then some 0x0002
  else if s.twin.st = .conflict then some 0x0302
  else if s.twin.st ≠ need then some 0x0303
  else if present = false then some 0x0301
  else none

/-- The TWIN_CONTROL at the head of RING_0 with an action; ACTION 3 is reserved and any of the three rows refuses it. -/
def twinControl (action : Nat) (s : State) : Option SqEnt :=
  match headWith s 0 0x12 with
  | some e => if fld (e.dw 2) 1 0 = action ∨ fld (e.dw 2) 1 0 = 3 then some e else none
  | none => none

/-- TWIN_CONTROL DETACH (Table 14.6). -/
def execTwinControlDetach (s : State) : Out :=
  .next (match twinControl 0 s with
    | none => s
    | some e =>
      match twinRefusal e .primary (s.twin.peerSt == 3 || s.twin.peerSt == 4) s with
      | some st => completeHead 0 e st 0 0 s
      | none =>
        let t := sendShadow .detach (stopSnapshot (releaseRecords s.twin.wah s))
        completeHead 0 e 0 0 0 (enterAlone (t.modTwin fun q => { q with detached := true })))

/-- TWIN_CONTROL ATTACH (Table 14.6): the side claims as the incumbent; the command ends when the twin reaches STANDBY or the attempt
fails (R350). -/
def execTwinControlAttach (s : State) : Out :=
  .next (match twinControl 1 s with
    | none => s
    | some e =>
      match twinRefusal e .alone s.twin.lanesUp s with
      | some st => completeHead 0 e st 0 0 s
      | none =>
        enterClaiming true ((startHead 0 e s).modTwin fun q => { q with attaching := true, wasDetached := q.detached, detached := false }))

/-- TWIN_CONTROL RELINQUISH (Table 14.6): it waits at the head until every started command of the other rings has its entry. -/
def execTwinControlRelinquish (s : State) : Out :=
  .next (match twinControl 2 s with
    | none => s
    | some e =>
      match twinRefusal e .primary (s.twin.peerSt == 3) s with
      | some st => completeHead 0 e st 0 0 s
      | none =>
        let t := quiesce s
        if t.twin.wah ≠ [] ∨ t.host.rings.any (fun r => decide (r.1 ≠ 0) && !r.2.started.isEmpty) then t
        else
          let u := completeHead 0 e 0 0 0 t
          enterCatchup (sendRel 0x0D 0 [(nextGen u).setWidth 32] none u))

end Sys2Proof.Machine
end

