-- ==== Sys2Proof/Machine/Prot.lean ====
section
/-! DEFINITION. Dual-consent protection (chapter 15): the change set and its check (R361, R362), proposals (R363), consents (R364, R365), the
swap (R366, R367), lockout (R368), the exchanges with the twin (R369, R370), keys (R359); the frames of the service port (R460); and the
declaration of loss, which ends what waits for the twin (R335). -/

namespace Sys2Proof.Machine

open Sys2Proof

/-! ## Service frames -/

/-- The bytes of a word, least significant first (R7). -/
def leBytes (w : Word) : List Byte := (List.range 4).map fun i => w.extractLsb' (8 * i) 8

/-- Escaping of 0x7E and 0x7D. -/
def escape (bs : List Byte) : List Byte := (bs.map fun b => if b = 0x7E ∨ b = 0x7D then [0x7D, b ^^^ 0x20] else [b]).flatten

/-- A service command is answered (R460): CMD | 0x80, its SEQ, the status and the rest of the payload. -/
def svcAnswer (cmd : Nat) (seq : Byte) (status : Nat) (rest : List Word) (s : State) : State :=
  let payload : List Byte := BitVec.ofNat 8 status :: BitVec.ofNat 8 (status / 256) :: (rest.map leBytes).flatten
  let body : List Byte := BitVec.ofNat 8 (cmd + 0x80) :: seq :: BitVec.ofNat 8 payload.length :: BitVec.ofNat 8 (payload.length / 256) :: payload
  let frame : List Byte := 0x7E :: (escape (body ++ beBytes 2 (crc16 body).toNat) ++ [0x7E])
  s.modUtil fun u => { u with svc := { u.svc with sentBytes := u.svc.sentBytes ++ frame } }

/-! ## The change set -/

/-- What walking a change set has built: the map and the TYPE and INDEX of each entry met. -/
abbrev Walk := PMap × List (Nat × Nat)

/-- The WIN bits of eight words. -/
def winBits (ws : List Word) : List Nat := (List.range 256).filter fun w => bit (nthW ws (w / 32)) (w % 32)

/-- The rights that S and a core of SESSION_CORES may not lose (R362). -/
def mustKeep (s : State) (k : Nat) : Bool := k == 16 || bit s.host.sessionCores k

/-- Byte offset of the first of these tests that holds, if one does. -/
def firstFault : List (Bool × Nat) → Option Nat
  | [] => none
  | t :: rest => if t.1 then some t.2 else firstFault rest

/-- Words of an entry by TYPE (Table 15.3). -/
def entryWords : Nat → Nat
  | 1 => 5
  | 2 => 11
  | 3 => 10
  | _ => 0

/-- The faults of an entry that starts at byte offset `o` (R362, Tables 8.3 and 15.3). -/
def setEntryFault (s : State) (o : Nat) (ws : List Word) : Option Nat :=
  let w := nthW ws
  let size := fld (w 3) 4 0
  match fld (w 0) 7 0 with
  | 1 => firstFault
      [(decide (255 < fld (w 0) 17 8), o), (fld (w 1) 11 0 != 0 || decide (size ≤ 23 ∧ cat64 (w 1) (w 2) % 2 ^ size ≠ 0), o + 4),
       (!onlyBits (w 3) 0x1F || decide (size < 12 ∨ 23 < size), o + 12), (!onlyBits (w 4) 0x7F, o + 16)]
  | 2 => firstFault
      [(decide (16 < fld (w 0) 17 8), o),
       (!onlyBits (w 9) 0x7F || (mustKeep s (fld (w 0) 17 8) && fld (w 9) 6 0 != 0x7F), o + 36),
       (!onlyBits (w 10) 7 || (mustKeep s (fld (w 0) 17 8) && fld (w 10) 2 0 != 7), o + 40)]
  | 3 => firstFault [(!onlyBits (w 1) 0xFFFF007F, o + 4)]
  | _ => some o

/-- An entry replaces what the map has for its index. -/
def applyEntry (m : PMap) (ws : List Word) : PMap :=
  let w := nthW ws
  let i := fld (w 0) 17 8
  match fld (w 0) 7 0 with
  | 1 =>
    let v : Win := ⟨cat64 (w 1) (w 2), fld (w 3) 4 0, bit (w 4) 0, bit (w 4) 1, bit (w 4) 2, bit (w 4) 3, bit (w 4) 4, bit (w 4) 5, bit (w 4) 6⟩
    { m with wins := tput i v m.wins }
  | 2 =>
    let v : CoreRights := ⟨winBits ((ws.drop 1).take 8), (w 9).setWidth 7, bit (w 10) 0, bit (w 10) 1, bit (w 10) 2⟩
    { m with cores := tput i v m.cores }
  | _ =>
    let v : RingRights := ⟨(w 1).setWidth 6, bit (w 1) 6, (w 1).extractLsb' 16 16, winBits ((ws.drop 2).take 8)⟩
    { m with rings := tput i v m.rings }

/-- `n` entries from byte offset `o` on: the map, or the offset of the first fault. -/
def walkEntries (s : State) : Nat → Nat → List Word → Walk → Except Nat PMap
  | 0, o, ws, v => if ws.isEmpty then .ok v.1 else .error o
  | n + 1, o, ws, v =>
    let w0 := nthW ws 0
    let id := (fld w0 7 0, fld w0 17 8)
    let k := entryWords id.1
    if ws.length < max k 1 ∨ !onlyBits w0 0x3FFFF ∨ id ∈ v.2 then .error o
    else match setEntryFault s o (ws.take k) with
      | some x => .error x
      | none => walkEntries s n (o + 4 * k) (ws.drop k) (applyEntry v.1 (ws.take k), id :: v.2)

/-- The header's faults, by rising offset (Table 15.2, R361, R362). -/
def headerFault (ws : List Word) (len : Nat) : Option Nat :=
  let f := nthW ws 4
  firstFault
    [(nthW ws 0 != 0x5E7A0C01, 0), (fld (nthW ws 1) 15 0 != 1, 4), (!onlyBits f 3 || (bit f 1 && !bit f 0), 0x10),
     ((nthW ws 5).toNat != len, 0x14), (nthW ws 6 != 0, 0x18), (nthW ws 7 != 0, 0x1C)]

/-- The map in force lacks a right that R362 requires, which no entry has given back: no offset shows it. -/
def lacksRights (s : State) (m : PMap) : Bool :=
  (List.range 17).any fun k =>
    let c := tget ({} : CoreRights) m.cores k
    mustKeep s k && !(c.io == 0x7F && c.cx && c.lock && c.mcw)

/-- The check of a change set under R362: BAD_FIELD at an offset (none where no offset shows it), or the resulting map. -/
def checkSet (s : State) (ws : List Word) (len : Nat) : Except (Option Nat) PMap :=
  match headerFault ws len with
  | some x => .error (some x)
  | none =>
    match walkEntries s (fld (nthW ws 1) 31 16) 32 (ws.drop 8) (if bit (nthW ws 4) 0 then {} else s.prot.map, []) with
    | .error x => .error (some x)
    | .ok m => if lacksRights s m then .error none else .ok m

/-- BASE_EPOCH differs from the epoch in force, and is not waived. -/
def baseDiffers (s : State) (ws : List Word) : Bool :=
  !bit (nthW ws 4) 1 && decide (cat64 (nthW ws 2) (nthW ws 3) ≠ s.prot.epoch.toNat)

/-! ## Answers -/

/-- A consent is answered on its way (R365, R370); the twin learns nothing more. -/
def answerConsent (path : ConsentPath) (status : Nat) (r0 : Word) (s : State) : State :=
  match path with
  | .ring cmd => endCommand 0 cmd status r0 0 s
  | .service seq => svcAnswer 0x11 seq status [r0] s
  | .twin => s

/-- The words of a CONSENT_FWD packet (Tables 14.2 and 15.5). -/
def sendConsent (p : BitVec 64) (kind : Nat) (ws digest : List Word) (s : State) : State :=
  sendRel 0x0C 0 ([p.extractLsb' 0 32, p.extractLsb' 32 32, wd kind] ++ padTo 8 ws ++ padTo 8 digest) none s

/-- STATUS from the standby (Table 15.5). -/
def sendStatus (reason : Nat) (digest : List Word) (s : State) : State :=
  sendConsent s.prot.pNum 0x4E
    (two s.prot.epoch.toNat ++ [fields [(reason, 0), (b2n s.prot.lockout.isSome, 8), (lockoutLeft s, 16)]]) digest s

/-- A twin that takes part in proposals (R369, R370). -/
def paired (s : State) : Bool := shadowing s

/-! ## Swap -/

/-- The new map and epoch go to the map-store slot not in use (R358, R366). -/
def writeStore (sw : Swap) (s : State) : State :=
  s.modProt fun p =>
    if p.nextStore then { p with store1 := some (sw.epoch, sw.map), nextStore := false }
    else { p with store0 := some (sw.epoch, sw.map), nextStore := true }

/-- The instant of the swap (R366, R368): the new map is in force and failures are counted anew. -/
def swapNow (sw : Swap) (s : State) : State :=
  let t := (if sw.written then s else writeStore sw s).modProt fun p =>
    { p with map := sw.map, epoch := sw.epoch, isDefault := false, fails := 0, swap := none }
  answerConsent sw.path 0 (sw.epoch.extractLsb' 0 32) t

/-- PROTECTION_SWAP (R366, R370): the write of the store is done, or 1 s has passed since COMMIT. -/
def execProtectionSwap (s : State) : Out := .next (match s.prot.swap with | some sw => swapNow sw s | none => s)

/-- Both signatures are there (R366, R370): the proposal is no longer pending; a primary writes its store and sends COMMIT. -/
def commitProposal (q : Proposal) (path : ConsentPath) (s : State) : State :=
  let e := if paired s then BitVec.ofNat 64 (max s.prot.epoch.toNat s.prot.peerEpoch.toNat + 1) else s.prot.epoch + 1
  let sw : Swap := ⟨e, q.map, q.p, q.digest, path, paired s⟩
  let t := s.modProt fun p => { p with pend := none, swap := some sw }
  if paired s then sendConsent q.p 0x43 (two e.toNat) q.digest (writeStore sw t) else t

/-! ## Lockout -/

/-- A failure is counted; the third starts a lockout, which discards the pending proposal (R365, R368). -/
def countFailure (s : State) : State :=
  s.modProt fun p =>
    if 2 ≤ p.fails then { p with fails := 3, lockout := some s.nowUs, pend := none } else { p with fails := p.fails + 1 }

/-- LOCKOUT_END (R368): the 600 s have passed. -/
def execLockoutEnd (s : State) : Out :=
  .next (if s.prot.lockout.isSome ∧ lockoutLeft s = 0 then s.modProt fun p => { p with lockout := none, fails := 0 } else s)

/-! ## Consents -/

/-- The message M that a party signs (Table 15.4). -/
def signedMessage (digest : List Word) (p : BitVec 64) (party : Byte) : List Word :=
  digest ++ two p.toNat ++ [party.setWidth 32, 0]

/-- The signature of a party verifies under its key (R364). -/
def sigOk (s : State) (q : Proposal) (party : Byte) (sig : List Word) : Bool :=
  match if party = 0x48 then s.prot.keyH else s.prot.keyF with
  | some k => decide (sig = hmacSha256 k (signedMessage q.digest q.p party))
  | none => false

/-- A party's signature is held. -/
def Proposal.sign (q : Proposal) (party : Byte) : Proposal := if party = 0x48 then { q with h := true } else { q with f := true }

/-- The signature is held here and at the twin: PENDING, or with both parties' the swap starts (R365 steps 4 and 5). -/
def acceptConsent (q : Proposal) (party : Byte) (path : ConsentPath) (s : State) : State :=
  let r := q.sign party
  if r.h ∧ r.f then commitProposal r path s
  else answerConsent path 0x0201 0 (s.modProt fun p => { p with pend := some r })

/-- A valid signature at a standby, received on its service port, goes to the primary (R370): it is held here, and a second party's ends
with the COMMIT. -/
def forwardUp (q : Proposal) (party : Byte) (sig : List Word) (path : ConsentPath) (s : State) : State :=
  let r := q.sign party
  let t := sendConsent q.p party.toNat sig q.digest (s.modProt fun p => { p with pend := some r })
  if r.h ∧ r.f then t.modProt fun p => { p with wait := some (.sign path party) } else answerConsent path 0x0201 0 t

/-- Each consent is decided in the order of R365; a primary asks its twin about a valid signature (R370). -/
def decideConsent (path : ConsentPath) (num : BitVec 64) (party : Byte) (sig : List Word) (s : State) : State :=
  if s.prot.lockout.isSome then answerConsent path 0x0203 (wd (lockoutLeft s)) s
  else match s.prot.pend with
    | none => answerConsent path 0x0205 0 s
    | some q =>
      if num ≠ q.p ∨ q.atUs + 60000000 ≤ s.nowUs then answerConsent path 0x0205 0 s
      else if sigOk s q party sig = false then answerConsent path 0x0202 1 (countFailure s)
      else if path = .twin then acceptConsent q party path s
      else if s.twin.st = .standby then forwardUp q party sig path s
      else if paired s then
        (sendConsent q.p party.toNat sig q.digest s).modProt fun p => { p with wait := some (.sign path party) }
      else acceptConsent q party path s

/-- A party's tag. -/
def partyOk (p : Nat) : Bool := p == 0x48 || p == 0x46

/-- Both keys are present (R360). -/
def haveKeys (s : State) : Bool := s.prot.keyH.isSome && s.prot.keyF.isSome

/-- PROTECT_CONSENT (R365): it waits at the head while the twin's answer to another signature is due. -/
def protectConsent (e : SqEnt) (s : State) : State :=
  if e.reservedOk 13 = false ∨ onlyBits (e.dw 4) 0xFF = false ∨ partyOk (fld (e.dw 4) 7 0) = false then completeHead 0 e 0x0002 0 0 s
  else if haveKeys s = false then completeHead 0 e 0x0204 0 0 s
  else if s.prot.wait.isSome then s
  else decideConsent (.ring e.cmd) (BitVec.ofNat 64 (cat64 (e.dw 2) (e.dw 3))) (BitVec.ofNat 8 (fld (e.dw 4) 7 0)) ((e.ws.drop 5).take 8)
    (startHead 0 e s)

/-! ## Proposals -/

/-- PROTECT_PROPOSE's own refusals, in the order KEYS_ABSENT, LOCKED_OUT, BAD_FIELD (R360, R362, R368); a fault that lies outside the
change set has no offset in it. -/
def proposeRefusal (e : SqEnt) (s : State) : Option (Nat × Option Word) :=
  let len := (e.dw 4).toNat
  if e.reservedOk 7 = false then some (0x0002, some 0)
  else if haveKeys s = false then some (0x0204, some 0)
  else if s.prot.lockout.isSome then some (0x0203, some (wd (lockoutLeft s)))
  else if fld (e.dw 2) 1 0 ≠ 0 ∨ fld (e.dw 5) 1 0 ≠ 0 ∨ len % 4 ≠ 0 ∨ len < 32 ∨ 49152 < len then some (0x0002, none)
  else none

/-- The proposal takes effect (R363): it is pending, D is written to DADDR and P is the result. A write that fails makes the command
complete with DATA_ERROR (R305), and the proposal stands. -/
def settleProposal (cmd : BitVec 16) (q : Proposal) (daddr : Nat) (s : State) : State :=
  let b := bufferOut daddr q.digest s
  let t := b.1.modProt fun p => { p with pend := some { q with atUs := s.nowUs } }
  if b.2 then endCommand 0 cmd 0 (q.p.extractLsb' 0 32) (q.p.extractLsb' 32 32) t else endCommand 0 cmd 0x0005 0 0 t

/-- A number is assigned and kept in eFlash; what was pending is discarded (R363). -/
def assignNumber (p : BitVec 64) (s : State) : State := s.modProt fun q => { q with pNum := p, pCount := q.pCount + 1, pend := none }

/-- The announcement of a proposal to the standby (R370). -/
def announce (cmd : BitVec 16) (q : Proposal) (addr len : Nat) (again : Bool) (s : State) : State :=
  sendConsent q.p 0x50 (two addr ++ [wd len]) q.digest
    ((assignNumber q.p s).modProt fun p => { p with wait := some (.announce cmd q addr len again) })

/-- The change set has been read and is good (R363, R370): a lone side proposes alone, a primary asks its standby. -/
def propose (e : SqEnt) (m : PMap) (ws : List Word) (s : State) : State :=
  let q : Proposal := ⟨s.prot.pNum + 1, sha256 ws, m, false, false, s.nowUs⟩
  if 100000 ≤ s.prot.pCount then completeHead 0 e 0x0003 0 0 s
  else if paired s = false then settleProposal e.cmd q (cat64 (e.dw 5) (e.dw 6)) (assignNumber q.p (startHead 0 e s))
  else if s.twin.peerSt ≠ 3 then completeHead 0 e 0x0202 7 0 s
  else announce e.cmd q (cat64 (e.dw 2) (e.dw 3)) (e.dw 4).toNat false (startHead 0 e s)

/-- PROTECT_PROPOSE (R360, R362, R363, R368): `r` is the change set as host memory holds it. -/
def protectPropose (e : SqEnt) (r : RdResult) (s : State) : State :=
  if s.prot.wait.isSome ∨ readsNow s = false then s
  else match proposeRefusal e s with
    | some (st, some w) => completeHead 0 e st w 0 s
    | some (st, none) => completeHead 0 e st s.freshWord.1 0 s.freshWord.2
    | none =>
      let b := bufferIn (cat64 (e.dw 2) (e.dw 3)) (e.dw 4).toNat r s
      match b.2 with
      | none => completeHead 0 e 0x0005 0 0 b.1
      | some ws =>
        match checkSet b.1 ws (e.dw 4).toNat with
        | .error (some x) => completeHead 0 e 0x0002 (wd x) 0 b.1
        | .error none => completeHead 0 e 0x0002 b.1.freshWord.1 0 b.1.freshWord.2
        | .ok m => if baseDiffers b.1 ws then completeHead 0 e 0x0202 5 0 b.1 else propose e m ws b.1

/-! ## Exchanges with the twin -/

/-- ANNOUNCE at the standby (R370): it reads and checks the change set itself; `cs` is what host memory holds for it. -/
def announced (p : BitVec 64) (ws digest : List Word) (cs : RdResult) (s : State) : State :=
  let t := s.modProt fun q => { q with pend := none }
  let b := bufferIn (cat64 (nthW ws 0) (nthW ws 1)) (nthW ws 2).toNat cs t
  if s.prot.lockout.isSome then sendStatus 0 [] t
  else match b.2 with
    | none => sendStatus 2 [] b.1
    | some set =>
      let d := sha256 set
      match checkSet b.1 set (nthW ws 2).toNat with
      | .error _ => sendStatus 4 d b.1
      | .ok m =>
        if baseDiffers b.1 set then sendStatus 5 d b.1
        else if d ≠ digest then sendStatus 3 d b.1
        else if p.toNat ≤ s.prot.pNum.toNat then sendStatus 6 d b.1
        else sendStatus 0 d ((assignNumber p b.1).modProt fun q => { q with pend := some ⟨p, d, m, false, false, s.nowUs⟩ })

/-- SIGN at the standby: it verifies with its own keys. -/
def signAsked (p : BitVec 64) (party : Byte) (sig : List Word) (s : State) : State :=
  match s.prot.pend with
  | none => sendStatus 1 [] s
  | some q =>
    if s.prot.lockout.isNone ∧ p = q.p ∧ sigOk s q party sig then
      sendStatus 0 q.digest (s.modProt fun r => { r with pend := some (q.sign party) })
    else sendStatus 1 q.digest s

/-- COMMIT at the standby: it writes its store, swaps and answers; a consent of its service port that waited has its answer. -/
def committed (p : BitVec 64) (epoch : BitVec 64) (s : State) : State :=
  match s.prot.pend with
  | none => s
  | some q =>
    if p ≠ q.p then s
    else
      let path := match s.prot.wait with | some (.sign x _) => x | _ => .twin
      sendStatus 0 q.digest (swapNow ⟨epoch, q.map, q.p, q.digest, path, false⟩ (s.modProt fun r => { r with pend := none, wait := none }))

/-- STATUS that answers an ANNOUNCE (R370). -/
def announceAnswered (cmd : BitVec 16) (q : Proposal) (addr len : Nat) (again : Bool) (last : BitVec 64) (reason : Nat) (locked : Bool)
    (secs : Nat) (s : State) : State :=
  let t := s.modProt fun p => { p with wait := none }
  match startedEnt s 0 cmd with
  | none => t
  | some e =>
    if locked then endCommand 0 cmd 0x0203 (wd secs) 0 t
    else if reason = 6 ∧ again = false then announce cmd { q with p := last + 1 } addr len true t
    else if reason ≠ 0 then endCommand 0 cmd 0x0202 (wd reason) 0 t
    else settleProposal cmd q (cat64 (e.dw 5) (e.dw 6)) t

/-- STATUS that answers a SIGN (R370): the signature is good on both twins, or it is refused with reason 8. -/
def signAnswered (path : ConsentPath) (party : Byte) (reason : Nat) (locked : Bool) (secs : Nat) (s : State) : State :=
  let t := s.modProt fun p => { p with wait := none }
  if locked then answerConsent path 0x0203 (wd secs) (t.modProt fun p => { p with pend := none })
  else if reason ≠ 0 then answerConsent path 0x0202 8 t
  else match t.prot.pend with
    | none => answerConsent path 0x0205 0 t
    | some q => acceptConsent q party path t

/-- STATUS at the primary (R370): the answer to a COMMIT, an ANNOUNCE or a SIGN. -/
def statusReceived (last : BitVec 64) (ws : List Word) (s : State) : State :=
  let reason := fld (nthW ws 2) 7 0
  let locked := bit (nthW ws 2) 8
  let secs := fld (nthW ws 2) 31 16
  let t := s.modProt fun p => { p with peerEpoch := BitVec.ofNat 64 (cat64 (nthW ws 0) (nthW ws 1)) }
  match s.prot.swap, s.prot.wait with
  | some sw, _ => if sw.written then swapNow sw t else t
  | none, some (.announce cmd q addr len again) => announceAnswered cmd q addr len again last reason locked secs t
  | none, some (.sign path party) => signAnswered path party reason locked secs t
  | none, none => t

/-- CONSENT_FWD (Table 15.5): each kind acts on the side that it addresses; a side that has detached since still takes the answer it waits for. -/
def consentPacket (p : BitVec 64) (kind : Byte) (ws digest : List Word) (cs : RdResult) (s : State) : State :=
  if s.twin.st = .standby then
    (match kind.toNat with
     | 0x50 => announced p ws digest cs s
     | 0x48 | 0x46 => signAsked p kind ws s
     | 0x43 => committed p (BitVec.ofNat 64 (cat64 (nthW ws 0) (nthW ws 1))) s
     | _ => s)
  else if s.twin.st = .primary then
    (match kind.toNat with
     | 0x48 | 0x46 => decideConsent .twin p kind ws s
     | 0x4E => statusReceived p ws s
     | _ => s)
  else if s.twin.st = .alone ∧ kind = 0x4E then statusReceived p ws s
  else s

/-- CONSENT_FWD (R370): an ANNOUNCE whose change set cannot be read for want of a tag stays unread (R197). -/
def execConsentFwd (h : Hdr) (p : BitVec 64) (kind : Byte) (ws digest : List Word) (cs : RdResult) (s : State) : Out :=
  .next (if kind = 0x50 ∧ readsNow s = false then s else acceptRel h (consentPacket p kind ws digest cs) s)

/-! ## Loss of the twin -/

/-- What waits for the twin ends with reason 7 (R370). -/
def endTwinWait (s : State) : State :=
  let t := s.modProt fun p => { p with wait := none }
  match s.prot.wait with
  | none => s
  | some (.announce cmd _ _ _ _) => endCommand 0 cmd 0x0202 7 0 t
  | some (.sign path _) => answerConsent path 0x0202 7 t

/-- HEARTBEAT_LOSS (R330, R335, R370): 300 µs without a valid HEARTBEAT. -/
def execHeartbeatLoss (s : State) : Out :=
  .next (if s.twin.hbLost ∨ s.boot.ready = false ∨ s.host.fatal then s else afterLoss (endTwinWait (lossDeclared s)))

/-! ## Keys -/

/-- A command completes with what its effect answers. -/
def finish (e : SqEnt) (r : Res) : State := completeHead 0 e r.2.1 r.2.2.1 r.2.2.2 r.1

/-- A write to eFlash, OTP or flash has run to its end; a command whose timeout expired meanwhile completes with TIMEOUT, and
the write stands (R293, R315). -/
def afterWrite (late : Bool) (r : Res) : Res :=
  if late then (logFault 0x08 1 0x0012 0x7F 0x1F (some 0) 0 0 r.1, 0x0012, 0, 0) else r

/-- KEY_PROVISION (R315, R359): `ok` says whether the write of the OTP verifies, `late` that the command timeout expires meanwhile. -/
def keyProvision (e : SqEnt) (ok late : Bool) (s : State) : State :=
  let k := fld (e.dw 2) 1 0
  let key := (e.ws.drop 3).take 8
  let have_ := if k = 0 then s.prot.keyH.isSome else if k = 1 then s.prot.keyF.isSome else s.prot.keyI.isSome
  if e.reservedOk 11 = false ∨ onlyBits (e.dw 2) 3 = false ∨ k = 3 ∨ key.all (fun w => w == 0) then completeHead 0 e 0x0002 0 0 s
  else if s.boot.straps.provEn = false then completeHead 0 e 0x0206 0 0 s
  else if have_ then completeHead 0 e 0x0003 0 0 s
  else if ok = false then finish e (afterWrite late (s, 0x0603, 0, 0))
  else finish e (afterWrite late (s.modProt fun p =>
    if k = 0 then { p with keyH := some key } else if k = 1 then { p with keyF := some key } else { p with keyI := some key }, 0, 0, 0))

end Sys2Proof.Machine
end

