-- ==== Sys2Proof/Machine/Admin.lean ====
section
/-! DEFINITION. The admin commands as they run at the head of RING_0 (R304 to R316, Table 13.1). -/

namespace Sys2Proof.Machine

open Sys2Proof

/-! ## The common part -/

/-- Commands that a Gorgar in STANDBY or CATCHUP serves on its own RING_0 (R304). -/
def servedLocally (e : SqEnt) : Bool :=
  [0x01, 0x06, 0x0E, 0x0F, 0x10, 0x13].contains e.opcode || (e.opcode == 0x14 && !bit (e.dw 2) 0)

/-- The admin command at the head of RING_0 with an opcode runs, unless the twin's role keeps it from it (R304). -/
def admin (op : Nat) (go : SqEnt → State → State) (s : State) : State :=
  match headWith s 0 op with
  | none => s
  | some e =>
    if (s.twin.st = .standby ∨ s.twin.st = .catchup ∨ (s.twin.st = .claiming ∧ s.twin.localOnly)) ∧ servedLocally e = false then completeHead 0 e 0x0303 0 0 s else go e s

/-- A command of Table 14.5 KIND 1: a success goes to the standby. -/
def finishShared (e : SqEnt) (r : Res) : State := finish e (if r.2.1 = 0 then sendShadow (.admin e.ws) r.1 else r.1, r.2)

/-- A command of Table 14.5 KIND 2: a success goes to the standby, and is kept for a snapshot. -/
def finishCore (e : SqEnt) (r : Res) : State :=
  finish e (if r.2.1 = 0 then
      sendShadow (.core e.ws) (r.1.modTwin fun t => { t with shadow := { t.shadow with cores := t.shadow.cores ++ [e.ws] } })
    else r.1, r.2)

/-- The 64-bit address in two words, low first (R305). -/
def SqEnt.addr (e : SqEnt) (k : Nat) : Nat := cat64 (e.dw k) (e.dw (k + 1))

/-- A host buffer is written and the command completes with SUCCESS, or DATA_ERROR (R305). -/
def writeOut (e : SqEnt) (a : Nat) (ws : List Word) (r0 r1 : Word) (s : State) : State :=
  let b := bufferOut a ws s
  if b.2 then completeHead 0 e 0 r0 r1 b.1 else completeHead 0 e 0x0005 0 0 b.1

/-- A host buffer is read, or the command completes with DATA_ERROR (R305); without a tag for the read the command waits (R197). -/
def readIn (e : SqEnt) (a len : Nat) (r : RdResult) (go : List Word → State → State) (s : State) : State :=
  if readsNow s = false then s
  else
    let b := bufferIn a len r s
    match b.2 with
    | none => completeHead 0 e 0x0005 0 0 b.1
    | some ws => go ws b.1

/-! ## IDENTIFY -/

/-- Identify data (Table 13.2). -/
def identifyData (s : State) : List Word :=
  padTo 64 (idWords ++ [bootStatus s, fields [(s.host.sessionCores.toNat, 0), (b2n Config.gradeE, 16)], s.host.vendorVer, s.host.customerVer,
    fields [(b2n s.prot.keyH.isSome, 0), (b2n s.prot.keyF.isSome, 1), (b2n s.prot.keyI.isSome, 2), (b2n s.boot.straps.provEn, 3),
      (s.boot.straps.twinPrio.toNat, 4)], 262144, 1024]) ++
  padTo 960 ((List.range 17).map fun k => (List.range 4).map fun i => featReg s k i).flatten

/-- IDENTIFY. -/
def execIdentify (s : State) : Out :=
  .next (admin 0x01 (fun e t =>
    if e.reservedOk 4 = false ∨ e.addr 2 % 4096 ≠ 0 then completeHead 0 e 0x0002 0 0 t
    else writeOut e (e.addr 2) (identifyData t) 4096 0 t) s)

/-! ## Rings, accounts, clocks, groups, ledger -/

def execRingCreate (s : State) : Out := .next (admin 0x02 (fun e t => finishShared e (ringCreate e t)) s)

/-- RING_DELETE: nothing is kept of a ring that has gone. -/
def execRingDelete (s : State) : Out :=
  .next (admin 0x03 (fun e t =>
    let r := ringDelete e t
    finishShared e (if r.2.1 = 0 then forgetRing (fld (e.dw 2) 9 0) r.1 else r.1, r.2)) s)

def execRingReset (s : State) : Out := .next (admin 0x04 ringReset s)
def execAccountSet (s : State) : Out := .next (admin 0x05 (fun e t => finishShared e (accountSet e t)) s)
def execClockPolicySet (s : State) : Out := .next (admin 0x0A (fun e t => finishShared e (clockPolicySet e t)) s)
def execHedgeConfig (s : State) : Out := .next (admin 0x0B (fun e t => finishShared e (hedgeConfig e t)) s)
def execLedgerAttach (s : State) : Out := .next (admin 0x11 (fun e t => finishShared e (ledgerAttach e t)) s)

/-! ## Cores -/

/-- CORE_START: `slot` is what the flash slot in use holds, when it answers. -/
def execCoreStart (flashOk : Bool) (slot : List Word) (s : State) : Out :=
  .next (admin 0x07 (fun e t => finishCore e (coreStart e (if flashOk then some slot else none) t)) s)

/-- CORE_STOP: it waits at the head until every context of its mask is HALTED. -/
def execCoreStop (s : State) : Out :=
  .next (admin 0x08 (fun e t =>
    match coreStopRefusal e t with
    | some st => completeHead 0 e st 0 0 t
    | none =>
      let r := coreStop e t
      if r.2 then finishCore e (r.1, 0, 0, 0) else r.1) s)

def execModeSet (s : State) : Out := .next (admin 0x09 (fun e t => finishCore e (modeSetCmd e t)) s)

/-! ## IMAGE_LOAD -/

/-- The digests that the two readings of an image must share (R458). -/
def imgDigests (ws : List Word) : List (List Word) :=
  sha256 (ws.take 48 ++ (ws.drop 64).take (2 * imgNseg ws)) :: (imgSegments ws).map fun g => sha256 (g.hdr.take 16 ++ g.body)

/-- A flash slot holds these words from now on (R458). -/
def programSlot (i : Nat) (ws : List Word) (s : State) : State :=
  s.modBoot fun b => { b with flashed := (b.flashed.filter fun e => e.1 != i) ++ [(i, ws)] }

/-- An image goes to a flash slot (R458): `ws` is its first reading and `second` its second; `ok` says whether erasing, programming and the
read-back succeed, and `late` that the command timeout expires meanwhile. -/
def writeImage (i len : Nat) (ws second : List Word) (ok late : Bool) (s : State) : Res :=
  if s.boot.slot.toNat = i ∨ imgLen ws ≠ len then refuse 0x0002 s
  else if imgValid s.prot.keyI ws = false then refuse 0x0602 s
  else if imgDigests second ≠ imgDigests ws then afterWrite late (programSlot i [] s, 0x0602, 0, 0)
  else if ok = false then afterWrite late (programSlot i [] s, 0x0603, 0, 0)
  else afterWrite late (programSlot i second s, 0, imgSeries ws, 0)

/-- The work cores that a mask names. -/
def coresIn (m : Nat) : List Nat := (List.range 16).filter fun k => m.testBit k

/-- One KIND 4 segment goes to the cores that CORES names (R311, R367). -/
def loadSegment (cores : Nat) (ws : List Word) (s : State) : Res :=
  let g := segmentOf ws
  let ks := coresIn cores
  if g.kind ≠ 4 ∨ g.wellFormed s.host.sessionCores = false ∨ ws.length ≠ 32 + g.bodyLen / 4 ∨ ks.isEmpty ∨
      ks.any (fun k => !jobCore s k || !(s.rights k).mcw) then refuse 0x0002 s
  else if ks.any (fun k => (ctxsOf k).any fun c => decide ((s.ctx c).st ≠ .halted)) then refuse 0x0501 s
  else if (match s.prot.keyI with | some key => g.signed key | none => false) = false then refuse 0x0602 s
  else
    (ks.foldl (fun t k => (applySegment k g t).modCore k fun q => { q with storesValid := true }) (applyEntries g s), 0,
      g.uimage.setWidth 32, 0)

/-- IMAGE_LOAD (R311, R458). -/
def execImageLoad (r r2 : RdResult) (ok late : Bool) (s : State) : Out :=
  .next (admin 0x06 (fun e t =>
    let dest := fld (e.dw 2) 1 0
    let len := (e.dw 5).toNat
    if e.reservedOk 6 = false ∨ onlyBits (e.dw 2) 0xFFFF0003 = false ∨ dest = 3 ∨ e.addr 3 % 4 ≠ 0 ∨
        (if dest = 0 then decide (128 ≤ len ∧ len ≤ 1048576) else decide (264 ≤ len ∧ len ≤ 4194304)) = false ∨
        (dest ≠ 0 ∧ t.boot.slot.toNat + 1 = dest) then completeHead 0 e 0x0002 0 0 t
    else readIn e (e.addr 3) len r (fun ws u =>
      if dest = 0 then finish e (loadSegment (fld (e.dw 2) 31 16) ws u)
      else readIn e (e.addr 3) len r2 (fun second v => finish e (writeImage (dest - 1) len ws second ok late v)) u) t) s)

/-! ## Protection -/

def execProtectPropose (r : RdResult) (s : State) : Out := .next (admin 0x0C (fun e t => protectPropose e r t) s)
def execProtectConsent (s : State) : Out := .next (admin 0x0D protectConsent s)
def execKeyProvision (ok late : Bool) (s : State) : Out := .next (admin 0x0E (fun e t => keyProvision e ok late t) s)

/-! ## The calibration page -/

/-- The page that eFlash holds: the factory's until a CAL_WRITE (R462, R466). -/
def calPageWords (s : State) : List Word := match s.boot.calPage with | some ws => ws | none => (List.range 1024).map Config.calPage

/-- The check of R464 against the unit's own serial. -/
def calPageOk (ws : List Word) : Bool :=
  nthW ws 0 == 0x43414C50 && nthW ws 1 == wd (1 + 0x1000 * 2 ^ 16) && nthW ws 2 == serialLo && nthW ws 3 == serialHi &&
  nthW ws 7 == crc32 (ws.take 7 ++ (ws.drop 8).take 1016)

/-- CAL_READ. -/
def execCalRead (s : State) : Out :=
  .next (admin 0x0F (fun e t =>
    if e.reservedOk 4 = false ∨ e.addr 2 % 4096 ≠ 0 then completeHead 0 e 0x0002 0 0 t
    else writeOut e (e.addr 2) (calPageWords t) (wd (b2n t.boot.calValid)) (wd t.boot.eraseCount) t) s)

/-- The page is erased and programmed (R466); a write that fails leaves an invalid page of unknown content. -/
def programCal (ws : List Word) (ok : Bool) (s : State) : State :=
  if ok then s.modBoot fun b => { b with calPage := some ws, calValid := true, calBad := false, eraseCount := b.eraseCount + 1 }
  else
    let f := freeWords 1024 s
    f.2.modBoot fun b => { b with calPage := some f.1, calValid := false, calBad := true, eraseCount := b.eraseCount + 1 }

/-- CAL_WRITE (R315, R466): `r` is the new page as host memory holds it, `ok` whether erasing, programming and read-back succeed,
`late` that the command timeout expires meanwhile. -/
def execCalWrite (r : RdResult) (ok late : Bool) (s : State) : Out :=
  .next (admin 0x10 (fun e t =>
    if e.reservedOk 5 = false ∨ e.addr 2 % 4096 ≠ 0 ∨ e.dw 4 ≠ 0x43414C57 then completeHead 0 e 0x0002 0 0 t
    else if t.pass.isOpen then completeHead 0 e 0x0404 0 0 t
    else readIn e (e.addr 2) 4096 r (fun ws u =>
      if calPageOk ws = false then completeHead 0 e 0x0604 0 (wd u.boot.eraseCount) u
      else
        let v := programCal ws ok u
        finish e (afterWrite late (v, if ok then 0 else 0x0603, 0, wd v.boot.eraseCount))) t) s)

/-! ## LOG_FETCH -/

/-- A record (Table 20.8): its header and body; `lost` and the entry count as its kind has them. -/
def logRecord (kind index entries lost : Nat) (frozen : Bool) (body : List Word) : List Word :=
  [fields [(kind, 0), (index, 8), (entries, 16)], fields [(b2n frozen, 0), (lost, 8), (8 + 4 * body.length, 16)]] ++ body

/-- The record of a trail. -/
def trailRecord (s : State) (k : Nat) : List Word :=
  let t := (s.core k).trail
  logRecord (if k = 16 then 2 else 1) k t.length 0 s.faults.frozen
    (t.map fun e => if e.bad then [0xFFFFFFFF, 0xFFFFFFFF] else [e.w0, e.w1]).flatten

/-- The records that SEL selects, in its bit order, each with the group whose snapshot it is (R316, R483). -/
def logRecords (s : State) (sel : Word) : List (List Word × Option Nat) :=
  (((List.range 17).filter fun k => bit sel k).map fun k => (trailRecord s k, none)) ++
  (if bit sel 17 then
    [(logRecord 3 0 s.faults.log.length s.faults.lostLog.toNat s.faults.frozen (s.faults.log.map LogEnt.read).flatten, none)] else []) ++
  (if bit sel 18 then
    ((List.range 8).filter fun g => (s.group g).fired).map fun g => (logRecord 4 g (s.group g).snap.length 0 true (s.group g).snap, some g)
    else [])

/-- Whole records up to `len` bytes, and those left from the first that does not fit. -/
def fitRecords : Nat → List (List Word × Option Nat) → List (List Word × Option Nat) × List (List Word × Option Nat)
  | _, [] => ([], [])
  | len, r :: rest =>
    if 4 * r.1.length ≤ len then
      let t := fitRecords (len - 4 * r.1.length) rest
      (r :: t.1, t.2)
    else ([], r :: rest)

/-- Bytes of a list of records. -/
def recordBytes (l : List (List Word × Option Nat)) : Nat := l.foldl (fun n r => n + 4 * r.1.length) 0

/-- The Breadcrumbs are released, and each snapshot written (R316, R482). -/
def releaseLog (l : List (List Word × Option Nat)) (s : State) : State :=
  l.foldl (fun t r => match r.2 with
    | some g => t.modGroup g fun q => { q with fired := false }
    | none => t) (s.modFaults fun f => { f with frozen := false, lostLog := 0 })

/-- Of the entries found with wrong parity, those of the arrays that SEL selects (R316, R520). -/
def badSelected (sel : Word) (bad : List (Nat × Nat)) : List (Nat × Nat) := bad.filter fun e => decide (e.1 ≤ 17) && bit sel e.1

/-- LOG_FETCH (R316, R482, R483, R520). -/
def execLogFetch (s : State) (bad : List (Nat × Nat) := []) : Out :=
  .next (admin 0x13 (fun e t =>
    let sel := e.dw 5
    if e.reservedOk 6 = false ∨ e.addr 2 % 4096 ≠ 0 ∨ sel = 0 ∨ onlyBits sel 0xFFFFF = false then completeHead 0 e 0x0002 0 0 t
    else
      let m := markAllBad (badSelected sel bad) t
      let l := fitRecords (e.dw 4).toNat (logRecords m sel)
      let b := bufferOut (e.addr 2) (l.1.map fun r => r.1).flatten m
      if b.2 = false then completeHead 0 e 0x0005 0 0 b.1
      else completeHead 0 e 0 (wd (recordBytes l.1)) (wd (recordBytes l.2))
        (if bit sel 19 ∧ l.2.isEmpty then releaseLog l.1 b.1 else b.1)) s)

/-! ## RESYNC -/

/-- RESYNC with ACTION = 0. -/
def execResyncSummary (s : State) (bad : List Nat := []) : Out :=
  .next (admin 0x14 (fun e t => if bit (e.dw 2) 0 then t else resyncSummary bad e t) s)

/-- RESYNC with ACTION = 1. -/
def execResyncResume (s : State) : Out := .next (admin 0x14 (fun e t => if bit (e.dw 2) 0 then resyncResume e t else t) s)

end Sys2Proof.Machine
end

