-- ==== Sys2Proof/Machine/Arith.lean ====
section
/-! DEFINITION. Arithmetic, logic, multiply, divide, compare, extension and bit-counting instructions (R102 to R109). -/

namespace Sys2Proof.Machine

open Sys2Proof

/-- An instruction ( a -- r ). -/
def unaryOp (op : Nat) (g : Word → Word) (slots c : Nat) (f : BitVec 4) (s : State) : State :=
  stackInstr op .keeps c f slots (fun _ => stackOp 1 0 0 0 fun x =>
    match x.ds with
    | a :: t => .ok { x with ds := g a :: t }
    | _ => .ok x) s

/-- An instruction ( a b -- r ) that leaves the flags alone. -/
def binaryOp (op : Nat) (g : Word → Word → Word) (slots c : Nat) (f : BitVec 4) (s : State) : State :=
  stackInstr op .keeps c f slots (fun _ => stackOp 2 0 0 0 fun x =>
    match x.ds with
    | b :: a :: t => .ok { x with ds := g a b :: t }
    | _ => .ok x) s

/-- An instruction ( a b -- r ) of one slot that sets C and V from a, b and C (Table 4.7). -/
def flagOp (op : Nat) (g : Word → Word → Bool → Word × Bool × Bool) (c : Nat) (f : BitVec 4) (s : State) : Out :=
  .next (stackInstr op .keeps c f 1 (fun _ => stackOp 2 0 0 0 fun x =>
    match x.ds with
    | b :: a :: t =>
      let r := g a b x.cf
      .ok { x with ds := r.1 :: t, cf := r.2.1, vf := r.2.2 }
    | _ => .ok x) s)

/-- A multiply: its cell keeps b until the product lands (R63, R64, R104). -/
def multiplyOp (op : Nat) (g : Word → Word → Word) (v : Word → Word → Option Bool) (c : Nat) (f : BitVec 4) (s : State) : Out :=
  .next (stackInstr op .keeps c f 1 (fun det => stackOp 2 0 0 0 fun x =>
    match x.ds with
    | b :: a :: t => .ok (lateTop det (g a b) (v a b) { x with ds := b :: t })
    | _ => .ok x) s)

/-- Island cycles of the microwords `i` up to `j` of a divide: the first takes one, each other four (R106). -/
def divideCycles (i j : Nat) : Nat := if i = 0 ∧ 0 < j then 1 + 4 * (j - 1) else 4 * (j - i)

/-- The microword before which a divide stops that has issued `i`: after `stop` more, or at its end, the ninth, for 0. -/
def divideEnd (i stop : Nat) : Nat := if stop = 0 ∨ 9 ≤ i + stop then 9 else i + stop

/-- A divide of a and b goes on behind its microword `i` (R54, R106, R107): before its last microword it writes nothing, and stands between two of its
microwords; with the last its result stands. -/
def divideFrom (op : Nat) (g : Word → Word → Word) (v : Word → Word → Option Bool) (c : Nat) (f : BitVec 4) (stop i : Nat) (a b : Word)
    (u : View) (s : State) : State :=
  let j := divideEnd i stop
  let pc := (s.ctx c).pc
  let more := divideCycles i j - (j - i)
  if j < 9 then commit c (j - i) ({ u.1 with mid := some (.divide op f j a b) }, u.2.1, u.2.2 + more) pc s
  else
    let y : Ctx := { u.1 with mid := none, ds := g a b :: u.1.ds.drop 2, vf := (v a b).getD u.1.vf }
    match withExit (exitBit f) .keeps (fun w => .ok w) (pc + 2) (y, u.2.1, u.2.2 + more) with
    | .error t => raiseTrap c t.1 t.2 s
    | .ok r =>
      let t := commit c (j - i) r.1 r.2 s
      if exitBit f then trailFlow c pc 4 r.2 t else t

/-- A divide (R105 to R107): nine microwords that take 33 ic; b = 0 traps in the first with both operands in place. The operands are those that it reads
at its first microword (R63); `stop` is the number of microwords after which the step leaves it between two, 0 for its end. -/
def divideOp (op : Nat) (g : Word → Word → Word) (v : Word → Word → Option Bool) (c : Nat) (f : BitVec 4) (stop : Nat) (s : State) : Out :=
  .next (issueOrResume true c (fun s =>
    if legalOp s c op f = false then raiseTrap c 0x01 0 s
    else match withExit (exitBit f) .keeps (stackOp 2 0 0 0 fun x => if x.ds.headD 0 = 0 then .error (0x05, 0) else .ok x) 0 (viewOf s c) with
      | .error t => raiseTrap c t.1 t.2 s
      | .ok _ =>
        match need false 2 (viewOf s c) with
        | .error t => raiseTrap c t.1 t.2 s
        | .ok u => divideFrom op g v c f stop 0 (u.1.ds.getD 1 0) (u.1.ds.headD 0) u s)
    (fun m s => match m with
      | .divide op' f' i a b => if op' = op ∧ f' = f then divideFrom op g v c f stop i a b (viewOf s c) s else s
      | .user _ _ _ => s) s)

def execAdd (c : Nat) (f : BitVec 4) (s : State) : Out := flagOp 0x10 (fun a b _ => addFlags a b false) c f s
def execSub (c : Nat) (f : BitVec 4) (s : State) : Out := flagOp 0x11 (fun a b _ => subFlags a b false) c f s
def execAddc (c : Nat) (f : BitVec 4) (s : State) : Out := flagOp 0x12 addFlags c f s
def execSubc (c : Nat) (f : BitVec 4) (s : State) : Out := flagOp 0x13 subFlags c f s
def execAnd (c : Nat) (f : BitVec 4) (s : State) : Out := .next (binaryOp 0x14 (fun a b => a &&& b) 1 c f s)
def execOr (c : Nat) (f : BitVec 4) (s : State) : Out := .next (binaryOp 0x15 (fun a b => a ||| b) 1 c f s)
def execXor (c : Nat) (f : BitVec 4) (s : State) : Out := .next (binaryOp 0x16 (fun a b => a ^^^ b) 1 c f s)
def execNot (c : Nat) (f : BitVec 4) (s : State) : Out := .next (unaryOp 0x17 (fun a => ~~~a) 1 c f s)

/-- NEG sets both flags (Table 4.7). -/
def execNeg (c : Nat) (f : BitVec 4) (s : State) : Out :=
  .next (stackInstr 0x18 .keeps c f 1 (fun _ => stackOp 1 0 0 0 fun x =>
    match x.ds with
    | a :: t =>
      let r := negFlags a
      .ok { x with ds := r.1 :: t, cf := r.2.1, vf := r.2.2 }
    | _ => .ok x) s)

def execShl (c : Nat) (f : BitVec 4) (s : State) : Out := .next (binaryOp 0x19 shlWord 1 c f s)
def execShr (c : Nat) (f : BitVec 4) (s : State) : Out := .next (binaryOp 0x1A shrWord 1 c f s)
def execSar (c : Nat) (f : BitVec 4) (s : State) : Out := .next (binaryOp 0x1B sarWord 1 c f s)
def execRol (c : Nat) (f : BitVec 4) (s : State) : Out := .next (binaryOp 0x1C rolWord 1 c f s)
def execRor (c : Nat) (f : BitVec 4) (s : State) : Out := .next (binaryOp 0x1D rorWord 1 c f s)
def execMul (c : Nat) (f : BitVec 4) (s : State) : Out := multiplyOp 0x20 (fun a b => (mulFlags a b).1) (fun a b => some (mulFlags a b).2) c f s
def execMulh (c : Nat) (f : BitVec 4) (s : State) : Out := multiplyOp 0x21 mulhWord (fun _ _ => none) c f s
def execMulhu (c : Nat) (f : BitVec 4) (s : State) : Out := multiplyOp 0x22 mulhuWord (fun _ _ => none) c f s
def execDiv (c : Nat) (f : BitVec 4) (s : State) (stop : Nat := 0) : Out := divideOp 0x23 divWord (fun a b => some (divOvf a b)) c f stop s
def execDivu (c : Nat) (f : BitVec 4) (s : State) (stop : Nat := 0) : Out := divideOp 0x24 divuWord (fun _ _ => none) c f stop s
def execMod (c : Nat) (f : BitVec 4) (s : State) (stop : Nat := 0) : Out := divideOp 0x25 modWord (fun a b => some (divOvf a b)) c f stop s
def execModu (c : Nat) (f : BitVec 4) (s : State) (stop : Nat := 0) : Out := divideOp 0x26 moduWord (fun _ _ => none) c f stop s
def eqAlone (slots c : Nat) (f : BitVec 4) (s : State) : State := binaryOp 0x28 eqWord slots c f s
def execNe (c : Nat) (f : BitVec 4) (s : State) : Out := .next (binaryOp 0x29 neWord 1 c f s)
def ltAlone (slots c : Nat) (f : BitVec 4) (s : State) : State := binaryOp 0x2A ltWord slots c f s
def ltuAlone (slots c : Nat) (f : BitVec 4) (s : State) : State := binaryOp 0x2B ltuWord slots c f s
def zeqAlone (slots c : Nat) (f : BitVec 4) (s : State) : State := unaryOp 0x2C zeqWord slots c f s
def execMin (c : Nat) (f : BitVec 4) (s : State) : Out := .next (binaryOp 0x2D minWord 1 c f s)
def execMax (c : Nat) (f : BitVec 4) (s : State) : Out := .next (binaryOp 0x2E maxWord 1 c f s)
def execSexb (c : Nat) (f : BitVec 4) (s : State) : Out := .next (unaryOp 0x30 sexb 1 c f s)
def execSexh (c : Nat) (f : BitVec 4) (s : State) : Out := .next (unaryOp 0x31 sexh 1 c f s)
def execZexb (c : Nat) (f : BitVec 4) (s : State) : Out := .next (unaryOp 0x32 zexb 1 c f s)
def execZexh (c : Nat) (f : BitVec 4) (s : State) : Out := .next (unaryOp 0x33 zexh 1 c f s)
def execClz (c : Nat) (f : BitVec 4) (s : State) : Out := .next (unaryOp 0x34 clzWord 1 c f s)
def execPopc (c : Nat) (f : BitVec 4) (s : State) : Out := .next (unaryOp 0x35 popcWord 1 c f s)

end Sys2Proof.Machine
end

