-- ==== Sys2Proof/Machine/BringUp.lean ====
section
/-! DEFINITION. Bring-up (R434, R440, R448, R449, R454 to R456, R459, R464, R465) and the service commands (R460, R461). The resident and
the session firmware act through the commands that carry their effects; their contexts are not run (assumption log 9). -/

namespace Sys2Proof.Machine

open Sys2Proof

/-! ## Phase 1: the Hearth check -/

/-- The newer of two valid slots (R440). -/
def newerSlot (s : State) : Bool := seqNewer (jnlWord s true 1) (jnlWord s false 1)

/-- The journal is initialised: slot 0 with SEQ 0 and slot 1 with SEQ 1, REASON 0 and every other field 0 (R440). -/
def initJournal (s : State) : State :=
  s.modHearth fun h =>
    { h with journal := writeWords (writeWords h.journal 0 (jnlEmpty 0 0)) 4096 (jnlEmpty 1 0), hstate := 2, lastSlot := false, jnlNext := false }

/-- The Hearth is lost (Table 18.3): RTC_VALID := 0, the journal is initialised and the latch is cleared. -/
def hearthLost (s : State) : State := initJournal (s.modHearth fun h => { h with rtcValid := false, lossLatch := false })

/-- The Hearth check (R440, Table 18.3). -/
def hearthCheck (s : State) : State :=
  if s.hearth.lossLatch then hearthLost s
  else match jnlValid s false, jnlValid s true with
    | true, true => s.modHearth fun h => { h with hstate := 0, lastSlot := newerSlot s, jnlNext := !newerSlot s }
    | true, false => s.modHearth fun h => { h with hstate := 1, lastSlot := false, jnlNext := true }
    | false, true => s.modHearth fun h => { h with hstate := 1, lastSlot := true, jnlNext := false }
    | false, false => logFault 0x13 1 0 0x7F 0 none 0 0 (hearthLost s)

/-- Phase 1: the check, the count of bring-ups, and the measurement of VBAT (R434, Table 18.2). -/
def phase1 (b : BringUpIn) (s : State) : State :=
  let t := measureVbat b.vbatMv (hearthCheck s)
  t.modBoot fun q =>
    { q with bringUps := if t.hearth.hstate = 2 then 1 else BitVec.ofNat 16 (fld (jnlWord t t.hearth.lastSlot 5) 31 16 + 1) }

/-! ## Phases 3 and 4: calibration -/

/-- The trims that a valid page supplies in phase 3 (Table 19.7, R464). -/
def pageTrims (s : State) : Trims :=
  let bytes := fun (o n : Nat) => (List.range n).map fun i => BitVec.ofNat 8 (calByte s (o + i))
  { taps := (bytes 0xF14 16).map (BitVec.setWidth 5), laneTx := bytes 0xF24 4, laneRx := bytes 0xF28 4, monitors := bytes 0xF2C 7 }

/-- Phase 3 (R435, R464, R465): the page is checked; a valid one supplies the trims, and otherwise the defaults apply. -/
def phase3 (b : BringUpIn) (s : State) : State :=
  let ok := b.calOk && !s.boot.calBad && (match s.boot.calPage with | some ws => calPageOk ws | none => true)
  let u := s.modBoot fun q => { q with calLive := q.calPage, calValid := ok }
  let t := u.modBoot fun q => { q with trims := if ok then pageTrims u else {} }
  (t.modClk fun k => { k with calDefaults := !ok }).modHearth fun h => { h with trim := if ok then BitVec.ofInt 16 (calHalf t 0xF10) else 0 }

/-- Phase 4 for one island (Table 19.2): the fine trim of the page, and the 6 % rule at the code nearest 100 MHz. -/
def trimIsland (d khz : Nat) (s : State) : State :=
  let t := s.modDom d fun m => { m with trim := Config.phase4Trim d }
  let est := estimate t d (nearestCode t d 100) * 100
  let got := khz * tempDenom * 1000000
  if (t.dom d).refLock then t
  else if 6 * est < 100 * ((got * 100 - est) + (est - got * 100)) then strayLock d t
  else t

/-- The clock policy starts: each adaptive island in RUN starts at its safe code (R34), or under reference lock with CAL_DEFAULTS (R38). -/
def startPolicy (s : State) : State :=
  (adaptive.foldl (fun t d =>
    let m := t.dom d
    if m.state ≠ .run then t
    else if t.clk.calDefaults then (if m.refLock then t else setLock d true m.lockMhz.toNat t)
    else if m.refLock then t
    else t.modDom d fun m => { m with code := BitVec.ofNat 6 (safeCode t d) }) s).modClk fun k => { k with policyOn := true }

/-- Phase 4: with CAL_DEFAULTS the measurement is skipped (R465). -/
def phase4 (b : BringUpIn) (s : State) : State :=
  startPolicy (if s.clk.calDefaults then s else adaptive.foldl (fun t d => trimIsland d (b.khz.getD (d - 2) 0) t) s)

/-! ## Phase 5: supervisor ROM -/

/-- The valid map-store slot with the higher epoch, and which it is (R358). -/
def storedMap (b : BringUpIn) (p : Prot) : Option (BitVec 64 × PMap × Bool) :=
  match if b.mapOk0 then p.store0 else none, if b.mapOk1 then p.store1 else none with
  | some x, some y => if x.1 < y.1 then some (y.1, y.2, true) else some (x.1, x.2, false)
  | some x, none => some (x.1, x.2, false)
  | none, some y => some (y.1, y.2, true)
  | none, none => none

/-- Phase 5 (R358, R446, R477): the map, the watchdog, and the journal entry of a device-fatal fault. -/
def phase5 (b : BringUpIn) (s : State) : State :=
  let t := match storedMap b s.prot with
    | some m => s.modProt fun p => { p with map := m.2.1, epoch := m.1, isDefault := false, nextStore := !m.2.2 }
    | none => logFault 0x12 1 0 0x7F 0x1F none 0 0 (s.modProt fun p => { p with map := {}, epoch := 0, isDefault := true, nextStore := false })
  let u := t.modHearth fun h => { h with wdtEn := true, wdtUs := 0, wdtWarn := false, wdtHalf := false }
  if (frozenFatal u).isSome then journal 7 u else u

/-! ## Phase 6: image verify -/

/-- What a flash slot holds: what this Gorgar programmed last, else what the outside world put there. -/
def slotWords (b : BringUpIn) (s : State) (i : Nat) : List Word :=
  match s.boot.flashed.find? fun e => e.1 == i with
  | some e => e.2
  | none => if i = 0 then b.slotA else b.slotB

/-- The order in which slots are tried (R454). -/
def slotOrder (b : BringUpIn) (s : State) : List Nat :=
  match s.boot.straps.bootSrc.toNat with
  | 0 => if seqNewer (imgSeries (slotWords b s 1)) (imgSeries (slotWords b s 0)) then [1, 0] else [0, 1]
  | 1 => [0, 1]
  | 2 => [1, 0]
  | _ => []

/-- Why a slot failed (R459, R467): FLASH_ERROR, IMAGE_BAD_SIG for a signature, BAD_FIELD for any other ground of R454. -/
def slotFault (b : BringUpIn) (key : Option (List Word)) (ws : List Word) : Nat :=
  if b.flashOk = false then 0x0603
  else if nthW ws 0 ≠ 0x5E7A0160 ∨ fld (nthW ws 1) 15 0 ≠ 1 ∨ imgDirOk ws = false then 0x0002
  else if imgSigned key ws = false ∨ (imgSegments ws).any (fun g => decide (1 ≤ g.kind ∧ g.kind ≤ 3) && !g.signed Config.swetiaKey) then 0x0602
  else 0x0002

/-- Slots are tried in order: the first valid one, and every one that failed before it is logged (R454, R459). -/
def trySlots (b : BringUpIn) : List Nat → State → State × Option Nat
  | [], s => (s, none)
  | i :: rest, s =>
    let ws := slotWords b s i
    if b.flashOk && imgValid s.prot.keyI ws then (s, some i)
    else trySlots b rest (logFault 0x15 1 (slotFault b s.prot.keyI ws) 0x7F 0x1F none i (0x400000 * i) s)

/-- Each KIND 4 segment that is skipped is logged (R455); none while the customer image key is absent. -/
def logSkipped (ws : List Word) (s : State) : State :=
  if s.prot.keyI.isNone then s
  else ((imgSegments ws).zipIdx.filter fun g => g.1.kind == 4).foldl (fun t g =>
    match skipReason s.prot.keyI (imgSession ws) g.1 with
    | some st => logFault 0x14 1 st 0x7F 0x1F none g.2 (nthW ws (64 + 2 * g.2)).toNat t
    | none => t) s

/-- Phase 6: a slot is in use, or the Gorgar is stranded and PHASE stays 6 (R454, R459). -/
def phase6 (b : BringUpIn) (s : State) : State :=
  let r := trySlots b (slotOrder b s) s
  match r.2 with
  | some i =>
    let ws := (slotWords b s i).take (imgLen (slotWords b s i) / 4)
    (logSkipped ws r.1).modBoot fun q => { q with slot := BitVec.ofNat 2 i, image := ws, custKey := s.prot.keyI.isSome, phase := 7 }
  | none => r.1.modBoot fun q => { q with slot := 2, bootFail := true }

/-! ## Phases 7 and 8 -/

/-- The cores that a segment of the image names. -/
def loadedCores (key : Option (List Word)) (ws : List Word) : List Nat :=
  (List.range 16).filter fun k => (loadOrder key ws).any (Segment.names · k)

/-- Phase 7 (R455, R456): the stores and memories are loaded; the islands of SESSION_CORES stay in RUN. -/
def phase7 (s : State) : State :=
  let ws := s.boot.image
  let key := s.prot.keyI
  let t := loadImage key ws (s.modHost fun h =>
    { h with
      sessionCores := imgSession ws, vendorVer := nthW ws 4
      customerVer := if (customerSegments key ws).isEmpty then 0 else nthW ws 5 })
  (loadedCores key ws).foldl (fun u k =>
    let v := bringUp k u
    if bit (imgSession ws) k then v else requestState (domOf k) .stopped v) t

/-- READY (R332, R368, R439, Table 19.2): an interrupted lockout starts again, the journal has its entry, and the Gorgar claims. -/
def becomeReady (s : State) : State :=
  let t := (s.modBoot fun q => { q with phase := 8, ready := true }).modProt fun p => { p with lockout := p.lockout.map fun _ => s.nowUs }
  enterClaiming false (journal 1 t)

/-- BRING_UP_PHASE_COMPLETE (R448): the phase in progress ends and the next begins. Phase 1 waits until the Hearth runs from main, phase 2
for the PLL (R440, R449). -/
def execBringUpPhaseComplete (b : BringUpIn) (s : State) : Out :=
  let next := fun (n : Nat) (t : State) => t.modBoot fun q => { q with phase := BitVec.ofNat 4 n }
  .next (if s.boot.inReset ∨ s.boot.straps.testMode ∨ s.boot.bootFail then s
    else match s.boot.phase.toNat with
      | 1 => if s.hearth.onVbat then s else next 2 (phase1 b s)
      | 2 => if b.pllOk then next 3 ((s.modClk fun k => { k with pllLocked := true }).modBoot fun q => { q with porPending := false }) else s
      | 3 => next 4 (phase3 b s)
      | 4 => next 5 (phase4 b s)
      | 5 => next 6 (phase5 b s)
      | 6 => phase6 b s
      | 7 => becomeReady (phase7 s)
      | _ => s)

/-! ## The service port -/

/-- The service port is served: mission mode, out of reset, S not halted by a device-fatal fault. -/
def svcServed (s : State) : Bool := !s.boot.inReset && !s.boot.straps.testMode && !s.host.fatal

/-- A service command is carried out in its state, and answered BAD_OPCODE outside it (R461). -/
def service (cmd : Nat) (seq : Byte) (here : Bool) (go : State → State) (s : State) : State :=
  if svcServed s = false then s else if here then go s else svcAnswer cmd seq 0x0001 [] s

/-- STATUS. -/
def execStatus (seq : Byte) (s : State) : Out :=
  .next (service 0x01 seq true (fun t => svcAnswer 0x01 seq 0 [bootStatus t, devStatus t, resetCauseWord t, serialLo, serialHi] t) s)

/-- Bytes written to shared SRAM: a word that is written whole has good check bits again (R192). -/
def sramBytes (a : Nat) (bs : List Byte) (s : State) : State :=
  let t := s.modFab fun f => { f with sram := bs.zipIdx.foldl (fun m e => writeByte m (a + e.2) e.1) f.sram }
  ((List.range (bs.length / 4 + 1)).map fun i => (a + 3) / 4 * 4 + 4 * i).foldl (fun u w =>
    if w + 4 ≤ a + bs.length then setEcc w none u else u) t

/-- STAGE (R461). -/
def execStage (seq : Byte) (off : Nat) (data : List Byte) (s : State) : Out :=
  .next (service 0x02 seq s.boot.bootFail (fun t =>
    if 0x400000 ≤ off ∨ 0x400000 < off + data.length ∨ 1016 < data.length then svcAnswer 0x02 seq 0x0002 [] t
    else svcAnswer 0x02 seq 0 [] (sramBytes (0x10000000 + off) data t)) s)

/-- COMMIT (R458, R461): the staged bytes are an image for a slot; `ok` says whether the flash takes it. -/
def execCommit (seq : Byte) (slot : Byte) (len : Nat) (ok : Bool) (s : State) : Out :=
  .next (service 0x03 seq s.boot.bootFail (fun t =>
    if 1 < slot.toNat ∨ len < 264 ∨ 4194304 < len ∨ len % 4 ≠ 0 then svcAnswer 0x03 seq 0x0002 [] t
    else
      let ws := readWords t.fab.sram 0x10000000 (len / 4)
      let r := writeImage slot.toNat len ws ws ok false t
      svcAnswer 0x03 seq r.2.1 [] r.1) s)

/-- REBOOT (R461): answered, and then as RESET_N. -/
def execReboot (seq : Byte) (s : State) : Out :=
  .next (service 0x04 seq s.boot.bootFail (fun t => deviceReset true false 4 (svcAnswer 0x04 seq 0 [] t)) s)

/-- Seconds left in the window of a proposal (R365), a part of one counted as one. -/
def secondsLeft (s : State) (q : Proposal) : Nat := (q.atUs + 60000000 - s.nowUs + 999999) / 1000000

/-- PROT_QUERY (R365, R461); with nothing pending P, D and the seconds are free words. -/
def execProtQuery (seq : Byte) (s : State) : Out :=
  .next (service 0x10 seq s.boot.ready (fun t =>
    let e := two t.prot.epoch.toNat
    match t.prot.pend with
    | some q => svcAnswer 0x10 seq 0 (two q.p.toNat ++ padTo 8 q.digest ++ [wd (secondsLeft t q)] ++ e) t
    | none =>
      let f := freeWords 11 t
      svcAnswer 0x10 seq 0 (f.1 ++ e) f.2) s)

/-- PROT_CONSENT (R365): the fields of PROTECT_CONSENT; it waits while the twin's answer to another signature is due. -/
def execProtConsent (seq : Byte) (ws : List Word) (s : State) : Out :=
  .next (service 0x11 seq s.boot.ready (fun t =>
    if ws.length ≠ 11 ∨ onlyBits (nthW ws 2) 0xFF = false ∨ partyOk (fld (nthW ws 2) 7 0) = false then svcAnswer 0x11 seq 0x0002 [0] t
    else if haveKeys t = false then svcAnswer 0x11 seq 0x0204 [0] t
    else if t.prot.wait.isSome then t
    else decideConsent (.service seq) (BitVec.ofNat 64 (cat64 (nthW ws 0) (nthW ws 1))) (BitVec.ofNat 8 (fld (nthW ws 2) 7 0)) (ws.drop 3) t) s)

end Sys2Proof.Machine
end

