-- ==== Sys2Proof/Machine/Stack.lean ====
section
/-! DEFINITION. LIT and the stack instructions (R94, R99 to R101). -/

namespace Sys2Proof.Machine

open Sys2Proof

/-- A hardwired class without fields to refuse: the work, then the next instruction. -/
def classInstr (c slots : Nat) (body : View → Except TrapCA View) (s : State) : State :=
  issue true c (fun s =>
    match body (viewOf s c) with
    | .error t => raiseTrap c t.1 t.2 s
    | .ok u => commit c slots u ((s.ctx c).pc + 2) s) s

/-- LIT with C = 0 (R94), taking `slots` issue slots. -/
def litAlone (slots c : Nat) (p : BitVec 14) (s : State) : State :=
  classInstr c slots (stackOp 0 0 1 0 fun x => .ok { x with ds := p.signExtend 32 :: x.ds }) s

/-- LIT with C = 1 (R94). -/
def execLitc (c : Nat) (p : BitVec 14) (s : State) : Out :=
  .next (classInstr c 1 (stackOp 1 0 0 0 fun x =>
    match x.ds with
    | a :: t => .ok { x with ds := ((a <<< 14) ||| p.setWidth 32) :: t }
    | _ => .ok x) s)

/-- A stack instruction (Table 4.3) that cannot trap once its cells are there. -/
def simpleStack (op : Nat) (use : RetUse) (nd nr pd pr : Nat) (act : Ctx → Ctx) (slots c : Nat) (f : BitVec 4) (s : State) : State :=
  stackInstr op use c f slots (fun _ => stackOp nd nr pd pr fun x => .ok (act x)) s

/-- A rearrangement of the data stack. -/
def onData (g : List Word → List Word) (x : Ctx) : Ctx := { x with ds := g x.ds }

/-- NOP (Table 4.3). -/
def execNop (c : Nat) (f : BitVec 4) (s : State) : Out := .next (simpleStack 0x00 .keeps 0 0 0 0 id 1 c f s)

/-- DUP ( a -- a a ). -/
def dupAlone (slots c : Nat) (f : BitVec 4) (s : State) : State :=
  simpleStack 0x01 .keeps 1 0 1 0 (onData fun | a :: t => a :: a :: t | l => l) slots c f s

/-- DROP ( a -- ). -/
def execDrop (c : Nat) (f : BitVec 4) (s : State) : Out :=
  .next (simpleStack 0x02 .keeps 1 0 0 0 (onData List.tail) 1 c f s)

/-- SWAP ( a b -- b a ). -/
def execSwap (c : Nat) (f : BitVec 4) (s : State) : Out :=
  .next (simpleStack 0x03 .keeps 2 0 0 0 (onData fun | b :: a :: t => a :: b :: t | l => l) 1 c f s)

/-- OVER ( a b -- a b a ). -/
def overAlone (slots c : Nat) (f : BitVec 4) (s : State) : State :=
  simpleStack 0x04 .keeps 2 0 1 0 (onData fun | b :: a :: t => a :: b :: a :: t | l => l) slots c f s

/-- ROT ( a b c -- b c a ). -/
def execRot (c : Nat) (f : BitVec 4) (s : State) : Out :=
  .next (simpleStack 0x05 .keeps 3 0 0 0 (onData fun | z :: b :: a :: t => a :: z :: b :: t | l => l) 1 c f s)

/-- NIP ( a b -- b ). -/
def execNip (c : Nat) (f : BitVec 4) (s : State) : Out :=
  .next (simpleStack 0x06 .keeps 2 0 0 0 (onData fun | b :: _ :: t => b :: t | l => l) 1 c f s)

/-- TUCK ( a b -- b a b ). -/
def execTuck (c : Nat) (f : BitVec 4) (s : State) : Out :=
  .next (simpleStack 0x07 .keeps 2 0 1 0 (onData fun | b :: a :: t => b :: a :: b :: t | l => l) 1 c f s)

/-- PICK (R100): an index above 14 is illegal; otherwise n + 2 cells are brought on chip. -/
def pickBody (v : View) : Except TrapCA View :=
  match need false 1 v with
  | .error t => .error t
  | .ok u =>
    let n := (u.1.ds.headD 0).toNat
    if 14 < n then .error (0x01, 0)
    else stackOp (n + 2) 0 0 0 (fun x => .ok { x with ds := x.ds.getD (n + 1) 0 :: x.ds.tail }) u

/-- PICK. -/
def execPick (c : Nat) (f : BitVec 4) (s : State) : Out := .next (stackInstr 0x08 .keeps c f 1 (fun _ => pickBody) s)

/-- DEPTH (R101): the number of cells before the push. -/
def execDepth (c : Nat) (f : BitVec 4) (s : State) : Out :=
  .next (stackInstr 0x09 .keeps c f 1 (fun _ v => stackOp 0 0 1 0 (fun x => .ok { x with ds := wd (dataDepth v.1) :: x.ds }) v) s)

/-- >R. -/
def execToR (c : Nat) (f : BitVec 4) (s : State) : Out :=
  .next (simpleStack 0x0A .pushes 1 0 0 1 (fun x => { x with ds := x.ds.tail, rs := x.ds.headD 0 :: x.rs }) 1 c f s)

/-- R>. -/
def execRFrom (c : Nat) (f : BitVec 4) (s : State) : Out :=
  .next (simpleStack 0x0B .pops 0 1 1 0 (fun x => { x with ds := x.rs.headD 0 :: x.ds, rs := x.rs.tail }) 1 c f s)

/-- R@. -/
def execRFetch (c : Nat) (f : BitVec 4) (s : State) : Out :=
  .next (simpleStack 0x0C .keeps 0 1 1 0 (fun x => { x with ds := x.rs.headD 0 :: x.ds }) 1 c f s)

/-- RDROP. -/
def execRdrop (c : Nat) (f : BitVec 4) (s : State) : Out :=
  .next (simpleStack 0x0D .pops 0 1 0 0 (fun x => { x with rs := x.rs.tail }) 1 c f s)

end Sys2Proof.Machine
end

