-- ==== Sys2Proof/Machine/Fusion.lean ====
section
/-! DEFINITION. Instruction fusion (R74, R75, Table 3.7) and the instructions that may stand first in a pair. -/

namespace Sys2Proof.Machine

open Sys2Proof

/-- What an instruction leaves; none of the core instructions answers anything but a next state. -/
def after (o : Out) (s : State) : State :=
  match o with
  | .next t => t
  | _ => s

/-- The second instruction of a pair by itself. -/
def runSecond (n : Second) (c : Nat) (s : State) : State :=
  match n with
  | .add f => after (execAdd c f s) s
  | .sub f => after (execSub c f s) s
  | .and f => after (execAnd c f s) s
  | .or f => after (execOr c f s) s
  | .xor f => after (execXor c f s) s
  | .shl f => after (execShl c f s) s
  | .shr f => after (execShr c f s) s
  | .eq f => eqAlone 1 c f s
  | .ldw f u => after (execLdw c f u s) s
  | .stw f => after (execStw c f s) s
  | .bz rel => bz c rel s

/-- The core fuses (R74, R76): normal mode with FUSE_EN = 1. -/
def fuses (s : State) (c : Nat) : Bool := (s.core (coreOf c)).fuseEn && !(s.core (coreOf c)).det

/-- The pair waits as one: its second instruction has not issued. -/
def secondWaits (c : Nat) (one two : State) : Bool :=
  decide ((two.ctx c).cycles = (one.ctx c).cycles ∧ (two.ctx c).st = .run ∧ (two.ctx c).trap = none)

/-- A pair issues as one slot (R74, R75, R149). `first n` is the first instruction taking n slots. A stack trap of the second arises before the pair's
slot, so neither has issued; any other trap of the second leaves the state after the first. -/
def fusePair (c : Nat) (first : Nat → State → State) (n : Second) (s : State) : State :=
  let one := first 0 s
  let two := runSecond n c one
  if (one.ctx c).trap.isSome then first 1 s
  else match (two.ctx c).trap with
    | some q =>
      if q.cause = 0x03 ∨ q.cause = 0x04 then fetchTrap c (s.modCtx c fun x => { x with trap := some q, mid := none, entered := false })
      else runSecond n c (first 1 s)
    | none => if secondWaits c one two then s else two

/-- An instruction and the one that follows it: fused when the core fuses and they are a pair of Table 3.7 (`pairs`), else the first alone. -/
def withSecond (c : Nat) (first : Nat → State → State) (pairs : Second → Bool) (nx : Option Second) (s : State) : State :=
  match nx with
  | some n => if fuses s c && pairs n then fusePair c first n s else first 1 s
  | none => first 1 s

/-- The pairs of LIT (Table 3.7). -/
def litPairs : Second → Bool
  | .bz _ => false
  | _ => true

/-- The pairs of DUP, ZEQ, EQ, LT and LTU. -/
def bzPairs : Second → Bool
  | .bz _ => true
  | _ => false

/-- The pair of OVER. -/
def overPairs : Second → Bool
  | .add _ => true
  | _ => false

/-- LIT with C = 0 (R94). -/
def execLit (c : Nat) (p : BitVec 14) (s : State) (nx : Option Second := none) : Out :=
  .next (withSecond c (fun n t => litAlone n c p t) litPairs nx s)

/-- An instruction with EXIT may be fused only when its EXIT is 0 (R74). -/
def unlessExit (f : BitVec 4) (nx : Option Second) : Option Second := if exitBit f then none else nx

/-- DUP ( a -- a a ). -/
def execDup (c : Nat) (f : BitVec 4) (s : State) (nx : Option Second := none) : Out :=
  .next (withSecond c (fun n t => dupAlone n c f t) bzPairs (unlessExit f nx) s)

/-- OVER ( a b -- a b a ). -/
def execOver (c : Nat) (f : BitVec 4) (s : State) (nx : Option Second := none) : Out :=
  .next (withSecond c (fun n t => overAlone n c f t) overPairs (unlessExit f nx) s)

/-- EQ ( a b -- f ). -/
def execEq (c : Nat) (f : BitVec 4) (s : State) (nx : Option Second := none) : Out :=
  .next (withSecond c (fun n t => eqAlone n c f t) bzPairs (unlessExit f nx) s)

/-- LT ( a b -- f ), signed. -/
def execLt (c : Nat) (f : BitVec 4) (s : State) (nx : Option Second := none) : Out :=
  .next (withSecond c (fun n t => ltAlone n c f t) bzPairs (unlessExit f nx) s)

/-- LTU ( a b -- f ), unsigned. -/
def execLtu (c : Nat) (f : BitVec 4) (s : State) (nx : Option Second := none) : Out :=
  .next (withSecond c (fun n t => ltuAlone n c f t) bzPairs (unlessExit f nx) s)

/-- 0= ( a -- f ). -/
def execZeq (c : Nat) (f : BitVec 4) (s : State) (nx : Option Second := none) : Out :=
  .next (withSecond c (fun n t => zeqAlone n c f t) bzPairs (unlessExit f nx) s)

end Sys2Proof.Machine
end

