-- ==== Sys2Proof/Machine/HostRegs.lean ====
section
/-! DEFINITION. Reads and writes of BAR 0 and BAR 2 by the host (R273 to R279, Tables 12.2 to 12.4), and writes of a register by a context (R10 to
R14). The table has no row for a read by the host: its answer has no effect on the block. -/

namespace Sys2Proof.Machine

open Sys2Proof

/-- A write of RING_0's addresses or size: ignored while EN is 1, with CFG_ERR (R277). -/
def writeSetup (f : HostP → HostP) (s : State) : State :=
  s.modHost fun h => if h.adminEn then { h with admCfgErr := true } else f h

/-- A write of the setup page (Table 12.3). -/
def writeSetupPage (o : Nat) (w : Word) (s : State) : State :=
  match o with
  | 0x100 => writeSetup (fun h => { h with adminSqLo := w &&& 0xFFFFF000 }) s
  | 0x104 => writeSetup (fun h => { h with adminSqHi := w }) s
  | 0x108 => writeSetup (fun h => { h with adminCqLo := w &&& 0xFFFFF000 }) s
  | 0x10C => writeSetup (fun h => { h with adminCqHi := w }) s
  | 0x110 => writeSetup (fun h => if 4 ≤ fld w 3 0 ∧ fld w 3 0 ≤ 12 then { h with adminLog2 := w.setWidth 4 } else h) s
  | 0x114 => writeAdminCtl w s
  | 0x118 => s.modHost fun h => { h with admCfgErr := h.admCfgErr && !bit w 1, evLost := h.evLost && !bit w 2 }
  | 0x140 => grantPermit w s
  | _ => s

/-- An aligned 32-bit write of BAR 0 (R273, R274). -/
def writeBar0 (o : Nat) (w : Word) (s : State) : State :=
  if s.boot.inReset ∨ o % 4 ≠ 0 then s
  else if o = 0x20 then s.modHost fun h => { h with resyncLo := w &&& 0xFFFF0000 }
  else if o = 0x24 then s.modHost fun h => { h with resyncHi := w }
  else if o < 0x100 ∨ hostOpen s = false then s
  else if o < 0x200 then writeSetupPage o w s
  else if 0x8000 ≤ o ∧ o < 0x8400 then writeMsix ((o - 0x8000) / 16) (o / 4 % 4) w s
  else s

/-- An offset of the MSI-X table or the PBA (R278). -/
def msixOffset (o : Nat) : Bool :=
  decide (endpoint.msixTable ≤ o ∧ o < endpoint.msixTable + 16 * endpoint.vectors) ||
  decide (endpoint.msixPba ≤ o ∧ o < endpoint.msixPba + 8)

/-- A write of BAR 0 of any size (R273): 32 bits, 64 in the MSI-X table and the PBA, and any other is ignored. -/
def writeBar0Sized (o size : Nat) (lo hi : Word) (s : State) : State :=
  if size = 4 then writeBar0 o lo s
  else if size = 8 ∧ o % 8 = 0 ∧ msixOffset o then writeBar0 (o + 4) hi (writeBar0 o lo s)
  else s

/-- An aligned 32-bit write of BAR 2 (R279, Table 12.4). -/
def writeBar2 (o : Nat) (w : Word) (s : State) : State :=
  if s.boot.inReset ∨ o % 4 ≠ 0 then s
  else if o < 0x1000 then writeDoorbell false (o / 4) w s
  else if o < 0x2000 then writeDoorbell true ((o - 0x1000) / 4) w s
  else if o = 0x2000 then writeResyncDb w s
  else s

/-- Writes of BAR 2 in ascending address order (R273). -/
def writesBar2 : Nat → List Word → State → State
  | _, [], s => s
  | o, w :: ws, s => writesBar2 (o + 4) ws (writeBar2 o w s)

/-! ## Reads by the host -/

/-- The status page (Table 12.2), which answers even before READY (R274). -/
def readStatusPage (s : State) (o : Nat) : Word :=
  match o with
  | 0x00 => 0x1625
  | 0x04 => 0xB0
  | 0x08 => serialLo
  | 0x0C => serialHi
  | 0x10 => bootStatus s
  | 0x14 => devStatus s
  | 0x18 => wd s.host.fatalCode.toNat
  | 0x1C => resetCauseWord s
  | 0x20 => s.host.resyncLo
  | 0x24 => s.host.resyncHi
  | _ => 0

/-- The setup page (Table 12.3). -/
def readSetupPage (s : State) (o : Nat) : Word :=
  match o with
  | 0x100 => s.host.adminSqLo
  | 0x104 => s.host.adminSqHi
  | 0x108 => s.host.adminCqLo
  | 0x10C => s.host.adminCqHi
  | 0x110 => wd s.host.adminLog2.toNat
  | 0x114 => adminCtl s
  | 0x118 => adminStat s
  | _ => 0

/-- The dword of BAR 0 that holds an offset, as the host reads it (R273 to R278). -/
def readBar0 (s : State) (o : Nat) : Word :=
  let a := o / 4 * 4
  if a < 0x100 then readStatusPage s a
  else if hostOpen s = false then 0
  else if a < 0x200 then readSetupPage s a
  else if 0x8000 ≤ a ∧ a < 0x8400 then readMsix s ((a - 0x8000) / 16) (a / 4 % 4)
  else if a = 0x9000 then s.host.pba.extractLsb' 0 32
  else if a = 0x9004 then s.host.pba.extractLsb' 32 32
  else 0

/-- The dword of BAR 2 at an offset: every doorbell reads as 0 (R279). -/
def readBar2 (_s : State) (_o : Nat) : Word := 0

/-- The bytes that a read of BAR 0 of a size answers (R273): 64 bits in the MSI-X table and the PBA, otherwise the bytes asked for of the enclosing
dword. -/
def readBar0Sized (s : State) (o size : Nat) : List Byte :=
  if size = 8 ∧ o % 8 = 0 ∧ msixOffset o then leBytes (readBar0 s o) ++ leBytes (readBar0 s (o + 4))
  else ((leBytes (readBar0 s o)).drop (o % 4)).take size

/-! ## Writes by a context -/

/-- A write by a context (R135, R219): one that the port refuses traps, where the context can issue it; an issue to the Cauldron waits until its earlier
stores are visible. -/
def writeByContext (c p : Nat) (w : Word) (s : State) : State :=
  if 68 ≤ c ∨ 65536 ≤ p then s
  else match portTrap s c p true with
    | some t => if ready s c then chargeTrap c (raiseTrap c t.1 t.2 s) else s
    | none => if p = 0x204 ∧ storesVisible s c = false then s else writePort c p w s

/-- REGISTER_WRITE (R10, R273). -/
def execRegisterWrite (sp : RegSpace) (addr : Nat) (w : Word) (s : State) : Out :=
  .next (match sp with
    | .port c => writeByContext c addr w s
    | .bar0 size hi => writeBar0Sized addr size w hi s
    | .bar2 size more => if size = 4 * (1 + more.length) then writesBar2 addr (w :: more) s else s)

end Sys2Proof.Machine
end

