-- ==== Sys2Proof/Machine/Tick.lean ====
section
/-! DEFINITION. What 1 µs of time changes when no command waits (assumption log 9): the counters that run by themselves. What
happens when a count ends is a command of the table. -/

namespace Sys2Proof.Machine

open Sys2Proof

/-- 1 µs of a context's timer: its clock is D_2 (R141). -/
def tickTimer (mhz : Nat) (x : Ctx) : Ctx :=
  if x.tmrArmed then { x with tmrLeft := wd (x.tmrLeft.toNat - mhz) } else x

/-- 32.768 kHz: 32,768 ht are 10^6 µs (Table 2.1). -/
def tickRtc (s : State) : State :=
  let n := s.hearth.rtcSub + 32768
  if 1000000 ≤ n then rtcTick (s.modHearth fun h => { h with rtcSub := n - 1000000 })
  else s.modHearth fun h => { h with rtcSub := n }

/-- The crossing-3 interval ends after 1 ms (Table 20.3). -/
def tickX3 (k : Clk) : Clk :=
  { k with x3Timer := match k.x3Timer with | some n => if 1000 ≤ n then none else some (n + 1) | none => none }

/-- Readings that waited for the bridge or for a slot are written, and a PASS_END that waited for them goes on (R23, log 111). -/
def tickPass (s : State) : State :=
  if s.pass.isOpen = false ∨ (s.pass.held = [] ∧ s.pass.ending = false) ∨ canSend s = false then s else passWaits (flushReadings s)

/-- 1 µs passes. -/
def tick (s : State) : State :=
  let mhz := if islandRuns s 2 then (s.dom 2).freqMhz.toNat else 0
  let s1 := tickRtc { s with nowUs := s.nowUs + 1, ctxs := s.ctxs.map fun e => (e.1, tickTimer mhz e.2) }
  let s2 := s1.modClk tickX3
  let s3 := s2.modUtil fun u => { u with d1Now := u.d1Now + 100 }
  let s4 := s3.modMill fun m => { m with turnPos := m.turnPos + 1 }
  let s5 := s4.modHearth fun h => { h with wdtUs := if h.wdtEn then h.wdtUs + 1 else h.wdtUs }
  tickPass <| resyncTick (jnlAdvance 25 (s5.modBoot fun b => { b with elapsedUs := if b.inReset then b.elapsedUs else b.elapsedUs + 1 }))

end Sys2Proof.Machine
end

