-- ==== Sys2Proof/Machine/Dispatch.lean ====
section
/-! DEFINITION. The meaning of every command: one arm each. -/

namespace Sys2Proof.Machine

open Sys2Proof

def exec (i : Instr) (s : State) : Host.Outcome State Fault Refusal :=
  match i with
  | .lit c payload nx => Sys2Proof.Machine.execLit c payload s nx
  | .litc c payload => Sys2Proof.Machine.execLitc c payload s
  | .nop c f => Sys2Proof.Machine.execNop c f s
  | .dup c f nx => Sys2Proof.Machine.execDup c f s nx
  | .drop c f => Sys2Proof.Machine.execDrop c f s
  | .swap c f => Sys2Proof.Machine.execSwap c f s
  | .over c f nx => Sys2Proof.Machine.execOver c f s nx
  | .rot c f => Sys2Proof.Machine.execRot c f s
  | .nip c f => Sys2Proof.Machine.execNip c f s
  | .tuck c f => Sys2Proof.Machine.execTuck c f s
  | .pick c f => Sys2Proof.Machine.execPick c f s
  | .depth c f => Sys2Proof.Machine.execDepth c f s
  | .toR c f => Sys2Proof.Machine.execToR c f s
  | .rFrom c f => Sys2Proof.Machine.execRFrom c f s
  | .rFetch c f => Sys2Proof.Machine.execRFetch c f s
  | .rdrop c f => Sys2Proof.Machine.execRdrop c f s
  | .add c f => Sys2Proof.Machine.execAdd c f s
  | .sub c f => Sys2Proof.Machine.execSub c f s
  | .addc c f => Sys2Proof.Machine.execAddc c f s
  | .subc c f => Sys2Proof.Machine.execSubc c f s
  | .and c f => Sys2Proof.Machine.execAnd c f s
  | .or c f => Sys2Proof.Machine.execOr c f s
  | .xor c f => Sys2Proof.Machine.execXor c f s
  | .not c f => Sys2Proof.Machine.execNot c f s
  | .neg c f => Sys2Proof.Machine.execNeg c f s
  | .shl c f => Sys2Proof.Machine.execShl c f s
  | .shr c f => Sys2Proof.Machine.execShr c f s
  | .sar c f => Sys2Proof.Machine.execSar c f s
  | .rol c f => Sys2Proof.Machine.execRol c f s
  | .ror c f => Sys2Proof.Machine.execRor c f s
  | .mul c f => Sys2Proof.Machine.execMul c f s
  | .mulh c f => Sys2Proof.Machine.execMulh c f s
  | .mulhu c f => Sys2Proof.Machine.execMulhu c f s
  | .div c f stop => Sys2Proof.Machine.execDiv c f s stop
  | .divu c f stop => Sys2Proof.Machine.execDivu c f s stop
  | .mod c f stop => Sys2Proof.Machine.execMod c f s stop
  | .modu c f stop => Sys2Proof.Machine.execModu c f s stop
  | .eq c f nx => Sys2Proof.Machine.execEq c f s nx
  | .ne c f => Sys2Proof.Machine.execNe c f s
  | .lt c f nx => Sys2Proof.Machine.execLt c f s nx
  | .ltu c f nx => Sys2Proof.Machine.execLtu c f s nx
  | .zeq c f nx => Sys2Proof.Machine.execZeq c f s nx
  | .min c f => Sys2Proof.Machine.execMin c f s
  | .max c f => Sys2Proof.Machine.execMax c f s
  | .sexb c f => Sys2Proof.Machine.execSexb c f s
  | .sexh c f => Sys2Proof.Machine.execSexh c f s
  | .zexb c f => Sys2Proof.Machine.execZexb c f s
  | .zexh c f => Sys2Proof.Machine.execZexh c f s
  | .clz c f => Sys2Proof.Machine.execClz c f s
  | .popc c f => Sys2Proof.Machine.execPopc c f s
  | .ldb c f u => Sys2Proof.Machine.execLdb c f u s
  | .ldbu c f u => Sys2Proof.Machine.execLdbu c f u s
  | .ldh c f u => Sys2Proof.Machine.execLdh c f u s
  | .ldhu c f u => Sys2Proof.Machine.execLdhu c f u s
  | .ldw c f u => Sys2Proof.Machine.execLdw c f u s
  | .stb c f => Sys2Proof.Machine.execStb c f s
  | .sth c f => Sys2Proof.Machine.execSth c f s
  | .stw c f => Sys2Proof.Machine.execStw c f s
  | .lds c off u => Sys2Proof.Machine.execLds c off u s
  | .sts c off => Sys2Proof.Machine.execSts c off s
  | .ldtry c f u => Sys2Proof.Machine.execLdtry c f u s
  | .afadd c f u => Sys2Proof.Machine.execAfadd c f u s
  | .acas c f u => Sys2Proof.Machine.execAcas c f u s
  | .lock c f => Sys2Proof.Machine.execLock c f s
  | .unlock c f => Sys2Proof.Machine.execUnlock c f s
  | .fence c f => Sys2Proof.Machine.execFence c f s
  | .dflush c f => Sys2Proof.Machine.execDflush c f s
  | .dinval c f => Sys2Proof.Machine.execDinval c f s
  | .iflush c f => Sys2Proof.Machine.execIflush c f s
  | .setdb c f => Sys2Proof.Machine.execSetdb c f s
  | .getdb c f => Sys2Proof.Machine.execGetdb c f s
  | .setib c f => Sys2Proof.Machine.execSetib c f s
  | .getib c f => Sys2Proof.Machine.execGetib c f s
  | .bz c rel => Sys2Proof.Machine.execBz c rel s
  | .bra c rel => Sys2Proof.Machine.execBra c rel s
  | .call c rel => Sys2Proof.Machine.execCall c rel s
  | .jmpx c f => Sys2Proof.Machine.execJmpx c f s
  | .callx c f => Sys2Proof.Machine.execCallx c f s
  | .ret c f => Sys2Proof.Machine.execRet c f s
  | .iret c f => Sys2Proof.Machine.execIret c f s
  | .trap c f => Sys2Proof.Machine.execTrap c f s
  | .brk c f => Sys2Proof.Machine.execBrk c f s
  | .inP c port => Sys2Proof.Machine.execIn c port s
  | .outP c port => Sys2Proof.Machine.execOut c port s
  | .inx c f => Sys2Proof.Machine.execInx c f s
  | .outx c f => Sys2Proof.Machine.execOutx c f s
  | .wait c f => Sys2Proof.Machine.execWait c f s
  | .send c f => Sys2Proof.Machine.execSend c f s
  | .yield c f => Sys2Proof.Machine.execYield c f s
  | .timer c f => Sys2Proof.Machine.execTimer c f s
  | .cswrd c f => Sys2Proof.Machine.execCswrd c f s
  | .cswwr c f => Sys2Proof.Machine.execCswwr c f s
  | .userOp c op f parity stop => Sys2Proof.Machine.execUserOp c op f parity s stop
  | .ucwr c f => Sys2Proof.Machine.execUcwr c f s
  | .ucwrDispatch c f => Sys2Proof.Machine.execUcwrDispatch c f s
  | .ncwr c f => Sys2Proof.Machine.execNcwr c f s
  | .modesetEnter c f => Sys2Proof.Machine.execModesetEnter c f s
  | .modesetLeave c f => Sys2Proof.Machine.execModesetLeave c f s
  | .ctxctlHalt c f => Sys2Proof.Machine.execCtxctlHalt c f s
  | .ctxctlStart c f => Sys2Proof.Machine.execCtxctlStart c f s
  | .ctxctlResume c f => Sys2Proof.Machine.execCtxctlResume c f s
  | .ctxctlSetAcct c f => Sys2Proof.Machine.execCtxctlSetAcct c f s
  | .ctxctlSetReg c f => Sys2Proof.Machine.execCtxctlSetReg c f s
  | .resultLand c n => Sys2Proof.Machine.execResultLand c n s
  | .branchResolve c => Sys2Proof.Machine.execBranchResolve c s
  | .longLoadArrival c u late => Sys2Proof.Machine.execLongLoadArrival c u late s
  | .farLineArrival c => Sys2Proof.Machine.execFarLineArrival c s
  | .storeBufferDrain core u => Sys2Proof.Machine.execStoreBufferDrain core u s
  | .lockGrant c => Sys2Proof.Machine.execLockGrant c s
  | .lockBreak bank => Sys2Proof.Machine.execLockBreak bank s
  | .trapEntry c delay vpar => Sys2Proof.Machine.execTrapEntry c delay vpar s
  | .interruptEntry c newer delay vpar raised cleared => Sys2Proof.Machine.execInterruptEntry c newer delay vpar s raised cleared
  | .intLineEvent core line => Sys2Proof.Machine.execIntLineEvent core line s
  | .intRaise c core mask => Sys2Proof.Machine.execIntRaise c core mask s
  | .svDoorbell core w => Sys2Proof.Machine.execSvDoorbell core w s
  | .svDbRead core => Sys2Proof.Machine.execSvDbRead core s
  | .xingDeliver x toD2 ch => Sys2Proof.Machine.execXingDeliver x toD2 s ch
  | .xingResync x => Sys2Proof.Machine.execXingResync x s
  | .xingPointerError x => Sys2Proof.Machine.execXingPointerError x s
  | .islandAutoGate d => Sys2Proof.Machine.execIslandAutoGate d s
  | .fabricIslandState => Sys2Proof.Machine.execFabricIslandState s
  | .islandWake d => Sys2Proof.Machine.execIslandWake d s
  | .islCtlWrite d w => Sys2Proof.Machine.execIslCtlWrite d w s
  | .policyTick t => Sys2Proof.Machine.execPolicyTick t s
  | .lockLoopWindow d errPpm => Sys2Proof.Machine.execLockLoopWindow d errPpm s
  | .utilityPllUnlock => Sys2Proof.Machine.execUtilityPllUnlock s
  | .utilityPllRelock => Sys2Proof.Machine.execUtilityPllRelock s
  | .coreCtlBpFlush core => Sys2Proof.Machine.execCoreCtlBpFlush core s
  | .evSet c w => Sys2Proof.Machine.execEvSet c w s
  | .evClr c w => Sys2Proof.Machine.execEvClr c w s
  | .eventPostDeliver c flag => Sys2Proof.Machine.execEventPostDeliver c flag s
  | .timerExpiry c => Sys2Proof.Machine.execTimerExpiry c s
  | .hedgeFire g => Sys2Proof.Machine.execHedgeFire g s
  | .hgCtlWrite g w => Sys2Proof.Machine.execHgCtlWrite g w s
  | .hgSnapDataRead => Sys2Proof.Machine.execHgSnapDataRead s
  | .millTurn => Sys2Proof.Machine.execMillTurn s
  | .midTurnGrant => Sys2Proof.Machine.execMidTurnGrant s
  | .meterZero a res d => Sys2Proof.Machine.execMeterZero a res d s
  | .millerRegisterWrite port w => Sys2Proof.Machine.execMillerRegisterWrite port w s
  | .cmac tag ups => Sys2Proof.Machine.execCmac tag ups s
  | .corr tag ups => Sys2Proof.Machine.execCorr tag ups s
  | .fir tag ups => Sys2Proof.Machine.execFir tag ups s
  | .mag tag ups => Sys2Proof.Machine.execMag tag ups s
  | .phase tag => Sys2Proof.Machine.execPhase tag s
  | .norm tag => Sys2Proof.Machine.execNorm tag s
  | .accrd tag => Sys2Proof.Machine.execAccrd tag s
  | .accclr tag => Sys2Proof.Machine.execAccclr tag s
  | .cxOpStart tag => Sys2Proof.Machine.execCxOpStart tag s
  | .cxOpComplete tag waits late => Sys2Proof.Machine.execCxOpComplete tag waits late s
  | .cxTake c => Sys2Proof.Machine.execCxTake c s
  | .cxCancel c tag => Sys2Proof.Machine.execCxCancel c tag s
  | .cxLaneWrite lane w => Sys2Proof.Machine.execCxLaneWrite lane w s
  | .scrubRead bank u => Sys2Proof.Machine.execScrubRead bank u s
  | .mbPush c core m w => Sys2Proof.Machine.execMbPush c core m w s
  | .mbPop c core m => Sys2Proof.Machine.execMbPop c core m s
  | .feStreamEnable p tx w => Sys2Proof.Machine.execFeStreamEnable p tx w s
  | .feRxSample p x y ok => Sys2Proof.Machine.execFeRxSample p x y s ok
  | .feTxSample p => Sys2Proof.Machine.execFeTxSample p s
  | .feClockLoss p mid => Sys2Proof.Machine.execFeClockLoss p s mid
  | .feClockReturn p => Sys2Proof.Machine.execFeClockReturn p s
  | .feTxStall p => Sys2Proof.Machine.execFeTxStall p s
  | .hostReadCompletion tag r parity => Sys2Proof.Machine.execHostReadCompletion tag r parity s
  | .farReadTimeout tag => Sys2Proof.Machine.execFarReadTimeout tag s
  | .cplTimeout tag => Sys2Proof.Machine.execCplTimeout tag s
  | .ldtryLineExpire c => Sys2Proof.Machine.execLdtryLineExpire c s
  | .twinRequestTimeout tag => Sys2Proof.Machine.execTwinRequestTimeout tag s
  | .juniorRetry tag => Sys2Proof.Machine.execJuniorRetry tag s
  | .twinPollTimer => Sys2Proof.Machine.execTwinPollTimer s
  | .poll sb cnt => Sys2Proof.Machine.execPoll sb cnt s
  | .pollrsp sb cnt => Sys2Proof.Machine.execPollrsp sb cnt s
  | .sbStale => Sys2Proof.Machine.execSbStale s
  | .twIrqRaise m => Sys2Proof.Machine.execTwIrqRaise m s
  | .memrd h off ups => Sys2Proof.Machine.execMemrd h off ups s
  | .memwr h off be code d e u => Sys2Proof.Machine.execMemwr h off be code d e u s
  | .memrdcpl h ok line => Sys2Proof.Machine.execMemrdcpl h ok line s
  | .twinLock h bank => Sys2Proof.Machine.execTwinLock h bank s
  | .twinUnlock h bank => Sys2Proof.Machine.execTwinUnlock h bank s
  | .ack h linkv ackseq txnv code => Sys2Proof.Machine.execAck h linkv ackseq txnv code s
  | .nak h linkv ackseq txnv code => Sys2Proof.Machine.execNak h linkv ackseq txnv code s
  | .linkAckTimer => Sys2Proof.Machine.execLinkAckTimer s
  | .replayTimeout => Sys2Proof.Machine.execReplayTimeout s
  | .lanesUp => Sys2Proof.Machine.execLanesUp s
  | .lanesDown => Sys2Proof.Machine.execLanesDown s
  | .claimTimer => Sys2Proof.Machine.execClaimTimer s
  | .claim cl echo => Sys2Proof.Machine.execClaim cl echo s
  | .claimSettleTimeout => Sys2Proof.Machine.execClaimSettleTimeout s
  | .claimingTimeout => Sys2Proof.Machine.execClaimingTimeout s
  | .standbyQuiesced => Sys2Proof.Machine.execStandbyQuiesced s
  | .heartbeatTimer => Sys2Proof.Machine.execHeartbeatTimer s
  | .heartbeat st feOwn gen count epochLo => Sys2Proof.Machine.execHeartbeat st feOwn gen count epochLo s
  | .heartbeatLoss => Sys2Proof.Machine.execHeartbeatLoss s
  | .takeoverPermit w => Sys2Proof.Machine.execTakeoverPermit w s
  | .takeover => Sys2Proof.Machine.execTakeover s
  | .shadow h r => Sys2Proof.Machine.execShadow h r s
  | .snapshot h off len bytes recs => Sys2Proof.Machine.execSnapshot h off len bytes recs s
  | .snapshotTimeout => Sys2Proof.Machine.execSnapshotTimeout s
  | .relinquish h gen => Sys2Proof.Machine.execRelinquish h gen s
  | .consentFwd h p party ws digest cs => Sys2Proof.Machine.execConsentFwd h p party ws digest cs s
  | .feOwnCollision => Sys2Proof.Machine.execFeOwnCollision s
  | .feOwnBackoffEnd => Sys2Proof.Machine.execFeOwnBackoffEnd s
  | .adminEnable w => Sys2Proof.Machine.execAdminEnable w s
  | .adminDisable w => Sys2Proof.Machine.execAdminDisable w s
  | .sqTail n v => Sys2Proof.Machine.execSqTail n v s
  | .cqHead n v => Sys2Proof.Machine.execCqHead n v s
  | .resyncDb w bad => Sys2Proof.Machine.execResyncDb w s bad
  | .ringFetchVisit parity => Sys2Proof.Machine.execRingFetchVisit parity s
  | .descriptorArrival tag r => Sys2Proof.Machine.execDescriptorArrival tag r s
  | .commandTimeout n cmd => Sys2Proof.Machine.execCommandTimeout n cmd s
  | .msixCoalesceTimeout n => Sys2Proof.Machine.execMsixCoalesceTimeout n s
  | .jobRun n => Sys2Proof.Machine.execJobRun n s
  | .jobDispatch c => Sys2Proof.Machine.execJobDispatch c s
  | .jobDone c => Sys2Proof.Machine.execJobDone c s
  | .jobTrap c => Sys2Proof.Machine.execJobTrap c s
  | .dmCopyIn n => Sys2Proof.Machine.execDmCopyIn n s
  | .dmCopyOut n => Sys2Proof.Machine.execDmCopyOut n s
  | .dmFill n => Sys2Proof.Machine.execDmFill n s
  | .dmaSegmentDone n cmd r ups => Sys2Proof.Machine.execDmaSegmentDone n cmd r ups s
  | .identify => Sys2Proof.Machine.execIdentify s
  | .ringCreate => Sys2Proof.Machine.execRingCreate s
  | .ringDelete => Sys2Proof.Machine.execRingDelete s
  | .ringReset => Sys2Proof.Machine.execRingReset s
  | .accountSet => Sys2Proof.Machine.execAccountSet s
  | .imageLoad r r2 ok late => Sys2Proof.Machine.execImageLoad r r2 ok late s
  | .coreStart flashOk slot => Sys2Proof.Machine.execCoreStart flashOk slot s
  | .coreStop => Sys2Proof.Machine.execCoreStop s
  | .modeSet => Sys2Proof.Machine.execModeSet s
  | .clockPolicySet => Sys2Proof.Machine.execClockPolicySet s
  | .hedgeConfig => Sys2Proof.Machine.execHedgeConfig s
  | .protectPropose r => Sys2Proof.Machine.execProtectPropose r s
  | .protectConsent => Sys2Proof.Machine.execProtectConsent s
  | .protectionSwap => Sys2Proof.Machine.execProtectionSwap s
  | .lockoutEnd => Sys2Proof.Machine.execLockoutEnd s
  | .keyProvision ok late => Sys2Proof.Machine.execKeyProvision ok late s
  | .calRead => Sys2Proof.Machine.execCalRead s
  | .calWrite r ok late => Sys2Proof.Machine.execCalWrite r ok late s
  | .ledgerAttach => Sys2Proof.Machine.execLedgerAttach s
  | .twinControlDetach => Sys2Proof.Machine.execTwinControlDetach s
  | .twinControlAttach => Sys2Proof.Machine.execTwinControlAttach s
  | .twinControlRelinquish => Sys2Proof.Machine.execTwinControlRelinquish s
  | .logFetch bad => Sys2Proof.Machine.execLogFetch s bad
  | .resyncSummary bad => Sys2Proof.Machine.execResyncSummary s bad
  | .resyncResume => Sys2Proof.Machine.execResyncResume s
  | .passBegin n => Sys2Proof.Machine.execPassBegin n s
  | .passUpdate n => Sys2Proof.Machine.execPassUpdate n s
  | .passEnd n => Sys2Proof.Machine.execPassEnd n s
  | .stakeQuery n r => Sys2Proof.Machine.execStakeQuery n r s
  | .wakePlace idxs recs ch startUs => Sys2Proof.Machine.execWakePlace idxs recs ch startUs s
  | .wakeStart x noCarrier => Sys2Proof.Machine.execWakeStart x noCarrier s
  | .replyFrame x bytes snrDb atUs => Sys2Proof.Machine.execReplyFrame x bytes snrDb atUs s
  | .ackSend x => Sys2Proof.Machine.execAckSend x s
  | .exchangeEnd x n syncSeen wbOk found => Sys2Proof.Machine.execExchangeEnd x n syncSeen wbOk s found
  | .ledgerReread idx rec => Sys2Proof.Machine.execLedgerReread idx rec s
  | .beaconSend ch => Sys2Proof.Machine.execBeaconSend ch s
  | .foreignReaderFrame ch rid beacon => Sys2Proof.Machine.execForeignReaderFrame ch rid beacon s
  | .coexQuietTimeout ch => Sys2Proof.Machine.execCoexQuietTimeout ch s
  | .rmcSentence m => Sys2Proof.Machine.execRmcSentence m s
  | .ppsEdge => Sys2Proof.Machine.execPpsEdge s
  | .ppsAbsent => Sys2Proof.Machine.execPpsAbsent s
  | .mainFall vbatMv => Sys2Proof.Machine.execMainFall vbatMv s
  | .mainGoodCount => Sys2Proof.Machine.execMainGoodCount s
  | .vbatFall mainMv => Sys2Proof.Machine.execVbatFall mainMv s
  | .vbatMeasure mv => Sys2Proof.Machine.execVbatMeasure mv s
  | .xtalFail => Sys2Proof.Machine.execXtalFail s
  | .hearthWake => Sys2Proof.Machine.execHearthWake s
  | .hearthWakeRelease => Sys2Proof.Machine.execHearthWakeRelease s
  | .hwakeClr => Sys2Proof.Machine.execHwakeClr s
  | .hrtSet w => Sys2Proof.Machine.execHrtSet w s
  | .hrtLoRead => Sys2Proof.Machine.execHrtLoRead s
  | .hjDataAccess w => Sys2Proof.Machine.execHjDataAccess w s
  | .wdtKick key => Sys2Proof.Machine.execWdtKick key s
  | .wdtWarn => Sys2Proof.Machine.execWdtWarn s
  | .wdtTimeout => Sys2Proof.Machine.execWdtTimeout s
  | .islReset mask => Sys2Proof.Machine.execIslReset mask s
  | .powerOnReset hearthLost => Sys2Proof.Machine.execPowerOnReset hearthLost s
  | .resetN => Sys2Proof.Machine.execResetN s
  | .perstN => Sys2Proof.Machine.execPerstN s
  | .deviceResetRelease st => Sys2Proof.Machine.execDeviceResetRelease st s
  | .bringUpPhaseComplete b => Sys2Proof.Machine.execBringUpPhaseComplete b s
  | .status seq => Sys2Proof.Machine.execStatus seq s
  | .stage seq off data => Sys2Proof.Machine.execStage seq off data s
  | .commit seq slot len ok => Sys2Proof.Machine.execCommit seq slot len ok s
  | .reboot seq => Sys2Proof.Machine.execReboot seq s
  | .protQuery seq => Sys2Proof.Machine.execProtQuery seq s
  | .protConsent seq ws => Sys2Proof.Machine.execProtConsent seq ws s
  | .uartRxByte u b stop => Sys2Proof.Machine.execUartRxByte u b stop s
  | .uartRxRead u => Sys2Proof.Machine.execUartRxRead u s
  | .uartTxWrite u b => Sys2Proof.Machine.execUartTxWrite u b s
  | .canTxGo => Sys2Proof.Machine.execCanTxGo s
  | .canTxAbort won => Sys2Proof.Machine.execCanTxAbort won s
  | .canTxDone => Sys2Proof.Machine.execCanTxDone s
  | .canRxFrame fr => Sys2Proof.Machine.execCanRxFrame fr s
  | .canRxPop => Sys2Proof.Machine.execCanRxPop s
  | .canBusOffRecover => Sys2Proof.Machine.execCanBusOffRecover s
  | .gpioEdge n level => Sys2Proof.Machine.execGpioEdge n level s
  | .feIrqEdge p level => Sys2Proof.Machine.execFeIrqEdge p s level
  | .feSpiGo p => Sys2Proof.Machine.execFeSpiGo p s
  | .feSpiDone p w => Sys2Proof.Machine.execFeSpiDone p w s
  | .pcieLinkUp => Sys2Proof.Machine.execPcieLinkUp s
  | .pcieLinkDown => Sys2Proof.Machine.execPcieLinkDown s
  | .bcDataRead c parity => Sys2Proof.Machine.execBcDataRead c parity s
  | .bcFreeze c w => Sys2Proof.Machine.execBcFreeze c w s
  | .registerWrite sp addr w => Sys2Proof.Machine.execRegisterWrite sp addr w s
  | .pcieConfigWrite fieldName v => Sys2Proof.Machine.execPcieConfigWrite fieldName v s
  | .feOwnSenseRelease => Sys2Proof.Machine.execFeOwnSenseRelease s
  | .twinPacketDrop => Sys2Proof.Machine.execTwinPacketDrop s
  | .canBusError tx n => Sys2Proof.Machine.execCanBusError tx n s
  | .uartTxByteSent u => Sys2Proof.Machine.execUartTxByteSent u s
  | .tapTckEdge rising tms tdi => Sys2Proof.Machine.execTapTckEdge rising tms tdi s
  | .journalHourlyEntry => Sys2Proof.Machine.execJournalHourlyEntry s
  | .crystalRestart => Sys2Proof.Machine.execCrystalRestart s
  | .ppsLockLapse => Sys2Proof.Machine.execPpsLockLapse s

end Sys2Proof.Machine
end

