-- ==== Sys2Proof/Safety.lean ====
section
/-! DEFINITION. The terms in which claims are made: what a command answers, which units it may change, what a retiring instruction leaves,
and what a safe run is. -/

namespace Sys2Proof.Machine

open Sys2Proof

/-! ## Answers -/

/-- The command answers a next state, of which P holds. -/
def Answers (i : Instr) (s : State) (P : State → Prop) : Prop := ∃ t, exec i s = .next t ∧ P t

/-- A basic op with this opcode answers so wherever its dispatch entry is loaded (R169). -/
def AnswersOp (op c : Nat) (i : Instr) (s : State) (P : State → Prop) : Prop := opLoaded s c op = true → Answers i s P

/-! ## Units -/

/-- The units of the block, one for each field of the state. -/
inductive Part where
  | ctxs
  | cores
  | clk
  | fab
  | cx
  | thorn
  | mill
  | host
  | twin
  | prot
  | pass
  | hearth
  | boot
  | faults
  | util
  | pending
  | nowUs
  | free
  | rdata
deriving DecidableEq, Repr

/-- The unit is the same in both states. -/
def SamePart (s t : State) : Part → Prop
  | .ctxs => t.ctxs = s.ctxs
  | .cores => t.cores = s.cores
  | .clk => t.clk = s.clk
  | .fab => t.fab = s.fab
  | .cx => t.cx = s.cx
  | .thorn => t.thorn = s.thorn
  | .mill => t.mill = s.mill
  | .host => t.host = s.host
  | .twin => t.twin = s.twin
  | .prot => t.prot = s.prot
  | .pass => t.pass = s.pass
  | .hearth => t.hearth = s.hearth
  | .boot => t.boot = s.boot
  | .faults => t.faults = s.faults
  | .util => t.util = s.util
  | .pending => t.pending = s.pending
  | .nowUs => t.nowUs = s.nowUs
  | .free => t.free = s.free
  | .rdata => t.rdata = s.rdata

/-- Only the named units may differ. -/
def ChangesOnly (ps : List Part) (s t : State) : Prop := ∀ p, p ∉ ps → SamePart s t p

/-! ## Instructions that retire -/

/-- An instruction of context c can issue: the context is in RUN with nothing of an instruction under way, its meter is not spent, its island runs, no
trap is raised, and its PC may be fetched (R50, R54, R59, R255). -/
def CanIssue (s : State) (c : Nat) : Prop := ready s c = true ∧ fetchOk s c (s.ctx c).pc = true

/-- The check bits of the line that context c fetches from are good: a fetch through the shared-SRAM window corrects and reports nothing (R191). -/
def FetchGood (s : State) (c : Nat) : Prop :=
  let a := (s.ctx c).pc.toNat
  0x400000 ≤ a → a < 0x800000 → ∀ i, i < 8 → tget none s.fab.ecc ((0x10000000 + (a - 0x400000)) / 32 * 32 + 4 * i) = none

/-- No BZ of the context is unresolved, so that its instructions are not speculative (R72). -/
def NotSpeculative (s : State) (c : Nat) : Prop := (s.ctx c).snaps = []

/-- The trail of core k after an entry, while the Breadcrumbs are not frozen (R480, R482). -/
def trailAfter (s : State) (k : Nat) : Option (Word × Word) → List TrailEnt
  | none => (s.core k).trail
  | some w => if s.faults.frozen then (s.core k).trail else newest (trailCap k) ((s.core k).trail ++ [⟨w.1, w.2, false⟩])

/-- What an instruction of context c leaves beside its own effect: its core's fetch (R76, R77) with the check bits that it meets (R191), its core's
warned accounts (R258), the Miller's meters (R252) and events under way (R191, R258). Its core becomes q but for those, the trail gains `e`, and the
units `ps` may change besides. -/
def RetireFrame (ps : List Part) (s t : State) (c : Nat) (q : Core) (e : Option (Word × Word)) : Prop :=
  (∀ d, d ≠ c → t.ctx d = s.ctx d) ∧
  (∀ k, k ≠ coreOf c → t.core k = s.core k) ∧
  t.core (coreOf c) =
    { q with
      trail := trailAfter s (coreOf c) e, icMiss := (t.core (coreOf c)).icMiss
      icache := (t.core (coreOf c)).icache, warned := (t.core (coreOf c)).warned } ∧
  t.clk = { s.clk with xings := t.clk.xings, itemsDisc := t.clk.itemsDisc, eventsDisc := t.clk.eventsDisc } ∧
  t.mill = { s.mill with accts := t.mill.accts } ∧
  (.fab ∉ ps → t.fab = { s.fab with ecc := t.fab.ecc, corr := t.fab.corr, uncorr := t.fab.uncorr }) ∧
  (.faults ∉ ps → t.faults.frozen = s.faults.frozen) ∧
  (FetchGood s c → (.fab ∉ ps → t.fab = s.fab) ∧ (.faults ∉ ps → t.faults = s.faults)) ∧
  ChangesOnly (ps ++ [.ctxs, .cores, .clk, .mill, .free, .fab, .faults]) s t

/-- Context c after an instruction of so many issue slots whose own effect left x: the PC has moved and CTX_CYCLES has counted. -/
def retiredCtx (s : State) (c slots : Nat) (pc : BitVec 24) (x : Ctx) : Ctx :=
  { x with pc := pc, cycles := (s.ctx c).cycles + wd slots, fbuf := true, entered := false }

/-- An instruction without EXIT retires: its context is x, and the next instruction follows. -/
def Retired (s t : State) (c slots : Nat) (x : Ctx) : Prop :=
  t.ctx c = retiredCtx s c slots ((s.ctx c).pc + 2) x ∧ RetireFrame [] s t c (s.core (coreOf c)) none

/-- A form of a basic op that can retire on what is on chip: without EXIT, or with EXIT while the return stack that the operation leaves
holds a legal target and the context is not speculative (R93, R132). -/
def FormOk (x : Ctx) (f : BitVec 4) (rs : List Word) : Prop :=
  f = 0 ∨ (f = 1 ∧ (∃ w r, rs = w :: r ∧ badTarget w = false) ∧ x.snaps = [])

/-- A basic op retires with its own effect: its context is x and its core q. Without EXIT the next instruction follows, and with EXIT the
return stack is popped into the PC and the return is recorded (R93, R480). The units `ps` may change besides. -/
def RetiredWith (ps : List Part) (s t : State) (c : Nat) (f : BitVec 4) (slots : Nat) (x : Ctx) (q : Core) : Prop :=
  if f = 0 then t.ctx c = retiredCtx s c slots ((s.ctx c).pc + 2) x ∧ RetireFrame ps s t c q none
  else
    let pc := BitVec.ofNat 24 (x.rs.headD 0).toNat
    t.ctx c = retiredCtx s c slots pc { x with rs := x.rs.tail } ∧
    RetireFrame ps s t c q (some (trailWords c (s.ctx c).pc 4 pc 0))

/-- A basic op that works on its context alone retires. -/
def RetiredForm (s t : State) (c : Nat) (f : BitVec 4) (slots : Nat) (x : Ctx) : Prop :=
  RetiredWith [] s t c f slots x (s.core (coreOf c))

/-- A control transfer of one slot retires: the context's own effect is x, the PC is the destination, and the trail records the kind of
transfer (R72, R480, Table 20.6). -/
def Transfers (s t : State) (c kind : Nat) (x : Ctx) (dest : BitVec 24) : Prop :=
  t.ctx c = retiredCtx s c 1 dest x ∧
  RetireFrame [] s t c (s.core (coreOf c)) (some (trailWords c (s.ctx c).pc kind dest 0))

/-- A legal absolute target: even and below 2^24 (R132). -/
def LegalTarget (w : Word) : Prop := w.toNat % 2 = 0 ∧ w.toNat < 2 ^ 24

/-- The target of a relative branch: (address of the branch + 2 + 2 × rel12) modulo 2^24 (R131). -/
def branchTarget (pc : BitVec 24) (rel : BitVec 12) : BitVec 24 := BitVec.ofInt 24 ((pc.toNat : Int) + 2 + 2 * rel.toInt)

/-- A late result for the top cell (R63 to R65): in deterministic mode the value stands there at once; otherwise the cell keeps what it
holds, and the value is due in that place, counted from the bottom. -/
def dueTop (det : Bool) (x : Ctx) (w : Word) : Ctx :=
  if det then { x with ds := w :: x.ds.tail }
  else
    { x with
      nextLand := x.nextLand + 1
      lands := x.lands ++ [{ id := x.nextLand, pos := x.ds.length - 1 + (x.dspPtr.toNat - x.dspBase.toNat) / 4, val := w, vf := none }] }

/-- A context that has entered LONG: its operands and its PC stand, and one slot is counted (R66). -/
def longCtx (x : Ctx) (exit : Bool) (op : LongOp) : Ctx :=
  { x with st := .long, long := some op, longExit := exit, cycles := x.cycles + 1, fbuf := true, entered := false }

/-- The context after a long instruction without EXIT, with its result x on the stacks (R66). -/
def longDone (x : Ctx) : Ctx :=
  { x with st := .run, long := none, longExit := false, evWmask := 0, pc := x.pc + 2 }

/-- A long instruction of the context that ends without EXIT, outside a user op, and with no halt or parking due. -/
def PlainLong (x : Ctx) : Prop :=
  x.longExit = false ∧ x.mid = none ∧ x.ufin = none ∧ x.haltDue = false ∧ x.parkDue = false

/-- The fabric is f, but for the check bits and counters of words that the instruction's own fetch has met (R191). -/
def FabLeaves (s t : State) (c : Nat) (f : Fab) : Prop :=
  t.fab = { f with ecc := t.fab.ecc, corr := t.fab.corr, uncorr := t.fab.uncorr } ∧ (FetchGood s c → t.fab = f)

/-- A word of shared SRAM that its bank serves to a core in normal mode over a crossing that is up, and whose check bits are good (R47, R120, R191). -/
def SramServes (s : State) (c a : Nat) : Prop :=
  0x10000000 ≤ a ∧ a < 0x10400000 ∧ s.bankHolder (a / 0x40000 % 16) = none ∧ tget none s.fab.ecc (a / 4 * 4) = none ∧
  (s.core (coreOf c)).det = false ∧ (s.xing (domOf (coreOf c))).up = true

/-- The instruction raises a trap: the context stands as before it (R147, R148, Table 6.1), and it has been fetched and charged one microword (R252).
TRAP_ADDR of a stack trap is PTR of the return stack when `addr` is 1, of the data stack otherwise. -/
def RaisesTrap (s t : State) (c cause addr : Nat) : Prop :=
  t.ctx c =
    { s.ctx c with
      trap := some ⟨BitVec.ofNat 8 cause,
        if cause = 0x03 ∨ cause = 0x04 then (if addr = 1 then wd (s.ctx c).rspPtr.toNat else wd (s.ctx c).dspPtr.toNat) else wd addr,
        0, 0, false⟩
      entered := false } ∧
  RetireFrame [] s t c (s.core (coreOf c)) none

/-! ## What a command tells others -/

/-- One fault of this cause and class is reported in the fabric error log, its SEQ one above the last (R469, R482, Table 20.2): stored as
the newest of at most 64 entries, or counted while the Breadcrumbs are frozen. -/
def LogsFault (s t : State) (cause cls : Nat) : Prop :=
  t.faults.seq = s.faults.seq + 1 ∧
  (s.faults.frozen = true → t.faults = { s.faults with seq := s.faults.seq + 1, lostLog := satInc s.faults.lostLog }) ∧
  (s.faults.frozen = false → ∃ e : LogEnt,
    t.faults = { s.faults with
      seq := s.faults.seq + 1, frozen := decide (2 ≤ cls)
      log := (s.faults.log ++ [e]).drop (s.faults.log.length + 1 - 64) } ∧
    e.bad = false ∧ fld (nthW e.ws 0) 15 0 = (s.faults.seq + 1).toNat ∧ fld (nthW e.ws 0) 23 16 = cause ∧ fld (nthW e.ws 0) 31 24 = cls)

/-- One more event is in flight in a direction of crossing x, while that crossing is up (R44 to R47). -/
def QueuesEvent (s t : State) (x : Nat) (toD2 : Bool) (e : XEvent) : Prop :=
  (s.xing x).up = true → ((t.xing x).dir toD2).pending e = ((s.xing x).dir toD2).pending e + 1

/-- One event on line l of core k enters the crossing of its island, while that crossing is up (R47, R150). -/
def QueuesLine (s t : State) (k l : Nat) : Prop := QueuesEvent s t (domOf k) false (.line k l)

/-- These reliable packets leave on the lanes, in order, with the next sequence numbers and places in the replay buffer (R328, R329). -/
def SendsReliable (s t : State) (ps : List (Nat × BitVec 16 × List Word × Option ShadowRec)) : Prop :=
  let pk := ps.mapIdx fun i p => (⟨BitVec.ofNat 8 p.1, true, s.twin.txSeq + BitVec.ofNat 12 i, p.2.1, p.2.2.1, p.2.2.2⟩ : Pkt)
  t.twin.tsent = s.twin.tsent ++ pk ∧ t.twin.replayBuf = s.twin.replayBuf ++ pk ∧ t.twin.txSeq = s.twin.txSeq + BitVec.ofNat 12 ps.length

/-- A packet that is the next in sequence on lanes that are up, and not the one whose acknowledgement is due at once (R329). -/
def InOrder (s : State) (h : Hdr) : Prop := s.twin.lanesUp = true ∧ h.seq = s.twin.rxSeq + 1 ∧ s.twin.unackedRx < 7

/-- The packet has been accepted (R329). -/
def Accepted (s t : State) (h : Hdr) : Prop := t.twin.rxSeq = h.seq ∧ t.twin.unackedRx = s.twin.unackedRx + 1

/-- The lanes and the replay buffer take one more packet at once (R329). -/
def LinkFree (s : State) : Prop := s.twin.lanesUp = true ∧ s.twin.replayBuf.length < 32

/-- The one entry that a ring has fetched may start now, and its completion entry can be written at once (R284, R291, R343, R474; Table 14.3). -/
def HeadReady (s : State) (n : Nat) (e : SqEnt) : Prop :=
  (s.ring n).fetched = [e] ∧ (s.ring n).mayStart e (waitingRecs s n) = true ∧ s.host.fatal = false ∧ canSend s = true ∧
  (s.ring n).held = [] ∧ (n = 0 ∨ shadowing s = false ∧ s.twin.stoodDown = false ∧ s.twin.st ≠ .conflict)

/-- A started command of ring n can end with its entry written at once, and nothing waits behind it (R291, R343, R474). -/
def CanEnd (s : State) (n : Nat) (q : Started) : Prop :=
  (s.ring n).started = [q] ∧ (s.ring n).fetched = [] ∧ (s.ring n).resetting = false ∧ s.host.fatal = false ∧ canSend s = true ∧
  (s.ring n).held = [] ∧ (n = 0 ∨ shadowing s = false ∧ s.twin.stoodDown = false)

/-- An unsolicited completion is posted; while RING_0 does not run it waits behind at most 16 others (R286). -/
def Posts (s t : State) (status : Nat) (r0 r1 : Word) : Prop :=
  s.host.fatal = false → (s.ring 0).st ≠ .active → s.host.unsol.length ≤ 16 →
  t.host.unsol = s.host.unsol ++ [(BitVec.ofNat 16 status, r0, r1)]

/-- An entry of ring n with these results and status is written at its CQ_TAIL, after the writes `pre` and with nothing after it but
messages; the tail advances, and PHASE inverts at the wrap (R288, R289, R292, R294, Table 12.8). -/
def WritesEntry (s t : State) (n : Nat) (pre : List Tlp) (cmd : BitVec 16) (epoch : BitVec 8) (status : Nat) (r0 r1 : Word) : Prop :=
  let r := s.ring n
  (∃ ms, t.host.sent = s.host.sent ++ pre ++
      .write (r.cqBase + 16 * r.cqTail)
        [r0, r1, BitVec.ofNat 32 (r.sqHead + cmd.toNat * 2 ^ 16),
         BitVec.ofNat 32 (status + epoch.toNat * 2 ^ 16 + (if r.phase then 2 ^ 24 else 0))] :: ms ∧
    ∀ m ∈ ms, ∃ v a d, m = .msix v a d) ∧
  (t.ring n).cqTail = (if r.cqTail + 1 < 2 ^ r.log2n then r.cqTail + 1 else 0) ∧
  (t.ring n).phase = (if r.cqTail + 1 < 2 ^ r.log2n then r.phase else !r.phase)

/-- The started command ends with this status and these results, after the writes `pre`. -/
def Ends (s t : State) (n : Nat) (q : Started) (pre : List Tlp) (status : Nat) (r0 r1 : Word) : Prop :=
  WritesEntry s t n pre q.cmd q.ent.epoch status r0 r1 ∧ (t.ring n).started = []

/-- An admin command at the head of RING_0 of a side that serves alone: nothing of it goes to a twin (R304, Table 14.3). -/
def AdminReady (s : State) (e : SqEnt) (op : Nat) : Prop :=
  HeadReady s 0 e ∧ e.opcode = op ∧ s.twin.st = .alone ∧ (s.ring 0).started = []

/-- The words of the writes among these transactions, in order. -/
def writtenWords (ts : List Tlp) : List Word := (ts.map fun t => match t with | .write _ ws _ => ws | _ => []).flatten

/-- The head entry of ring n completes with this status and these results, and the ring has nothing more to start. -/
def Completes (s t : State) (n : Nat) (e : SqEnt) (status : Nat) (r0 r1 : Word) : Prop :=
  WritesEntry s t n [] e.cmd e.epoch status r0 r1 ∧ (t.ring n).fetched = [] ∧ (t.ring n).started = (s.ring n).started

/-- The journal gains an entry for this reason, from a Hearth that held h: behind others it waits, and otherwise its 1,024 words are under way
to the slot whose turn it is, REASON in word 4 (R439, Table 18.2). -/
def Journals (h : Hearth) (t : State) (reason : Nat) : Prop :=
  (h.jnlRest ≠ [] ∨ h.onVbat = true → t.hearth = { h with jnlDue := h.jnlDue ++ [BitVec.ofNat 8 reason] }) ∧
  (h.jnlDue = [] → h.jnlRest = [] → h.onVbat = false →
    t.hearth = { h with jnlRest := t.hearth.jnlRest, jnlAt := if h.jnlNext then 4096 else 0, jnlNext := !h.jnlNext } ∧
    t.hearth.jnlRest.length = 1024 ∧ nthW t.hearth.jnlRest 4 = BitVec.ofNat 32 reason)

/-- A frame on the service port that answers a command (R460): CMD with bit 7 set, SEQ, the length and the payload (the status and words, least
significant byte first) under their CRC-16, escaped, between flags. -/
def serviceFrame (cmd : Nat) (seq : Byte) (status : Nat) (rest : List Word) : List Byte :=
  let payload := [BitVec.ofNat 8 status, BitVec.ofNat 8 (status / 256)] ++ (rest.map leBytes).flatten
  let body := [BitVec.ofNat 8 (cmd + 128), seq, BitVec.ofNat 8 payload.length, BitVec.ofNat 8 (payload.length / 256)] ++ payload
  [0x7E] ++ escape (body ++ beBytes 2 (crc16 body).toNat) ++ [0x7E]

/-- The service port answers a command. -/
def SvcAnswers (s t : State) (cmd : Nat) (seq : Byte) (status : Nat) (rest : List Word) : Prop :=
  t.util = { s.util with svc := { s.util.svc with sentBytes := s.util.svc.sentBytes ++ serviceFrame cmd seq status rest } }

/-! ## Invariant -/

/-- What holds in every state that steps reach: each memory lists its bytes in rising order and no zero byte (R188, R519, Table 18.2), and nothing
holds more than it has room for: the fabric error log 64 entries (R469), a mailbox 8 words (R211), a UART's FIFOs 64 bytes each way (R495), CAN's
receive FIFO 8 frames (R497). -/
def StateInv (s : State) : Prop :=
  Memory.wf s.fab.sram = true ∧ Memory.wf s.hearth.journal = true ∧
  (∀ k, Memory.wf (s.core k).code = true ∧ Memory.wf (s.core k).dlocal = true) ∧
  s.faults.log.length ≤ 64 ∧ (∀ i, (s.mbox i).ws.length ≤ 8) ∧
  s.util.gnss.rx.length ≤ 64 ∧ s.util.gnss.tx.length ≤ 64 ∧ s.util.svc.rx.length ≤ 64 ∧ s.util.svc.tx.length ≤ 64 ∧
  s.util.can.rx.length ≤ 8

end Sys2Proof.Machine
end

