-- ==== Sys2Proof/Certificates/Slice0/Obligations.lean ====
section
/-! DEFINITION. The statements for the provers. Each docstring names the rules of spec/ that it formalises. -/

open Sys2Proof Sys2Proof.Machine

/-- Table 4.3 (R99 to R101): every stack instruction, on cells that are on chip, in both of its forms. -/
def Obligations.StackInstructionsRetire : Prop :=
  ∀ (s : State) (c : Nat) (f : BitVec 4), CanIssue s c → ∀ (a b z : Word) (t : List Word),
    (FormOk (s.ctx c) f (s.ctx c).rs → AnswersOp 0x00 c (.nop c f) s fun u => RetiredForm s u c f 1 (s.ctx c)) ∧
    ((s.ctx c).ds = a :: t → t.length ≤ 14 → FormOk (s.ctx c) f (s.ctx c).rs →
      AnswersOp 0x01 c (.dup c f none) s fun u => RetiredForm s u c f 1 { s.ctx c with ds := a :: a :: t }) ∧
    ((s.ctx c).ds = a :: t → t.length ≤ 15 → FormOk (s.ctx c) f (s.ctx c).rs →
      AnswersOp 0x02 c (.drop c f) s fun u => RetiredForm s u c f 1 { s.ctx c with ds := t }) ∧
    ((s.ctx c).ds = b :: a :: t → t.length ≤ 14 → FormOk (s.ctx c) f (s.ctx c).rs →
      AnswersOp 0x03 c (.swap c f) s (fun u => RetiredForm s u c f 1 { s.ctx c with ds := a :: b :: t }) ∧
      AnswersOp 0x06 c (.nip c f) s fun u => RetiredForm s u c f 1 { s.ctx c with ds := b :: t }) ∧
    ((s.ctx c).ds = b :: a :: t → t.length ≤ 13 → FormOk (s.ctx c) f (s.ctx c).rs →
      AnswersOp 0x04 c (.over c f none) s (fun u => RetiredForm s u c f 1 { s.ctx c with ds := a :: b :: a :: t }) ∧
      AnswersOp 0x07 c (.tuck c f) s fun u => RetiredForm s u c f 1 { s.ctx c with ds := b :: a :: b :: t }) ∧
    ((s.ctx c).ds = z :: b :: a :: t → t.length ≤ 13 → FormOk (s.ctx c) f (s.ctx c).rs →
      AnswersOp 0x05 c (.rot c f) s fun u => RetiredForm s u c f 1 { s.ctx c with ds := a :: z :: b :: t }) ∧
    ((s.ctx c).ds = a :: t → a.toNat < t.length → t.length ≤ 15 → FormOk (s.ctx c) f (s.ctx c).rs →
      AnswersOp 0x08 c (.pick c f) s fun u => RetiredForm s u c f 1 { s.ctx c with ds := t.getD a.toNat 0 :: t }) ∧
    ((s.ctx c).ds.length ≤ 15 → FormOk (s.ctx c) f (s.ctx c).rs →
      AnswersOp 0x09 c (.depth c f) s fun u => RetiredForm s u c f 1
        { s.ctx c with
          ds := wd ((s.ctx c).ds.length + ((s.ctx c).dspPtr.toNat - (s.ctx c).dspBase.toNat) / 4) :: (s.ctx c).ds }) ∧
    ((s.ctx c).ds = a :: t → t.length ≤ 15 → (s.ctx c).rs.length ≤ 15 → FormOk (s.ctx c) f (a :: (s.ctx c).rs) →
      AnswersOp 0x0A c (.toR c f) s fun u => RetiredForm s u c f 1 { s.ctx c with ds := t, rs := a :: (s.ctx c).rs }) ∧
    ((s.ctx c).rs = a :: t → t.length ≤ 15 → (s.ctx c).ds.length ≤ 15 → FormOk (s.ctx c) f t →
      AnswersOp 0x0B c (.rFrom c f) s fun u => RetiredForm s u c f 1 { s.ctx c with ds := a :: (s.ctx c).ds, rs := t }) ∧
    ((s.ctx c).rs = a :: t → t.length ≤ 15 → (s.ctx c).ds.length ≤ 15 → FormOk (s.ctx c) f (a :: t) →
      AnswersOp 0x0C c (.rFetch c f) s fun u => RetiredForm s u c f 1 { s.ctx c with ds := a :: (s.ctx c).ds }) ∧
    ((s.ctx c).rs = a :: t → t.length ≤ 15 → FormOk (s.ctx c) f t →
      AnswersOp 0x0D c (.rdrop c f) s fun u => RetiredForm s u c f 1 { s.ctx c with rs := t })

/-- R94 and R95: LIT pushes its sign-extended payload, LITC shifts the top cell left by 14 and puts its payload below; the three LITs of
R95 build every 32-bit value. -/
def Obligations.LiteralsBuildConstants : Prop :=
  (∀ (s : State) (c : Nat) (p : BitVec 14), CanIssue s c →
    ((s.ctx c).ds.length ≤ 15 →
      Answers (.lit c p none) s fun u => Retired s u c 1 { s.ctx c with ds := p.signExtend 32 :: (s.ctx c).ds }) ∧
    (∀ a t, (s.ctx c).ds = a :: t → t.length ≤ 15 →
      Answers (.litc c p) s fun u => Retired s u c 1 { s.ctx c with ds := (a <<< 14 ||| p.setWidth 32) :: t })) ∧
  (∀ (v : Word) (s0 s1 s2 s3 : State) (c : Nat), CanIssue s0 c → CanIssue s1 c → CanIssue s2 c →
    (s0.ctx c).ds.length ≤ 15 →
    exec (.lit c ((v.sshiftRight 28).setWidth 14) none) s0 = .next s1 → exec (.litc c (v.extractLsb' 14 14)) s1 = .next s2 →
    exec (.litc c (v.extractLsb' 0 14)) s2 = .next s3 → (s3.ctx c).ds = v :: (s0.ctx c).ds)

/-- Tables 4.4, 4.5 and 4.6 (R102, R103, R108): the instructions of two operands or one that leave C and V alone, in both forms. -/
def Obligations.ArithmeticResults : Prop :=
  ∀ (s : State) (c : Nat) (f : BitVec 4), CanIssue s c → FormOk (s.ctx c) f (s.ctx c).rs → ∀ (a b : Word) (t : List Word),
    ((s.ctx c).ds = b :: a :: t → t.length ≤ 14 →
      let two (op : Nat) (i : Instr) (r : Word) : Prop := AnswersOp op c i s fun u => RetiredForm s u c f 1 { s.ctx c with ds := r :: t }
      two 0x14 (.and c f) (a &&& b) ∧ two 0x15 (.or c f) (a ||| b) ∧ two 0x16 (.xor c f) (a ^^^ b) ∧
      two 0x19 (.shl c f) (if 32 ≤ b.toNat then 0 else a <<< b.toNat) ∧
      two 0x1A (.shr c f) (if 32 ≤ b.toNat then 0 else a >>> b.toNat) ∧
      two 0x1B (.sar c f) (if 32 ≤ b.toNat then (if a.toInt < 0 then 0xFFFFFFFF#32 else 0) else a.sshiftRight b.toNat) ∧
      two 0x1C (.rol c f) (a.rotateLeft (b.toNat % 32)) ∧ two 0x1D (.ror c f) (a.rotateRight (b.toNat % 32)) ∧
      two 0x28 (.eq c f none) (if a = b then 0xFFFFFFFF#32 else 0) ∧ two 0x29 (.ne c f) (if a = b then 0 else 0xFFFFFFFF#32) ∧
      two 0x2A (.lt c f none) (if a.toInt < b.toInt then 0xFFFFFFFF#32 else 0) ∧
      two 0x2B (.ltu c f none) (if a.toNat < b.toNat then 0xFFFFFFFF#32 else 0) ∧
      two 0x2D (.min c f) (if b.toInt < a.toInt then b else a) ∧ two 0x2E (.max c f) (if b.toInt < a.toInt then a else b)) ∧
    ((s.ctx c).ds = a :: t → t.length ≤ 15 →
      let one (op : Nat) (i : Instr) (P : Word → Prop) : Prop :=
        ∃ r, P r ∧ AnswersOp op c i s fun u => RetiredForm s u c f 1 { s.ctx c with ds := r :: t }
      one 0x17 (.not c f) (fun r => r = ~~~a) ∧ one 0x2C (.zeq c f none) (fun r => r = if a = 0 then 0xFFFFFFFF#32 else 0) ∧
      one 0x30 (.sexb c f) (fun r => r.toInt = (a.extractLsb' 0 8).toInt) ∧ one 0x31 (.sexh c f) (fun r => r.toInt = (a.extractLsb' 0 16).toInt) ∧
      one 0x32 (.zexb c f) (fun r => r.toNat = a.toNat % 2 ^ 8) ∧ one 0x33 (.zexh c f) (fun r => r.toNat = a.toNat % 2 ^ 16) ∧
      one 0x34 (.clz c f) (fun r => r.toNat = (if a = 0 then 32 else 31 - Nat.log2 a.toNat)) ∧
      one 0x35 (.popc c f) (fun r => r.toNat = ((List.range 32).filter fun i => a.getLsbD i).length))

/-- Table 4.7 (R109) with Table 4.4: ADD, SUB, ADDC, SUBC and NEG write their result with C and V. V is overflow of the signed result. -/
def Obligations.AddSubtractSetFlags : Prop :=
  ∀ (s : State) (c : Nat) (f : BitVec 4), CanIssue s c → FormOk (s.ctx c) f (s.ctx c).rs → ∀ (a b : Word) (t : List Word),
    let k := (s.ctx c).cf
    let one : Word := if k then 1 else 0
    let fits (i : Int) : Bool := decide (-(2 ^ 31 : Int) ≤ i) && decide (i < 2 ^ 31)
    ((s.ctx c).ds = b :: a :: t → t.length ≤ 14 →
      let two (op : Nat) (i : Instr) (r : Word) (cf vf : Bool) : Prop :=
        AnswersOp op c i s fun u => RetiredForm s u c f 1 { s.ctx c with ds := r :: t, cf := cf, vf := vf }
      two 0x10 (.add c f) (a + b) (decide (2 ^ 32 ≤ a.toNat + b.toNat)) (!fits (a.toInt + b.toInt)) ∧
      two 0x11 (.sub c f) (a - b) (decide (a.toNat < b.toNat)) (!fits (a.toInt - b.toInt)) ∧
      two 0x12 (.addc c f) (a + b + one) (decide (2 ^ 32 ≤ a.toNat + b.toNat + one.toNat)) (!fits (a.toInt + b.toInt + one.toNat)) ∧
      two 0x13 (.subc c f) (a - b - one) (decide (a.toNat < b.toNat + one.toNat)) (!fits (a.toInt - b.toInt - one.toNat))) ∧
    ((s.ctx c).ds = a :: t → t.length ≤ 15 →
      AnswersOp 0x18 c (.neg c f) s fun u =>
        RetiredForm s u c f 1 { s.ctx c with ds := (0 - a) :: t, cf := decide (a ≠ 0), vf := decide (a = 0x80000000#32) })

/-- R63 to R65, R105 to R107, R109, Tables 4.5 and 4.7: outside deterministic mode MUL, MULH and MULHU leave their cell with b until RESULT_LAND
brings the product (and V for MUL); in deterministic mode the product is there at once. A divide occupies nine slots and gives the truncated
quotient or the remainder; with b = 0 it traps with both operands in place; between two of its microwords it stands with its operands, and goes on
from there. -/
def Obligations.MultiplyAndDivide : Prop :=
  (∀ (s : State) (c : Nat) (f : BitVec 4), CanIssue s c → FormOk (s.ctx c) f (s.ctx c).rs →
      ∀ (a b : Word) (t : List Word), (s.ctx c).ds = b :: a :: t → t.length ≤ 14 →
      let low : Word := BitVec.ofInt 32 (a.toInt * b.toInt)
      let v : Bool := decide (a.toInt * b.toInt ≠ low.toInt)
      let high : Word := BitVec.ofInt 32 (a.toInt * b.toInt / 2 ^ 32)
      let highU : Word := BitVec.ofNat 32 (a.toNat * b.toNat / 2 ^ 32)
      ((s.core (coreOf c)).det = true →
        AnswersOp 0x20 c (.mul c f) s (fun u => RetiredForm s u c f 1 { s.ctx c with ds := low :: t, vf := v }) ∧
        AnswersOp 0x21 c (.mulh c f) s (fun u => RetiredForm s u c f 1 { s.ctx c with ds := high :: t }) ∧
        AnswersOp 0x22 c (.mulhu c f) s (fun u => RetiredForm s u c f 1 { s.ctx c with ds := highU :: t })) ∧
      ((s.core (coreOf c)).det = false →
        let late (op : Nat) (i : Instr) (val : Word) (vf : Option Bool) : Prop :=
          AnswersOp op c i s fun u => RetiredForm s u c f 1
            { s.ctx c with
              ds := b :: t, nextLand := (s.ctx c).nextLand + 1
              lands := (s.ctx c).lands ++
                [{ id := (s.ctx c).nextLand, pos := t.length + ((s.ctx c).dspPtr.toNat - (s.ctx c).dspBase.toNat) / 4, val := val, vf := vf }] }
        late 0x20 (.mul c f) low (some v) ∧ late 0x21 (.mulh c f) high none ∧ late 0x22 (.mulhu c f) highU none)) ∧
  (∀ (s : State) (c : Nat) (f : BitVec 4), CanIssue s c → FormOk (s.ctx c) f (s.ctx c).rs → ∀ (a b : Word) (t : List Word),
      (s.ctx c).ds = b :: a :: t → t.length ≤ 14 →
      (b ≠ 0 →
        let two (op : Nat) (i : Instr) (r : Word) (vf : Bool) : Prop :=
          AnswersOp op c i s fun u => RetiredForm s u c f 9 { s.ctx c with ds := r :: t, vf := vf }
        let ovf := decide (a = 0x80000000#32) && decide (b = 0xFFFFFFFF#32)
        two 0x23 (.div c f 0) (BitVec.ofInt 32 (a.toInt.tdiv b.toInt)) ovf ∧ two 0x25 (.mod c f 0) (BitVec.ofInt 32 (a.toInt.tmod b.toInt)) ovf ∧
        two 0x24 (.divu c f 0) (BitVec.ofNat 32 (a.toNat / b.toNat)) (s.ctx c).vf ∧
        two 0x26 (.modu c f 0) (BitVec.ofNat 32 (a.toNat % b.toNat)) (s.ctx c).vf) ∧
      (b = 0 → ∀ q ∈ [(0x23, Instr.div c f 0), (0x24, .divu c f 0), (0x25, .mod c f 0), (0x26, .modu c f 0)],
        AnswersOp q.1 c q.2 s fun u => RaisesTrap s u c 0x05 0)) ∧
  (∀ (s : State) (c n : Nat) (f : BitVec 4) (a b : Word), b ≠ 0 → 1 ≤ n → n ≤ 8 → FormOk (s.ctx c) f (s.ctx c).rs →
      let x := s.ctx c
      let two (op : Nat) (i : Nat → Instr) (r : Word) (vf : Bool) : Prop :=
        (∀ t, CanIssue s c → x.ds = b :: a :: t → t.length ≤ 14 → AnswersOp op c (i n) s fun u =>
          u.ctx c = { retiredCtx s c n x.pc x with mid := some (.divide op f n a b) } ∧ RetireFrame [] s u c (s.core (coreOf c)) none) ∧
        (microReady s c = true → x.mid = some (.divide op f n a b) → Answers (i 0) s fun u =>
          RetiredForm s u c f (9 - n) { x with mid := none, ds := r :: x.ds.drop 2, vf := vf })
      let ovf := decide (a = 0x80000000#32) && decide (b = 0xFFFFFFFF#32)
      two 0x23 (fun n => .div c f n) (BitVec.ofInt 32 (a.toInt.tdiv b.toInt)) ovf ∧ two 0x25 (fun n => .mod c f n) (BitVec.ofInt 32 (a.toInt.tmod b.toInt)) ovf ∧
      two 0x24 (fun n => .divu c f n) (BitVec.ofNat 32 (a.toNat / b.toNat)) x.vf ∧ two 0x26 (fun n => .modu c f n) (BitVec.ofNat 32 (a.toNat % b.toNat)) x.vf)

/-- R90 and R169: a basic op whose bits [11:9] are not zero, or whose dispatch entry is not loaded, raises the illegal-instruction trap and has
no other effect (an opcode from 0xF0 to 0xFF does so on S; elsewhere it is privileged). -/
def Obligations.NonzeroFieldIsIllegal : Prop :=
  ∀ (s : State) (c : Nat) (f : BitVec 4) (u : Upset), CanIssue s c → NotSpeculative s c →
    (∀ q ∈ [
      (0x00, Instr.nop c f), (0x01, .dup c f none), (0x02, .drop c f), (0x03, .swap c f), (0x04, .over c f none), (0x05, .rot c f),
      (0x06, .nip c f), (0x07, .tuck c f), (0x08, .pick c f), (0x09, .depth c f), (0x0A, .toR c f), (0x0B, .rFrom c f),
      (0x0C, .rFetch c f), (0x0D, .rdrop c f), (0x10, .add c f), (0x11, .sub c f), (0x12, .addc c f), (0x13, .subc c f), (0x14, .and c f),
      (0x15, .or c f), (0x16, .xor c f), (0x17, .not c f), (0x18, .neg c f), (0x19, .shl c f), (0x1A, .shr c f), (0x1B, .sar c f),
      (0x1C, .rol c f), (0x1D, .ror c f), (0x20, .mul c f), (0x21, .mulh c f), (0x22, .mulhu c f), (0x23, .div c f 0), (0x24, .divu c f 0),
      (0x25, .mod c f 0), (0x26, .modu c f 0), (0x28, .eq c f none), (0x29, .ne c f), (0x2A, .lt c f none), (0x2B, .ltu c f none),
      (0x2C, .zeq c f none), (0x2D, .min c f), (0x2E, .max c f), (0x30, .sexb c f), (0x31, .sexh c f), (0x32, .zexb c f),
      (0x33, .zexh c f), (0x34, .clz c f), (0x35, .popc c f), (0x40, .ldb c f u), (0x41, .ldbu c f u), (0x42, .ldh c f u),
      (0x43, .ldhu c f u), (0x44, .ldw c f u), (0x45, .stb c f), (0x46, .sth c f), (0x47, .stw c f), (0x48, .ldtry c f u),
      (0x49, .afadd c f u), (0x4A, .acas c f u), (0x4B, .lock c f), (0x4C, .unlock c f), (0x4D, .fence c f), (0x4E, .dflush c f),
      (0x4F, .dinval c f), (0x50, .iflush c f), (0x51, .setdb c f), (0x52, .getdb c f), (0x53, .setib c f), (0x54, .getib c f),
      (0x60, .jmpx c f), (0x61, .callx c f), (0x62, .ret c f), (0x63, .iret c f), (0x64, .trap c f), (0x65, .brk c f), (0x70, .inx c f),
      (0x71, .outx c f), (0x72, .wait c f), (0x73, .send c f), (0x74, .yield c f), (0x75, .timer c f), (0x76, .cswrd c f),
      (0x77, .cswwr c f)],
      2 ≤ f.toNat ∨ opLoaded s c q.1 = false → Answers q.2 s fun t => RaisesTrap s t c 0x01 0) ∧
    (∀ (op : BitVec 8) (bad : Bool), 2 ≤ f.toNat → op.toNat < 0xF0 ∨ coreOf c = 16 →
      Answers (.userOp c op f bad 0) s fun t => RaisesTrap s t c 0x01 0) ∧
    (coreOf c = 16 → ∀ q ∈ [(0xF0, Instr.ucwr c f), (0xF0, .ucwrDispatch c f), (0xF1, .ncwr c f), (0xF2, .modesetEnter c f),
        (0xF2, .modesetLeave c f), (0xF3, .ctxctlHalt c f), (0xF3, .ctxctlStart c f), (0xF3, .ctxctlResume c f), (0xF3, .ctxctlSetAcct c f),
        (0xF3, .ctxctlSetReg c f)],
      2 ≤ f.toNat ∨ opLoaded s c q.1 = false → Answers q.2 s fun t => RaisesTrap s t c 0x01 0)

/-- R55, R56 and R96: a push onto sixteen cells first spills the oldest at the spill pointer, which then rises by 4, or raises
stack-overflow; a pop from an empty stack first fills the cell below the pointer, which falls by 4, or raises stack-underflow. LIT
stands for the pushes and DROP for the pops; the return stack's >R and R@ do the same in their own region. -/
def Obligations.SpillAndFill : Prop :=
  ∀ (s : State) (c : Nat), CanIssue s c → NotSpeculative s c → (s.ctx c).lands = [] →
    let x := s.ctx c
    let q := s.core (coreOf c)
    (x.ds.length = 16 → ∀ p : BitVec 14,
      if x.dspBase.toNat ≤ x.dspPtr.toNat ∧ x.dspPtr.toNat < x.dspLimit.toNat then
        Answers (.lit c p none) s fun u =>
          u.ctx c = retiredCtx s c 1 (x.pc + 2) { x with ds := p.signExtend 32 :: x.ds.take 15, dspPtr := x.dspPtr + 4 } ∧
          RetireFrame [] s u c { q with dlocal := writeWord q.dlocal x.dspPtr.toNat (x.ds.getD 15 0) } none
      else Answers (.lit c p none) s fun u => RaisesTrap s u c 0x03 0) ∧
    (x.ds = [] →
      if x.dspBase.toNat < x.dspPtr.toNat ∧ x.dspPtr.toNat ≤ x.dspLimit.toNat then
        AnswersOp 0x02 c (.drop c 0) s fun u =>
          u.ctx c = retiredCtx s c 1 (x.pc + 2) { x with dspPtr := x.dspPtr - 4 } ∧ RetireFrame [] s u c q none
      else AnswersOp 0x02 c (.drop c 0) s fun u => RaisesTrap s u c 0x04 0) ∧
    (x.rs.length = 16 → ∀ a t, x.ds = a :: t → t.length ≤ 15 →
      if x.rspBase.toNat ≤ x.rspPtr.toNat ∧ x.rspPtr.toNat < x.rspLimit.toNat then
        AnswersOp 0x0A c (.toR c 0) s fun u =>
          u.ctx c = retiredCtx s c 1 (x.pc + 2) { x with ds := t, rs := a :: x.rs.take 15, rspPtr := x.rspPtr + 4 } ∧
          RetireFrame [] s u c { q with dlocal := writeWord q.dlocal x.rspPtr.toNat (x.rs.getD 15 0) } none
      else AnswersOp 0x0A c (.toR c 0) s fun u => RaisesTrap s u c 0x03 1) ∧
    (x.rs = [] → x.ds.length ≤ 15 →
      if x.rspBase.toNat < x.rspPtr.toNat ∧ x.rspPtr.toNat ≤ x.rspLimit.toNat then
        let w := readWord q.dlocal (x.rspPtr - 4).toNat
        AnswersOp 0x0C c (.rFetch c 0) s fun u =>
          u.ctx c = retiredCtx s c 1 (x.pc + 2) { x with ds := w :: x.ds, rs := [w], rspPtr := x.rspPtr - 4 } ∧
          RetireFrame [] s u c q none
      else AnswersOp 0x0C c (.rFetch c 0) s fun u => RaisesTrap s u c 0x04 1)

/-- R113 and R114 with R63 to R65: accesses to D-local memory. The datum of a load is little-endian, extended as the mnemonic says, and lands late
outside deterministic mode; LDS pushes the word at DBANK joined to its offset. A store writes the low bytes of x, least significant first, at the
address that the meaning forms, and leaves every other byte of memory as it was. -/
def Obligations.LocalLoadsAndStores : Prop :=
  (∀ (s : State) (c : Nat), CanIssue s c →
      let q := s.core (coreOf c)
      let x := s.ctx c
      (∀ (f : BitVec 4) (a : Word) (t : List Word), FormOk x f x.rs → x.ds = a :: t → t.length ≤ 15 → a.toNat < dlocalSize (coreOf c) →
        let b (i : Nat) : BitVec 8 := readByte q.dlocal (a.toNat + i)
        let gives (op : Nat) (i : Instr) (w : Word) : Prop := AnswersOp op c i s fun u => RetiredForm s u c f 1 (dueTop q.det x w)
        gives 0x40 (.ldb c f .none) ((b 0).signExtend 32) ∧ gives 0x41 (.ldbu c f .none) ((b 0).setWidth 32) ∧
        (a.toNat % 2 = 0 →
          gives 0x42 (.ldh c f .none) ((b 1 ++ b 0).signExtend 32) ∧ gives 0x43 (.ldhu c f .none) ((b 1 ++ b 0).setWidth 32)) ∧
        (a.toNat % 4 = 0 → gives 0x44 (.ldw c f .none) (b 3 ++ b 2 ++ b 1 ++ b 0))) ∧
      (∀ off : BitVec 12, x.ds.length ≤ 15 → off.toNat % 4 = 0 → x.dbank.toNat * 4096 + off.toNat < dlocalSize (coreOf c) →
        Answers (.lds c off .none) s fun u => ∃ z, Retired s u c 1
          (dueTop q.det { x with ds := z :: x.ds } (readWord q.dlocal (x.dbank.toNat * 4096 + off.toNat))))) ∧
  (∀ (s : State) (c : Nat), CanIssue s c → NotSpeculative s c →
      let q := s.core (coreOf c)
      let x := s.ctx c
      let stored (f : BitVec 4) (size a : Nat) (w : Word) (t : List Word) (u : State) : Prop :=
        ∃ m, RetiredWith [] s u c f 1 { x with ds := t } { q with dlocal := m } ∧
          ∀ b, readByte m b = if a ≤ b ∧ b < a + size then w.extractLsb' (8 * (b - a)) 8 else readByte q.dlocal b
      (∀ (f : BitVec 4) (a w : Word) (t : List Word), FormOk x f x.rs → x.ds = a :: w :: t → t.length ≤ 14 →
        a.toNat < dlocalSize (coreOf c) →
        AnswersOp 0x45 c (.stb c f) s (stored f 1 a.toNat w t) ∧
        (a.toNat % 2 = 0 → AnswersOp 0x46 c (.sth c f) s (stored f 2 a.toNat w t)) ∧
        (a.toNat % 4 = 0 → AnswersOp 0x47 c (.stw c f) s (stored f 4 a.toNat w t))) ∧
      (∀ (off : BitVec 12) (w : Word) (t : List Word), x.ds = w :: t → t.length ≤ 15 → off.toNat % 4 = 0 →
        x.dbank.toNat * 4096 + off.toNat < dlocalSize (coreOf c) →
        Answers (.sts c off) s (stored 0 4 (x.dbank.toNat * 4096 + off.toNat) w t)))

/-- R74, R75, R149 and Table 3.7: with FUSE_EN = 1 outside deterministic mode an instruction and the one after it that are a pair issue as one slot
and leave what the two leave; a stack trap of the second stops both. Elsewhere the first issues alone. -/
def Obligations.PairsIssueAsOne : Prop :=
  ∀ (s : State) (c : Nat), CanIssue s c →
    let x := s.ctx c
    let q := s.core (coreOf c)
    (∀ (p : BitVec 14) (f : BitVec 4) (n : Second) (rel : BitVec 12),
      (q.fuseEn = false ∨ q.det = true →
        exec (.lit c p (some n)) s = exec (.lit c p none) s ∧ exec (.dup c f (some n)) s = exec (.dup c f none) s ∧
        exec (.over c f (some n)) s = exec (.over c f none) s ∧ exec (.eq c f (some n)) s = exec (.eq c f none) s ∧
        exec (.lt c f (some n)) s = exec (.lt c f none) s ∧ exec (.ltu c f (some n)) s = exec (.ltu c f none) s ∧
        exec (.zeq c f (some n)) s = exec (.zeq c f none) s) ∧
      exec (.lit c p (some (.bz rel))) s = exec (.lit c p none) s ∧
      (f.getLsbD 0 = true → exec (.dup c f (some n)) s = exec (.dup c f none) s)) ∧
    (q.fuseEn = true → q.det = false → x.pc.toNat + 2 < 0x4000 →
      let pair (y : Ctx) (u : State) : Prop := u.ctx c = retiredCtx s c 1 (x.pc + 4) y ∧ RetireFrame [] s u c q none
      let fits (i : Int) : Bool := decide (-(2 ^ 31 : Int) ≤ i) && decide (i < 2 ^ 31)
      let branches (rel : BitVec 12) (taken : Bool) (ds : List Word) (u : State) : Prop := ∃ p : Bool,
        (∀ n, q.bpEn = true → tget none q.pred ((x.pc + 2).toNat / 2 % 256) = some n → p = n.getLsbD 1) ∧
        (q.bpEn = false ∨ tget none q.pred ((x.pc + 2).toNat / 2 % 256) = none → p = decide (rel.toInt < 0)) ∧
        u.ctx c = retiredCtx s c 1 (if p then branchTarget (x.pc + 2) rel else x.pc + 4)
          { x with
            ds := ds
            snaps := x.snaps ++
              [{ ds := ds, rs := x.rs, dspPtr := x.dspPtr, rspPtr := x.rspPtr, cf := x.cf, vf := x.vf, lands := x.lands, bzPc := x.pc + 2
                 target := branchTarget (x.pc + 2) rel, taken := taken, predicted := p, undo := [], due := [], cxIssue := x.cxIssue, cxTags := []
                 cycles := x.cycles + 1, t0 := x.t0, t1 := x.t1, starved := false }] } ∧
        RetireFrame [] s u c q none
      (∀ (p : BitVec 14) (a : Word) (t : List Word), x.ds = a :: t → t.length ≤ 14 →
        let b : Word := p.signExtend 32
        let lit (op : Nat) (n : Second) (y : Ctx) : Prop := AnswersOp op c (.lit c p (some n)) s (pair y)
        lit 0x10 (.add 0) { x with ds := (a + b) :: t, cf := decide (2 ^ 32 ≤ a.toNat + b.toNat), vf := !fits (a.toInt + b.toInt) } ∧
        lit 0x11 (.sub 0) { x with ds := (a - b) :: t, cf := decide (a.toNat < b.toNat), vf := !fits (a.toInt - b.toInt) } ∧
        lit 0x14 (.and 0) { x with ds := (a &&& b) :: t } ∧ lit 0x15 (.or 0) { x with ds := (a ||| b) :: t } ∧
        lit 0x16 (.xor 0) { x with ds := (a ^^^ b) :: t } ∧
        lit 0x19 (.shl 0) { x with ds := (if 32 ≤ b.toNat then 0 else a <<< b.toNat) :: t } ∧
        lit 0x1A (.shr 0) { x with ds := (if 32 ≤ b.toNat then 0 else a >>> b.toNat) :: t } ∧
        lit 0x28 (.eq 0) { x with ds := (if a = b then 0xFFFFFFFF#32 else 0) :: t } ∧
        (b.toNat % 4 = 0 → b.toNat < dlocalSize (coreOf c) →
          lit 0x44 (.ldw 0 .none) (dueTop false { x with ds := b :: a :: t } (readWord q.dlocal b.toNat)) ∧
          (x.snaps = [] → AnswersOp 0x47 c (.lit c p (some (.stw 0))) s fun u => ∃ m,
            u.ctx c = retiredCtx s c 1 (x.pc + 4) { x with ds := t } ∧ RetireFrame [] s u c { q with dlocal := m } none ∧
            ∀ i, readByte m i = if b.toNat ≤ i ∧ i < b.toNat + 4 then a.extractLsb' (8 * (i - b.toNat)) 8 else readByte q.dlocal i))) ∧
      (∀ (p : BitVec 14), x.ds = [] → x.lands = [] → ¬(x.dspBase.toNat < x.dspPtr.toNat ∧ x.dspPtr.toNat ≤ x.dspLimit.toNat) →
        AnswersOp 0x10 c (.lit c p (some (.add 0))) s fun u => RaisesTrap s u c 0x04 0) ∧
      (∀ (a b : Word) (t : List Word) (rel : BitVec 12), x.ds = b :: a :: t → t.length ≤ 13 → opLoaded s c 0x10 = true →
        AnswersOp 0x04 c (.over c 0 (some (.add 0))) s (pair
          { x with ds := (b + a) :: a :: t, cf := decide (2 ^ 32 ≤ b.toNat + a.toNat), vf := !fits (b.toInt + a.toInt) }) ∧
        AnswersOp 0x01 c (.dup c 0 (some (.bz rel))) s (branches rel (decide (b = 0)) (b :: a :: t)) ∧
        AnswersOp 0x2C c (.zeq c 0 (some (.bz rel))) s (branches rel (decide (b ≠ 0)) (a :: t)) ∧
        AnswersOp 0x28 c (.eq c 0 (some (.bz rel))) s (branches rel (decide (a ≠ b)) t) ∧
        AnswersOp 0x2A c (.lt c 0 (some (.bz rel))) s (branches rel (decide (b.toInt ≤ a.toInt)) t) ∧
        AnswersOp 0x2B c (.ltu c 0 (some (.bz rel))) s (branches rel (decide (b.toNat ≤ a.toNat)) t)))

/-- R116 and R118: LDTRY, AFADD and ACAS on D-local memory. LDTRY leaves the word and an all-ones flag; the atomics leave the old word, and
the memory holds old + n, or the new word when the old one was the expected. -/
def Obligations.LocalAtomicsAndTry : Prop :=
  ∀ (s : State) (c : Nat) (f : BitVec 4), CanIssue s c → NotSpeculative s c → FormOk (s.ctx c) f (s.ctx c).rs →
    let q := s.core (coreOf c)
    let x := s.ctx c
    ∀ (a n e : Word) (t : List Word), a.toNat % 4 = 0 → a.toNat < dlocalSize (coreOf c) → t.length ≤ 13 →
      let old := readWord q.dlocal a.toNat
      (x.ds = a :: t → AnswersOp 0x48 c (.ldtry c f .none) s fun u =>
        if q.det then RetiredForm s u c f 1 { x with ds := 0xFFFFFFFF#32 :: old :: t }
        else ∃ z, RetiredForm s u c f 1
          { x with
            ds := z :: a :: t, nextLand := x.nextLand + 2
            lands := x.lands ++
              [{ id := x.nextLand, pos := t.length + (x.dspPtr.toNat - x.dspBase.toNat) / 4, val := old, vf := none },
               { id := x.nextLand + 1, pos := t.length + 1 + (x.dspPtr.toNat - x.dspBase.toNat) / 4, val := 0xFFFFFFFF#32, vf := none }] }) ∧
      (storesVisible s c = true → x.ds = n :: a :: t → AnswersOp 0x49 c (.afadd c f .none) s fun u => ∃ z,
        RetiredWith [] s u c f 1 (dueTop q.det { x with ds := z :: t } old)
          { q with dlocal := writeWord q.dlocal a.toNat (old + n) }) ∧
      (storesVisible s c = true → x.ds = n :: e :: a :: t → AnswersOp 0x4A c (.acas c f .none) s fun u => ∃ z,
        RetiredWith [] s u c f 1 (dueTop q.det { x with ds := z :: t } old)
          { q with dlocal := writeWord q.dlocal a.toNat (if old = e then n else old) })

/-- R66 and R119: an access of a load, LDTRY or atomic to shared SRAM puts the
context into LONG with its operands in place and its PC still. -/
def Obligations.SharedAccessesEnterLong : Prop :=
  ∀ (s : State) (c : Nat), CanIssue s c → NotSpeculative s c → (s.core (coreOf c)).det = false →
    let q := s.core (coreOf c)
    let x := s.ctx c
    let waits (n : Nat) (i : Instr) (op : LongOp) : Prop :=
      AnswersOp n c i s fun u => u.ctx c = longCtx x false op ∧ RetireFrame [] s u c q none
    ∀ (a n e : Word) (t : List Word), SramServes s c a.toNat → x.brk = none →
      (x.ds = a :: t →
        waits 0x40 (.ldb c 0 .none) (.load a 1 1 true false) ∧ waits 0x41 (.ldbu c 0 .none) (.load a 1 1 false false) ∧
        (a.toNat % 2 = 0 →
          waits 0x42 (.ldh c 0 .none) (.load a 2 1 true false) ∧ waits 0x43 (.ldhu c 0 .none) (.load a 2 1 false false)) ∧
        (a.toNat % 4 = 0 → waits 0x44 (.ldw c 0 .none) (.load a 4 1 false false) ∧
          (t.length ≤ 14 → waits 0x48 (.ldtry c 0 .none) (.load a 4 1 false true)))) ∧
      (a.toNat % 4 = 0 → storesVisible s c = true → x.ds = n :: a :: t → waits 0x49 (.afadd c 0 .none) (.atomic a (.fadd n))) ∧
      (a.toNat % 4 = 0 → storesVisible s c = true → x.ds = n :: e :: a :: t → waits 0x4A (.acas c 0 .none) (.atomic a (.cas e n)))

/-- R66, R113, R118 and R119: LONG_LOAD_ARRIVAL ends a long load of a bank with the extended datum in place of its operand, and a bank's
atomic with the old word in place of its operands and the new word in the bank. -/
def Obligations.LongAccessesEnd : Prop :=
  ∀ (s : State) (c : Nat) (a : Word), islandRuns s (domOf (coreOf c)) = true → PlainLong (s.ctx c) → SramServes s c a.toNat →
    let x := s.ctx c
    let d := readLE s.fab.sram a.toNat
    (∀ (size : Nat) (signed : Bool), size ∈ [1, 2, 4] → (s.core (coreOf c)).dcEn = false → storeWaits s c a.toNat size = false →
      x.long = some (.load a size 1 signed false) →
      exec (.longLoadArrival c .none false) s = .next (s.setCtx c (longDone
        { x with
          ds := (if signed then (BitVec.ofNat (8 * size) (d size)).signExtend 32 else BitVec.ofNat 32 (d size)) :: x.ds.drop 1 }))) ∧
    (∀ n, a.toNat % 4 = 0 → x.long = some (.atomic a (.fadd n)) → Answers (.longLoadArrival c .none false) s fun u =>
      u.ctx c = longDone { x with ds := BitVec.ofNat 32 (d 4) :: x.ds.drop 2 } ∧ (∀ e, e ≠ c → u.ctx e = s.ctx e) ∧
      u.fab = { s.fab with sram := writeWord s.fab.sram a.toNat (BitVec.ofNat 32 (d 4) + n), ecc := u.fab.ecc } ∧
      (∀ b, b ≠ a.toNat / 4 * 4 → tget none u.fab.ecc b = tget none s.fab.ecc b) ∧ ChangesOnly [.ctxs, .fab] s u) ∧
    (∀ e n, a.toNat % 4 = 0 → x.long = some (.atomic a (.cas e n)) → Answers (.longLoadArrival c .none false) s fun u =>
      u.ctx c = longDone { x with ds := BitVec.ofNat 32 (d 4) :: x.ds.drop 3 } ∧ (∀ e, e ≠ c → u.ctx e = s.ctx e) ∧
      (∀ b, readByte u.fab.sram b =
        readByte (writeWord s.fab.sram a.toNat (if BitVec.ofNat 32 (d 4) = e then n else BitVec.ofNat 32 (d 4))) b) ∧
      ChangesOnly [.ctxs, .fab] s u)

/-- R111, R189 and R7: a store to shared SRAM takes a place in the store buffer when it retires, and STORE_BUFFER_DRAIN writes its bytes
at its address and no other byte of memory. -/
def Obligations.StoresDrainInOrder : Prop :=
  (∀ (s : State) (c : Nat) (a w : Word) (t : List Word), CanIssue s c → NotSpeculative s c → SramServes s c a.toNat →
    (s.ctx c).brk = none → (s.ctx c).line = none → (s.core (coreOf c)).dcache = [] → (s.core (coreOf c)).sbuf.length < 4 → (s.ctx c).ds = a :: w :: t →
    let q := s.core (coreOf c)
    let posts (op : Nat) (i : Instr) (size : Nat) : Prop := AnswersOp op c i s fun u =>
      RetiredWith [] s u c 0 1 { s.ctx c with ds := t } { q with sbuf := q.sbuf ++ [⟨c, .mem a size w⟩] }
    posts 0x45 (.stb c 0) 1 ∧ (a.toNat % 2 = 0 → posts 0x46 (.sth c 0) 2) ∧ (a.toNat % 4 = 0 → posts 0x47 (.stw c 0) 4)) ∧
  (∀ (s : State) (k c size : Nat) (a w : Word) (rest : List StoreEnt), (s.core k).sbuf = ⟨c, .mem a size w⟩ :: rest →
    size ∈ [1, 2, 4] → a.toNat % size = 0 → SramServes s c a.toNat →
    Answers (.storeBufferDrain k .none) s fun u =>
      u.core k = { s.core k with sbuf := rest } ∧ (∀ j, j ≠ k → u.core j = s.core j) ∧
      (∀ b, readByte u.fab.sram b =
        if a.toNat ≤ b ∧ b < a.toNat + size then w.extractLsb' (8 * (b - a.toNat)) 8 else readByte s.fab.sram b) ∧
      u.fab = { s.fab with sram := u.fab.sram, ecc := u.fab.ecc } ∧ ChangesOnly [.cores, .fab] s u)

/-- R82, R120, R121 and R127 to R130: LOCK takes a free bank and UNLOCK frees it; FENCE retires once the context's stores are visible; the
cache and bank instructions do what they name. -/
def Obligations.LocksFencesAndBanks : Prop :=
  ∀ (s : State) (c : Nat), CanIssue s c → NotSpeculative s c →
    let q := s.core (coreOf c)
    let x := s.ctx c
    (∀ (f : BitVec 4) (a : Word) (t : List Word), FormOk x f x.rs → x.ds = a :: t →
      (SramServes s c a.toNat → x.hold = none → x.brk = none → (s.rights (coreOf c)).lock = true → s.fab.lockWait = [] →
        AnswersOp 0x4B c (.lock c f) s fun u =>
          RetiredWith [.fab] s u c f 1 { x with ds := t, hold := some ⟨false, a.toNat / 0x40000 % 16⟩ } q ∧
          (∀ b, u.bankHolder b = if b = a.toNat / 0x40000 % 16 then some (.ctx c) else s.bankHolder b) ∧
          FabLeaves s u c { s.fab with banks := u.fab.banks }) ∧
      AnswersOp 0x51 c (.setdb c f) s (fun u => RetiredForm s u c f 1 { x with ds := t, dbank := a.extractLsb' 12 20 }) ∧
      AnswersOp 0x53 c (.setib c 0) s (fun u => u.ctx c =
        { retiredCtx s c 1 (x.pc + 2) { x with ds := t, ibank := a.extractLsb' 0 8 } with fbuf := false } ∧
        RetireFrame [] s u c q none) ∧
      AnswersOp 0x4F c (.dinval c f) s fun u => RetiredWith [] s u c f 1 { x with ds := t }
        { q with dcache := q.dcache.filter fun l => l.addr != a.toNat / 32 * 32 }) ∧
    (∀ (f : BitVec 4), FormOk x f x.rs →
      (storesVisible s c = true → AnswersOp 0x4D c (.fence c f) s fun u => RetiredForm s u c f 1 x) ∧
      ((q.sbuf.all fun e => e.c != c) = true →
        AnswersOp 0x4E c (.dflush c f) s fun u => RetiredWith [] s u c f 2 x { q with dcache := [] }) ∧
      (x.ds.length ≤ 15 →
        AnswersOp 0x52 c (.getdb c f) s (fun u => RetiredForm s u c f 1 { x with ds := BitVec.ofNat 32 (x.dbank.toNat * 4096) :: x.ds }) ∧
        AnswersOp 0x54 c (.getib c f) s fun u => RetiredForm s u c f 1 { x with ds := x.ibank.setWidth 32 :: x.ds })) ∧
    (∀ b, b < 16 → x.hold = some ⟨false, b⟩ → x.brk = none → q.det = false → storesVisible s c = true → x.long = none →
      x.haltDue = false → x.parkDue = false → ∀ f, FormOk x f x.rs →
      AnswersOp 0x4C c (.unlock c f) s fun u => RetiredWith [.fab] s u c f 1 { x with hold := none } q ∧
        (∀ i, u.bankHolder i = if i = b then none else s.bankHolder i) ∧ FabLeaves s u c { s.fab with banks := u.fab.banks }) ∧
    AnswersOp 0x50 c (.iflush c 0) s fun u =>
      u.ctx c = { retiredCtx s c 2 (x.pc + 2) x with fbuf := false } ∧
      (∀ d, d ≠ c → coreOf d = coreOf c → u.ctx d = { s.ctx d with fbuf := false }) ∧
      (∀ d, coreOf d ≠ coreOf c → u.ctx d = s.ctx d) ∧ (∀ k, k ≠ coreOf c → u.core k = s.core k) ∧
      u.core (coreOf c) = { q with icache := [], icMiss := (u.core (coreOf c)).icMiss, warned := (u.core (coreOf c)).warned } ∧
      FabLeaves s u c s.fab ∧ (FetchGood s c → u.faults = s.faults) ∧ ChangesOnly [.ctxs, .cores, .clk, .mill, .free, .fab, .faults] s u

/-- R131 to R134 and R166: BRA, CALL, JMPX, CALLX, RET and IRET go to their targets, with the return address on the return stack for the
calls; IRET restores C, V, IE, INH and PRI from the CSW cell. An illegal target traps with the program-counter cause. -/
def Obligations.TransfersReachTargets : Prop :=
  ∀ (s : State) (c : Nat), CanIssue s c → NotSpeculative s c →
    let x := s.ctx c
    let ret : Word := (x.pc + 2).setWidth 32
    (∀ rel : BitVec 12,
      Answers (.bra c rel) s (fun u => Transfers s u c 1 x (branchTarget x.pc rel)) ∧
      (x.rs.length ≤ 15 →
        Answers (.call c rel) s fun u => Transfers s u c 2 { x with rs := ret :: x.rs } (branchTarget x.pc rel))) ∧
    (∀ (a : Word) (t : List Word), x.ds = a :: t →
      (LegalTarget a →
        AnswersOp 0x60 c (.jmpx c 0) s (fun u => Transfers s u c 3 { x with ds := t } (a.setWidth 24)) ∧
        (x.rs.length ≤ 15 →
          AnswersOp 0x61 c (.callx c 0) s fun u => Transfers s u c 2 { x with ds := t, rs := ret :: x.rs } (a.setWidth 24))) ∧
      (¬LegalTarget a →
        AnswersOp 0x60 c (.jmpx c 0) s (fun u => RaisesTrap s u c 0x09 a.toNat) ∧
        AnswersOp 0x61 c (.callx c 0) s fun u => RaisesTrap s u c 0x09 a.toNat)) ∧
    (∀ (a : Word) (t : List Word), x.rs = a :: t →
      (LegalTarget a → AnswersOp 0x62 c (.ret c 0) s fun u => Transfers s u c 4 { x with rs := t } (a.setWidth 24)) ∧
      (¬LegalTarget a → AnswersOp 0x62 c (.ret c 0) s fun u => RaisesTrap s u c 0x09 a.toNat)) ∧
    (∀ (w a : Word) (t : List Word), x.inh = true → x.rs = w :: a :: t → LegalTarget a →
      AnswersOp 0x63 c (.iret c 0) s fun u => Transfers s u c 5
        { x with
          rs := t, cf := w.getLsbD 0, vf := w.getLsbD 1, ie := w.getLsbD 2, inh := w.getLsbD 5, pri := w.extractLsb' 6 2 }
        (a.setWidth 24)) ∧
    (∀ (w a : Word) (t : List Word), x.rs = w :: a :: t →
      (¬LegalTarget a → AnswersOp 0x63 c (.iret c 0) s fun u => RaisesTrap s u c 0x09 a.toNat) ∧
      (LegalTarget a → x.inh = false → AnswersOp 0x63 c (.iret c 0) s fun u => RaisesTrap s u c 0x01 0))

/-- R70, R71, R73, R131 and R133: BZ branches when its cell is 0. A deterministic core goes where the branch goes; in normal mode the context
goes where the core predicts, and BRANCH_RESOLVE confirms a right prediction, or brings back the stacks, the flags and the outcome. -/
def Obligations.BranchesResolve : Prop :=
  (∀ (s : State) (c : Nat) (rel : BitVec 12) (a : Word) (t : List Word), CanIssue s c → (s.ctx c).ds = a :: t →
    let x := s.ctx c
    let q := s.core (coreOf c)
    let taken := decide (a = 0)
    let target := branchTarget x.pc rel
    (q.det = true → x.snaps = [] → Answers (.bz c rel) s fun u =>
      if taken then Transfers s u c 0 { x with ds := t } target else Retired s u c 1 { x with ds := t }) ∧
    (q.det = false → Answers (.bz c rel) s fun u => ∃ p : Bool,
      (∀ n, q.bpEn = true → tget none q.pred (x.pc.toNat / 2 % 256) = some n → p = n.getLsbD 1) ∧
      (q.bpEn = false ∨ tget none q.pred (x.pc.toNat / 2 % 256) = none → p = decide (rel.toInt < 0)) ∧
      u.ctx c = retiredCtx s c 1 (if p then target else x.pc + 2)
        { x with
          ds := t
          snaps := x.snaps ++
            [{ ds := t, rs := x.rs, dspPtr := x.dspPtr, rspPtr := x.rspPtr, cf := x.cf, vf := x.vf, lands := x.lands, bzPc := x.pc
               target := target, taken := taken, predicted := p, undo := [], due := [], cxIssue := x.cxIssue, cxTags := []
               cycles := x.cycles + 1, t0 := x.t0, t1 := x.t1, starved := false }] } ∧
      RetireFrame [] s u c q none)) ∧
  (∀ (s : State) (c : Nat) (h : Snap) (r : List Snap), (s.ctx c).snaps = h :: r →
    (h.taken = h.predicted → Answers (.branchResolve c) s fun u =>
      u.ctx c = { s.ctx c with snaps := r } ∧ (∀ d, d ≠ c → u.ctx d = s.ctx d) ∧
      (u.core (coreOf c)).dlocal = (s.core (coreOf c)).dlocal ∧ ChangesOnly [.ctxs, .cores, .mill] s u) ∧
    (h.taken ≠ h.predicted → r = [] → h.undo = [] → h.cxTags = [] → Answers (.branchResolve c) s fun u =>
      u.ctx c =
        { s.ctx c with
          ds := h.ds, rs := h.rs, dspPtr := h.dspPtr, rspPtr := h.rspPtr, cf := h.cf, vf := h.vf, lands := h.lands
          cxIssue := h.cxIssue, cycles := h.cycles, t0 := h.t0, t1 := h.t1, mid := none, ufin := none
          pc := if h.taken then h.target else h.bzPc + 2, trap := none, snaps := [] } ∧
      (∀ d, d ≠ c → u.ctx d = s.ctx d) ∧ (u.core (coreOf c)).dlocal = (s.core (coreOf c)).dlocal ∧
      ((s.core (coreOf c)).bpMiss ≠ BitVec.allOnes 32 → (u.core (coreOf c)).bpMiss = (s.core (coreOf c)).bpMiss + 1) ∧
      ChangesOnly [.ctxs, .cores] s u))

/-- R134 and R148 with R158, R159, R164 and R165: TRAP and BRK raise their causes, and TRAP_ENTRY enters the handler whose address word 0 of
the vector table holds: the return cell and the CSW cell with the cause go on the return stack, INH is set, and the trap registers are
written. -/
def Obligations.TrapsEnterHandlers : Prop :=
  (∀ (s : State) (c : Nat), CanIssue s c → NotSpeculative s c →
    (∀ n t, (s.ctx c).ds = n :: t → AnswersOp 0x64 c (.trap c 0) s fun u =>
      u.ctx c = { s.ctx c with trap := some ⟨0x0E, 0, n.setWidth 8, 1, true⟩, entered := false } ∧
      RetireFrame [] s u c (s.core (coreOf c)) none) ∧
    (AnswersOp 0x65 c (.brk c 0) s fun u =>
      u.ctx c = { s.ctx c with trap := some ⟨0x0F, 0, 0, 0, true⟩, entered := false } ∧
      RetireFrame [] s u c (s.core (coreOf c)) none)) ∧
  (∀ (s : State) (c delay : Nat) (q : TrapReq), (s.ctx c).trap = some q → NotSpeculative s c → (s.ctx c).lands = [] →
    islandRuns s (domOf (coreOf c)) = true → (s.ctx c).rs.length ≤ 14 →
    let x := s.ctx c
    let m := (s.core (coreOf c)).dlocal
    let vec := readWord m x.vecBase.toNat
    let saved := if q.after then x.pc + 2 else x.pc
    x.vecBase.toNat + 68 ≤ dlocalSize (coreOf c) → vec.toNat % 2 = 1 → vec.toNat < 2 ^ 24 →
    Answers (.trapEntry c delay false) s fun u =>
      let h : BitVec 24 := BitVec.ofNat 24 (vec.toNat - 1)
      let csw : Word := (0#16 ++ q.cause) ++ (cswOf s c).setWidth 8
      u.ctx c =
        { x with
          ds := x.ds.drop q.pops, rs := csw :: saved.setWidth 32 :: x.rs, line := none, inh := true, trap := none
          trapCause := q.cause, trapArg := q.arg, trapAddr := q.addr, trapPc := x.pc, pc := h
          brk := if q.cause = 0x0C then none else x.brk, entryCyc := (u.ctx c).entryCyc, entered := true, fbuf := true } ∧
      ((s.core (coreOf c)).det = true → (u.ctx c).entryCyc = 14) ∧
      RetireFrame [] s u c (s.core (coreOf c)) (some (trailWords c saved 6 h q.cause.toNat)))

/-- R155, R158, R159 and R163 to R165: an interrupt is entered through the word of its line: the return cell and a CSW cell with code 0x20 + n
go on the return stack, INH is set, PRI takes the line's priority, and the line's pending bit is cleared. -/
def Obligations.InterruptsEnterHandlers : Prop :=
  ∀ (s : State) (c delay n : Nat), ready s c = true → NotSpeculative s c → (s.ctx c).lands = [] → (s.ctx c).hold = none →
    (s.ctx c).rs.length ≤ 14 → (s.ctx c).long = none → (s.ctx c).entered = false →
    let x := s.ctx c
    let k := coreOf c
    let q := s.core k
    bestLine q x (c % 4) = some n →
    let vec := readWord q.dlocal (x.vecBase.toNat + 4 * (1 + n))
    x.vecBase.toNat + 68 ≤ dlocalSize k → vec.toNat % 2 = 1 → vec.toNat < 2 ^ 24 →
    Answers (.interruptEntry c 0 delay false) s fun u =>
      (u.ctx c).pc = BitVec.ofNat 24 (vec.toNat - 1) ∧
      (u.ctx c).rs = ((0#16 ++ BitVec.ofNat 8 (0x20 + n)) ++ (cswOf s c).setWidth 8 : Word) :: x.pc.setWidth 32 :: x.rs ∧
      (u.ctx c).ds = x.ds ∧ (u.ctx c).inh = true ∧ (u.ctx c).ie = x.ie ∧ (u.ctx c).pri.toNat = q.lpri.toNat / 4 ^ n % 4 ∧
      (u.ctx c).cf = x.cf ∧ (u.ctx c).vf = x.vf ∧ (u.ctx c).trapCause = BitVec.ofNat 8 (0x20 + n) ∧
      (∀ i, i < 16 → (u.core k).pend.getLsbD i = (decide (i ≠ n) && q.pend.getLsbD i)) ∧ (u.core k).dlocal = q.dlocal ∧
      (∀ d, d ≠ c → u.ctx d = s.ctx d) ∧ (∀ j, j ≠ k → u.core j = s.core j) ∧
      ChangesOnly [.ctxs, .cores, .clk, .mill, .fab, .thorn] s u

/-- R44 and R150 to R154: the new events of a line under way set its pending bit, and the overrun bit of a line already pending; INT_RAISE sets
the named lines of the context's own core at once, and S sends an event for each named line of a work core; a supervisor doorbell sends its word and
one event on line 15, and its read clears it. -/
def Obligations.LinesAndDoorbells : Prop :=
  ∀ (s : State),
    (∀ k l ch, l < 15 → k < 16 → (s.xing (k + 5)).fromD2.chans.find? (fun q => q.ev == .line k l) = some ch → 0 < ch.new →
      islandRuns s (k + 5) = true → (s.dom (k + 5)).autoGated = false → Answers (.intLineEvent k l) s fun u =>
        let q := s.core k
        (∀ i, i < 16 → (u.core k).pend.getLsbD i = (decide (i = l) || q.pend.getLsbD i)) ∧
        (∀ i, i < 16 → (u.core k).ovr.getLsbD i =
          ((decide (i = l) && (q.pend.getLsbD i || decide (2 ≤ ch.new))) || q.ovr.getLsbD i)) ∧
        u.core k = { q with pend := (u.core k).pend, ovr := (u.core k).ovr } ∧ (∀ j, j ≠ k → u.core j = s.core j) ∧
        (u.xing (k + 5)).fromD2.pending (.line k l) = ch.held ∧ ChangesOnly [.cores, .clk, .thorn] s u) ∧
    (∀ c (mask : BitVec 16), Answers (.intRaise c (coreOf c) mask) s fun u =>
        let q := s.core (coreOf c)
        (∀ i, i < 16 → (u.core (coreOf c)).pend.getLsbD i = (mask.getLsbD i || q.pend.getLsbD i)) ∧
        (∀ i, i < 16 → (u.core (coreOf c)).ovr.getLsbD i = ((mask.getLsbD i && q.pend.getLsbD i) || q.ovr.getLsbD i)) ∧
        (∀ j, j ≠ coreOf c → u.core j = s.core j) ∧ ChangesOnly [.cores, .thorn] s u) ∧
    (∀ c k (mask : BitVec 16), coreOf c = 16 → k < 16 → (s.xing 3).up = true → Answers (.intRaise c k mask) s fun u =>
        (∀ l, l < 16 → (u.xing 3).toD2.pending (.line k l) =
          (s.xing 3).toD2.pending (.line k l) + (if mask.getLsbD l then 1 else 0)) ∧
        (u.xing 3).toD2.items = (s.xing 3).toD2.items ∧ (∀ j, j ≠ 3 → u.xing j = s.xing j) ∧ ChangesOnly [.clk] s u) ∧
    (∀ k w, k < 16 →
      ((s.xing 3).up = true → queueFull s 3 true = false → Answers (.svDoorbell k w) s fun u =>
        (u.xing 3).toD2.items = (s.xing 3).toD2.items ++ [.svdb k w] ∧
        (u.xing 3).toD2.pending (.line k 15) = (s.xing 3).toD2.pending (.line k 15) + 1 ∧
        (∀ j, j ≠ 3 → u.xing j = s.xing j) ∧ ChangesOnly [.clk] s u) ∧
      (Answers (.svDbRead k) s fun u => u.rdata = (s.core k).svDb ∧ u.core k = { s.core k with svDb := 0 } ∧
        (∀ j, j ≠ k → u.core j = s.core j) ∧ ChangesOnly [.cores, .rdata] s u))

/-- R64, R67, R113, R120, R123, R189 and R196: a late result lands in the place it names; a far load retires from its line; a waiting LOCK takes
its bank when it is free; the fabric breaks a lock, and line 11 of the holder's core is raised. -/
def Obligations.CoreEventsAct : Prop :=
  ∀ (s : State) (c : Nat),
    (∀ i (l : Land), (s.ctx c).lands[i]? = some l → l.dst = .data → (s.ctx c).mid = none → (s.ctx c).snaps = [] →
      Answers (.resultLand c i) s fun u =>
      let x := s.ctx c
      let low := (x.dspPtr.toNat - x.dspBase.toNat) / 4
      u.ctx c =
        { x with
          ds := (u.ctx c).ds, vf := l.vf.getD x.vf, cf := l.cf.getD x.cf, lands := x.lands.eraseIdx i } ∧
      (u.ctx c).ds.length = x.ds.length ∧
      (∀ p v, x.ds[p]? = some v → (u.ctx c).ds[p]? = some (if low + x.ds.length = l.pos + p + 1 then l.val else v)) ∧
      (∀ d, d ≠ c → u.ctx d = s.ctx d) ∧ ChangesOnly [.ctxs] s u) ∧
    (∀ (a : Word) (size : Nat) (signed : Bool) (ws : List Word), PlainLong (s.ctx c) →
      (s.ctx c).long = some (.far a size 1 signed) → (s.ctx c).line = some { addr := wd (a.toNat / 32 * 32), ltry := false, st := .held ws } →
      accessTrap s c .load size a.toNat = none → size ∈ [1, 2, 4] →
      Answers (.farLineArrival c) s fun u =>
        let v := (nthW ws (a.toNat % 32 / 4)).toNat / 2 ^ (8 * (a.toNat % 4))
        let w : Word := if signed then (BitVec.ofNat (8 * size) v).signExtend 32 else (BitVec.ofNat (8 * size) v).setWidth 32
        u.ctx c = longDone { s.ctx c with ds := w :: (s.ctx c).ds.drop 1, line := none } ∧ (∀ d, d ≠ c → u.ctx d = s.ctx d) ∧
        ChangesOnly [.ctxs] s u) ∧
    (∀ a : Word, PlainLong (s.ctx c) → (s.ctx c).long = some (.lock a) → c ∈ s.fab.lockWait →
      s.bankHolder (a.toNat / 0x40000 % 16) = none → Answers (.lockGrant c) s fun u =>
        u.ctx c = longDone { s.ctx c with ds := (s.ctx c).ds.tail, hold := some ⟨false, a.toNat / 0x40000 % 16⟩ } ∧
        u.bankHolder (a.toNat / 0x40000 % 16) = some (.ctx c) ∧ c ∉ u.fab.lockWait ∧ (∀ d, d ≠ c → u.ctx d = s.ctx d) ∧
        ChangesOnly [.ctxs, .fab] s u) ∧
    (∀ b, s.bankHolder b = some (.ctx c) → (s.ctx c).long = none → (s.ctx c).haltDue = false → (s.ctx c).parkDue = false →
      Answers (.lockBreak b) s fun u =>
        u.bankHolder b = none ∧ (∀ i, i ≠ b → u.bankHolder i = s.bankHolder i) ∧
        u.ctx c = { s.ctx c with hold := none, brk := some ⟨false, b⟩ } ∧ (∀ d, d ≠ c → u.ctx d = s.ctx d) ∧
        QueuesLine s u (coreOf c) 11 ∧ ChangesOnly [.ctxs, .fab, .clk] s u)

/-- R57, R135, R136 and R237: IN and INX read a local register, whose value lands late outside deterministic mode; OUT and OUTX write one; a
port at or above 0x800 puts the reader into LONG, and a write to one takes a place in the store buffer. Without the port's right, or on a
supervisor port of a work core, they trap. -/
def Obligations.PortsReadAndWrite : Prop :=
  ∀ (s : State) (c : Nat), CanIssue s c → NotSpeculative s c →
    let x := s.ctx c
    let q := s.core (coreOf c)
    let mask : BitVec 16 := if coreOf c = 16 then 0xFFFC else 0x7FFC
    (∀ (p : BitVec 12) (v : Word),
      (p, v) ∈ [(0x001#12, x.acct.setWidth 32), (0x004, x.dspBase.setWidth 32), (0x005, x.dspLimit.setWidth 32),
        (0x006, x.dspPtr.setWidth 32), (0x008, x.rspBase.setWidth 32), (0x009, x.rspLimit.setWidth 32), (0x00A, x.rspPtr.setWidth 32),
        (0x010, x.cycles), (0x040, x.evPend), (0x080, x.tmrLeft)] →
      (x.ds.length ≤ 15 → Answers (.inP c p) s fun u => ∃ z, Retired s u c 1 (dueTop q.det { x with ds := z :: x.ds } v)) ∧
      (∀ a t, x.ds = a :: t → t.length ≤ 15 → a.extractLsb' 0 16 = p.setWidth 16 →
        AnswersOp 0x70 c (.inx c 0) s fun u => Retired s u c 1 (dueTop q.det x v))) ∧
    (∀ (p : BitVec 12) (w : Word) (t : List Word) (y : Ctx),
      (p, y) ∈ [(0x004#12, { x with dspBase := w.setWidth 16 &&& mask }), (0x005, { x with dspLimit := w.setWidth 16 &&& mask }),
        (0x006, { x with dspPtr := w.setWidth 16 &&& mask }), (0x008, { x with rspBase := w.setWidth 16 &&& mask }),
        (0x009, { x with rspLimit := w.setWidth 16 &&& mask }), (0x00A, { x with rspPtr := w.setWidth 16 &&& mask }),
        (0x042, { x with evPend := x.evPend &&& ~~~w })] →
      (x.ds = w :: t → Answers (.outP c p) s fun u => Retired s u c 1 { y with ds := t }) ∧
      (∀ a, x.ds = a :: w :: t → a.extractLsb' 0 16 = p.setWidth 16 →
        AnswersOp 0x71 c (.outx c 0) s fun u => Retired s u c 1 { y with ds := t })) ∧
    (q.det = false → ∀ p : BitVec 12, 0x800 ≤ p.toNat → p.toNat < 0x810 → (s.rights (coreOf c)).io.getLsbD 4 = true →
      (s.xing (domOf (coreOf c))).up = true → x.ds.length ≤ 15 →
      Answers (.inP c p) s fun u => u.ctx c = longCtx x false (.io (p.setWidth 16) 0) ∧ RetireFrame [] s u c q none) ∧
    (∀ p : BitVec 12, portGranted (s.rights (coreOf c)) p.toNat = false →
      (x.ds.length ≤ 15 → Answers (.inP c p) s fun u => RaisesTrap s u c 0x08 p.toNat) ∧
      (x.ds ≠ [] → Answers (.outP c p) s fun u => RaisesTrap s u c 0x08 p.toNat)) ∧
    (∀ (a w : Word) (t : List Word), x.ds = a :: w :: t → 0x8000 ≤ a.toNat % 2 ^ 16 → coreOf c ≠ 16 →
      AnswersOp 0x70 c (.inx c 0) s (fun u => RaisesTrap s u c 0x02 (a.toNat % 2 ^ 16)) ∧
      AnswersOp 0x71 c (.outx c 0) s fun u => RaisesTrap s u c 0x02 (a.toNat % 2 ^ 16)) ∧
    (q.det = false → q.sbuf.length < 4 → coreOf c = 16 → ∀ (a w : Word) (t : List Word), x.ds = a :: w :: t →
      0x8000 ≤ a.toNat % 2 ^ 16 → AnswersOp 0x71 c (.outx c 0) s fun u =>
        RetiredWith [] s u c 0 1 { x with ds := t } { q with sbuf := q.sbuf ++ [⟨c, .port (a.setWidth 16) w⟩] })

/-- R138 to R142 and R237: WAIT takes the pending flags of its mask at once, or waits; SEND sets a flag of its own context at once, or sends it
across; YIELD, TIMER, CSWRD and CSWWR. -/
def Obligations.ThreadInstructions : Prop :=
  ∀ (s : State) (c : Nat), CanIssue s c → NotSpeculative s c →
    let x := s.ctx c
    let q := s.core (coreOf c)
    let csw : Word := BitVec.ofNat 32 ((if x.cf then 1 else 0) + (if x.vf then 2 else 0) + (if x.ie then 4 else 0) +
      (if q.det then 8 else 0) + (if coreOf c = 16 then 16 else 0) + (if x.inh then 32 else 0) + 64 * x.pri.toNat)
    (∀ (f : BitVec 4) (a : Word) (t : List Word), x.ds = a :: t → FormOk x f x.rs →
      ((x.evPend &&& a ≠ 0 ∨ a = 0) → AnswersOp 0x72 c (.wait c f) s fun u =>
        RetiredForm s u c f 1 { x with ds := (x.evPend &&& a) :: t, evPend := x.evPend &&& ~~~(x.evPend &&& a) }) ∧
      (x.evPend &&& a = 0 → a ≠ 0 → f = 0 → AnswersOp 0x72 c (.wait c f) s fun u =>
        u.ctx c = { x with st := .wait, evWmask := a, longExit := false, cycles := x.cycles + 1, fbuf := true, entered := false } ∧
        RetireFrame [] s u c q none) ∧
      (storesVisible s c = true → f = 0 → a.toNat % 2 ^ 12 / 2 ^ 7 ≤ 16 →
        let d := 4 * (a.toNat / 2 ^ 7 % 2 ^ 5) + a.toNat / 2 ^ 5 % 4
        let i := a.toNat % 2 ^ 5
        (d = c → AnswersOp 0x73 c (.send c f) s fun u =>
          (∀ j, j < 32 → (u.ctx c).evPend.getLsbD j = (decide (j = i) || x.evPend.getLsbD j)) ∧
          (u.ctx c).ds = t ∧ (u.ctx c).pc = x.pc + 2 ∧ (∀ e, e ≠ c → u.ctx e = s.ctx e) ∧
          (x.evPend.getLsbD i = true → x.evDup ≠ BitVec.allOnes 16 → (u.ctx c).evDup = x.evDup + 1) ∧
          ChangesOnly [.ctxs, .cores, .clk, .mill, .free, .fab, .faults, .thorn] s u) ∧
        (d ≠ c → AnswersOp 0x73 c (.send c f) s fun u =>
          RetiredWith [.thorn] s u c 0 1 { x with ds := t } q ∧
          QueuesEvent s u (domOf (coreOf c)) true (.post (some c) d (BitVec.ofNat 5 i) true))) ∧
      AnswersOp 0x77 c (.cswwr c f) s fun u =>
        RetiredForm s u c f 1 { x with ds := t, cf := a.getLsbD 0, vf := a.getLsbD 1, ie := a.getLsbD 2 }) ∧
    (∀ (f : BitVec 4), FormOk x f x.rs →
      AnswersOp 0x74 c (.yield c f) s (fun u => RetiredForm s u c f 1 x) ∧
      (x.ds.length ≤ 15 → AnswersOp 0x76 c (.cswrd c f) s fun u => RetiredForm s u c f 1 { x with ds := csw :: x.ds })) ∧
    (∀ (e n : Word) (t : List Word), x.ds = e :: n :: t → (s.xing (domOf (coreOf c))).up = true →
      queueFull s (domOf (coreOf c)) true = false → AnswersOp 0x75 c (.timer c 0) s fun u =>
      Retired s u c 1 { x with ds := t } ∧
      (u.xing (domOf (coreOf c))).toD2.items = (s.xing (domOf (coreOf c))).toD2.items ++ [.timerArm c n (e.setWidth 5)])

/-- R88, R91, R143 to R146, R183 and R184 with Tables 5.9 and 5.10: a context of S writes a microword, a dispatch entry or a nanoword of a core
whose contexts are HALTED, enters or leaves deterministic mode, and halts, starts, resumes, binds or sets up another context; the status
0 (DONE) waits to stand on top. A work context traps with the privilege cause. -/
def Obligations.SupervisorInstructions : Prop :=
  (∀ (s : State) (c : Nat) (f : BitVec 4), CanIssue s c → NotSpeculative s c → coreOf c ≠ 16 →
    ∀ i ∈ [Instr.ucwr c f, .ucwrDispatch c f, .ncwr c f, .modesetEnter c f, .modesetLeave c f, .ctxctlHalt c f, .ctxctlStart c f,
      .ctxctlResume c f, .ctxctlSetAcct c f, .ctxctlSetReg c f], Answers i s fun u => RaisesTrap s u c 0x02 0) ∧
  (∀ (s : State) (c k d : Nat), CanIssue s c → NotSpeculative s c → coreOf c = 16 → k < 16 → coreOf d = k → d ≠ c →
    (s.xing 3).up = true → (s.xing (k + 5)).up = true →
    let x := s.ctx c
    let done (u : State) (n : Nat) : Prop := u.ctx c = longCtx x false (.value 0 n) ∧ (∀ j, j ≠ k → j ≠ 16 → u.core j = s.core j)
    let halted := ∀ e, coreOf e = k → (s.ctx e).st = .halted
    (∀ w t, x.ds = BitVec.ofNat 32 (0x300 + k * 2 ^ 16) :: w :: t → halted → (s.rights k).mcw = true →
      AnswersOp 0xF0 c (.ucwr c 0) s fun u => done u 2 ∧ u.core k = { s.core k with micro := (u.core k).micro } ∧
        ∀ i, tget 0 (u.core k).micro i = if i = 0x300 then w.setWidth 24 else tget 0 (s.core k).micro i) ∧
    (∀ w t, x.ds = BitVec.ofNat 32 (0x80C0 + k * 2 ^ 16) :: w :: t → w.getLsbD 22 = false → w.getLsbD 23 = false → halted →
      (s.rights k).mcw = true → AnswersOp 0xF0 c (.ucwrDispatch c 0) s fun u => done u 2 ∧
        u.core k = { s.core k with dispatch := (u.core k).dispatch } ∧
        ∀ i, tget 0 (u.core k).dispatch i = if i = 0xC0 then w.setWidth 24 else tget 0 (s.core k).dispatch i) ∧
    (∀ w0 w1 w2 t, x.ds = BitVec.ofNat 32 (0xC0 + k * 2 ^ 16) :: w2 :: w1 :: w0 :: t → w1.toNat < 2 ^ 24 → w2.toNat < 2 ^ 16 → halted →
      (s.rights k).mcw = true → AnswersOp 0xF1 c (.ncwr c 0) s fun u => done u 4 ∧ u.core k = { s.core k with nano := (u.core k).nano } ∧
        ∀ i, tget 0 (u.core k).nano i = if i = 0xC0 then w2 ++ w1 ++ w0 else tget 0 (s.core k).nano i) ∧
    (∀ t, x.ds = BitVec.ofNat 32 (k + 2 ^ 8) :: t → halted → coreOutstanding s k = false → (s.dom (k + 5)).locked = true →
      AnswersOp 0xF2 c (.modesetEnter c 0) s fun u => done u 1 ∧ u.core k = { s.core k with det := true, pred := [] }) ∧
    (∀ t, x.ds = BitVec.ofNat 32 k :: t → halted → coreOutstanding s k = false →
      AnswersOp 0xF2 c (.modesetLeave c 0) s fun u => done u 1 ∧ u.core k = { s.core k with det := false, pred := [] }) ∧
    (∀ arg t, let cmd (action : Nat) : Word := BitVec.ofNat 32 (k + 2 ^ 5 * (d % 4) + 2 ^ 8 * action)
      (x.ds = cmd 0 :: arg :: t → (s.ctx d).hold = none → (s.ctx d).long = none → (s.ctx d).snaps = [] →
        AnswersOp 0xF3 c (.ctxctlHalt c 0) s fun u => done u 2 ∧ (u.ctx d).st = .halted ∧ (u.ctx d).pc = (s.ctx d).pc ∧
          ∀ e, e ≠ c → e ≠ d → u.ctx e = s.ctx e) ∧
      (x.ds = cmd 1 :: arg :: t → (s.ctx d).st = .halted → AnswersOp 0xF3 c (.ctxctlStart c 0) s fun u => done u 2 ∧
        (u.ctx d).st = .run ∧ (u.ctx d).pc = arg.setWidth 24 ∧ ∀ e, e ≠ c → e ≠ d → u.ctx e = s.ctx e) ∧
      (x.ds = cmd 2 :: arg :: t → (s.ctx d).st = .halted → AnswersOp 0xF3 c (.ctxctlResume c 0) s fun u => done u 2 ∧
        u.ctx d = { s.ctx d with st := .run } ∧ ∀ e, e ≠ c → e ≠ d → u.ctx e = s.ctx e) ∧
      (x.ds = cmd 3 :: arg :: t → (s.ctx d).st = .halted →
        admissible (s.modCtx d fun y => { y with acct := arg.setWidth 6 }) = true → AnswersOp 0xF3 c (.ctxctlSetAcct c 0) s fun u => done u 2 ∧
        u.ctx d = { s.ctx d with acct := arg.setWidth 6 } ∧ ∀ e, e ≠ c → e ≠ d → u.ctx e = s.ctx e) ∧
      (x.ds = cmd 4 :: arg :: t → (s.ctx d).st = .halted → AnswersOp 0xF3 c (.ctxctlSetReg c 0) s fun u => done u 2 ∧
        u.ctx d = { s.ctx d with dspBase := arg.setWidth 16 &&& 0x7FFC } ∧ ∀ e, e ≠ c → e ≠ d → u.ctx e = s.ctx e)))

/-- R141, R237 to R241: EV_SET sets the flags of its word and counts those already pending; a context in WAIT with a flag of its mask completes
with the hit; EV_CLR clears; a post that arrives sets its flag; a timer that reaches zero posts its flag. -/
def Obligations.EventsReachContexts : Prop :=
  ∀ (s : State) (c : Nat),
    let x := s.ctx c
    let xg := domOf (coreOf c)
    (∀ w : Word, x.st ≠ .wait → Answers (.evSet c w) s fun u =>
      u.ctx c = { x with evPend := x.evPend ||| w, evDup := (u.ctx c).evDup } ∧
      (x.evPend &&& w = 0 → (u.ctx c).evDup = x.evDup) ∧ (∀ d, d ≠ c → u.ctx d = s.ctx d) ∧ ChangesOnly [.ctxs, .thorn] s u) ∧
    (∀ w : Word, x.st = .wait → PlainLong x → x.long = none → (x.evPend ||| w) &&& x.evWmask ≠ 0 → Answers (.evSet c w) s fun u =>
      let hit := (x.evPend ||| w) &&& x.evWmask
      u.ctx c = longDone
        { x with ds := hit :: x.ds.drop 1, evPend := (x.evPend ||| w) &&& ~~~hit, evDup := (u.ctx c).evDup } ∧
      (∀ d, d ≠ c → u.ctx d = s.ctx d) ∧ ChangesOnly [.ctxs, .thorn] s u) ∧
    (∀ w : Word, Answers (.evClr c w) s fun u => u.ctx c = { x with evPend := x.evPend &&& ~~~w } ∧
      (∀ d, d ≠ c → u.ctx d = s.ctx d) ∧ ChangesOnly [.ctxs] s u) ∧
    (∀ (flag : BitVec 5) (snd : Bool) (ch : EvChan), c < 64 → x.st ≠ .wait → islandRuns s xg = true → (s.dom xg).autoGated = false →
      (s.xing xg).fromD2.chans.find? (isPost c flag) = some ch → ch.ev = .post none c flag snd →
      Answers (.eventPostDeliver c flag) s fun u =>
        u.ctx c = { x with evPend := (u.ctx c).evPend, evDup := (u.ctx c).evDup } ∧
        (∀ i, i < 32 → (u.ctx c).evPend.getLsbD i = (decide (i = flag.toNat) || x.evPend.getLsbD i)) ∧
        (ch.new = 1 → x.evPend.getLsbD flag.toNat = false → (u.ctx c).evDup = x.evDup) ∧
        (u.xing xg).fromD2.chans = ((s.xing xg).fromD2.chans.map fun r => if r.ev = ch.ev then r.take else r) ∧
        (∀ d, d ≠ c → u.ctx d = s.ctx d) ∧ ChangesOnly [.ctxs, .clk, .thorn] s u) ∧
    (x.tmrArmed = true → x.tmrLeft = 0 → islandRuns s 2 = true → Answers (.timerExpiry c) s fun u =>
      u.ctx c = { x with tmrArmed := false, tmrLeft := 0 } ∧ QueuesEvent s u xg false (.post (some c) c x.tmrEv false) ∧
      (∀ d, d ≠ c → u.ctx d = s.ctx d) ∧ ChangesOnly [.ctxs, .clk, .thorn] s u)

/-- R243, R245, R246 and R248 to R250: a hedged group that has not fired in this hedge fires, keeps a snapshot until FIRED is cleared, and
tells its woodcutter or S; an enabling write takes effect when the group is consistent, and sets CFG_ERR otherwise; the snapshot is read word by
word. -/
def Obligations.HedgesFireAndReport : Prop :=
  ∀ (s : State) (n : Nat), n < 8 →
    let g := s.group n
    (hedged s g = true → g.settled = false → Answers (.hedgeFire n) s fun u =>
      let cut := 4 * g.wcore.toNat + g.wctx.toNat
      u.group n = { g with fired := true, fires := satInc g.fires, settled := (u.group n).settled, snap := (u.group n).snap } ∧
      (g.wood = false ∨ g.member cut = false → (u.group n).settled = true) ∧
      (g.fired = true → (u.group n).snap = g.snap) ∧
      (g.fired = false → nthW (u.group n).snap 0 =
        wd (n + (allCtxs.filter g.member).length * 2 ^ 4 + s.thorn.settle.toNat * 2 ^ 16)) ∧
      (g.wood = true → QueuesEvent s u (domOf g.wcore.toNat) false (.post none cut 31 true)) ∧
      (g.supv = true → QueuesLine s u 16 6) ∧
      (∀ m, m ≠ n → u.group m = { s.group m with settled := (u.group m).settled }) ∧ ChangesOnly [.thorn, .clk] s u) ∧
    (∀ w : Word, g.en = false → w.getLsbD 0 = true → w.toNat / 2 ^ 4 % 2 ^ 5 ≤ 16 →
      let core := w.toNat / 2 ^ 4 % 2 ^ 5
      let cut := 4 * core + w.toNat / 2 ^ 9 % 4
      let ok := (∃ c, c < 68 ∧ g.member c = true) ∧ (w.getLsbD 1 = true → g.member cut = false) ∧
        (w.getLsbD 1 = true ∨ w.getLsbD 2 = true) ∧
        ∀ m c, m < 8 → m ≠ n → c < 68 → (s.group m).en = true → g.member c = true → (s.group m).member c = false
      (ok → Answers (.hgCtlWrite n w) s fun u => (u.group n).en = true ∧ (u.group n).wood = w.getLsbD 1 ∧
        (u.group n).supv = w.getLsbD 2 ∧ (u.group n).wcore.toNat = core ∧ (u.group n).wctx.toNat = w.toNat / 2 ^ 9 % 4 ∧
        (∀ m, m ≠ n → u.group m = s.group m) ∧ ChangesOnly [.thorn] s u) ∧
      (¬ok → Answers (.hgCtlWrite n w) s fun u => (u.group n).en = false ∧ (u.group n).cfgErr = true ∧
        (u.group n).wood = g.wood ∧ (u.group n).wcore = g.wcore ∧ ChangesOnly [.thorn] s u)) ∧
    (Answers .hgSnapDataRead s fun u =>
      u.rdata = nthW (s.group s.thorn.snapSel.toNat).snap s.thorn.snapIdx.toNat ∧
      u.thorn = { s.thorn with snapIdx := s.thorn.snapIdx + 1 } ∧ ChangesOnly [.thorn, .rdata] s u)

/-- R251, R255, R256, R258, R261 and R262: the boundary of a mill turn comes when TURN_US have passed; it counts the turn, raises line 9 of S, puts
what was accepted for MILL_CTL and the floors in force, refills every account's meters less the debt that its effective guarantee can carry, ends all
parking and releases held twin requests; the mid-turn grant adds credit once in a turn, in its second half, and charges nobody. -/
def Obligations.MillTurnRefills : Prop :=
  ∀ s : State,
    let refilled (eff : Nat) (m : Int) : Int := if -m ≤ (eff : Int) then (eff : Int) + min m 0 else 0
    let due := s.mill.turnUs.toNat ≤ s.mill.turnPos
    (¬due → exec .millTurn s = .next s) ∧
    (due → s.fab.twinHold = [] → s.host.dmas = [] → Answers .millTurn s fun u =>
      u.mill.turn = s.mill.turn + 1 ∧ u.mill.turnPos = 0 ∧ u.mill.midDone = false ∧ u.mill.turnNext = none ∧
      u.mill.turnUs = (match s.mill.turnNext with | some p => p.1 | none => s.mill.turnUs) ∧ QueuesEvent s u 1 true (.line 16 9) ∧
      (∀ d, d < 21 → (u.dom d).floorMhz = (s.dom d).floorNext.getD (s.dom d).floorMhz ∧ (u.dom d).floorNext = none) ∧
      (∀ c, c < 68 → u.ctx c =
        { s.ctx c with st := if (s.ctx c).st = .parked then .run else (s.ctx c).st, parkDue := false }) ∧
      (∀ a q, s.mill.shiftNext = [] → (a, q) ∈ s.mill.accts → q = s.acct a → q.next = none →
        (u.acct a).guar = q.guar ∧ (u.acct a).eff = q.eff ∧ (u.acct a).history.length ≤ 16 ∧
        (∀ k c, k < 17 → c ∈ ctxsOf k → (s.ctx c).acct.toNat = a →
          tget 0 (u.acct a).coreMeters k = refilled q.eff.core (tget 0 q.coreMeters k)) ∧
        (u.acct a).cxMeter = refilled q.eff.cx q.cxMeter ∧ (u.acct a).dmaMeter = refilled q.eff.dma q.dmaMeter ∧
        (u.acct a).twinMeter = refilled q.eff.twin q.twinMeter) ∧
      ChangesOnly [.ctxs, .cores, .clk, .mill] s u) ∧
    (∀ x q, due → s.fab.twinHold = [x] → s.host.dmas = [] → twinAccepts s = true → s.mill.shiftNext = [] →
      ((s.ctx x.ctx).acct.toNat, q) ∈ s.mill.accts → q = s.acct (s.ctx x.ctx).acct.toNat → q.next = none →
      -q.twinMeter < (q.eff.twin : Int) → Answers .millTurn s fun u =>
        u.fab.twinHold = [] ∧ u.fab.treqs = s.fab.treqs ++ [⟨tagFor x.ctx s.fab.nextTag, x, false, none⟩] ∧
        u.mill.turn = s.mill.turn + 1) ∧
    (s.mill.midDone = false → ¬due → s.mill.turnUs.toNat ≤ 2 * s.mill.turnPos → s.fab.twinHold = [] → s.host.dmas = [] →
      Answers .midTurnGrant s fun u =>
        u.mill.midDone = true ∧ u.mill.turn = s.mill.turn ∧
        (∀ a, (u.acct a).cxMeter = (s.acct a).cxMeter ∧ (u.acct a).dmaMeter = (s.acct a).dmaMeter ∧
          (u.acct a).coreMeters = (s.acct a).coreMeters ∧ (u.acct a).twinMeter = (s.acct a).twinMeter ∧
          (s.acct a).cxSlack ≤ (u.acct a).cxSlack ∧ (s.acct a).dmaSlack ≤ (u.acct a).dmaSlack ∧
          (s.acct a).twinSlack ≤ (u.acct a).twinSlack ∧ (u.acct a).eff = (s.acct a).eff) ∧
        (∀ c, u.ctx c = s.ctx c ∨ u.ctx c = unpark (s.ctx c)) ∧ ChangesOnly [.mill, .ctxs] s u) ∧
    (s.mill.midDone = true ∨ due ∨ 2 * s.mill.turnPos < s.mill.turnUs.toNat → exec .midTurnGrant s = .next s)

/-- R54, R124, R255 to R257, R260, R261, R263, R266 and R268: an account other than ACCT_0 whose core meter on an island of a core in normal mode is
spent has its contexts there parked: at once those in RUN without a lock, the others when they leave their lock or wait; a write to a Miller register
is staged for the next boundary when the Miller admits it. -/
def Obligations.ParkingAndMillerWrites : Prop :=
  ∀ s : State,
    (∀ a k, 0 < a → a < 64 → k < 16 →
      let spent := (s.core k).det = false ∧ tget 0 (s.acct a).coreMeters k ≤ 0 ∧ tget 0 (s.acct a).coreSlack k = 0
      (spent → Answers (.meterZero a 0 (k + 5)) s fun u =>
        (∀ c, c / 4 = k → (s.ctx c).acct.toNat = a →
          ((s.ctx c).st = .run → (s.ctx c).hold = none →
            u.ctx c = { s.ctx c with st := .parked, parkDue := false } ∧ (u.acct a).parkedNow = true ∧
            ((s.dom (k + 5)).floorBad = false → 0 ∈ (u.acct a).starvedNow)) ∧
          ((s.ctx c).st = .halted ∨ (s.ctx c).st = .parked → u.ctx c = s.ctx c) ∧
          ((s.ctx c).st = .wait ∨ (s.ctx c).st = .long ∨ (s.ctx c).st = .run ∧ (s.ctx c).hold ≠ none →
            u.ctx c = { s.ctx c with parkDue := true })) ∧
        (∀ c, (c / 4 ≠ k ∨ (s.ctx c).acct.toNat ≠ a) → u.ctx c = s.ctx c) ∧
        (∀ b, b ≠ a → u.acct b = s.acct b) ∧
        u.acct a = { s.acct a with parkedNow := (u.acct a).parkedNow, starvedNow := (u.acct a).starvedNow } ∧
        ChangesOnly [.ctxs, .mill] s u) ∧
      (¬spent → exec (.meterZero a 0 (k + 5)) s = .next s)) ∧
    (∀ r d, exec (.meterZero 0 r d) s = .next s) ∧
    (∀ a r d, r ≠ 0 → exec (.meterZero a r d) s = .next s) ∧
    (∀ w : Word, let us := w.toNat % 2 ^ 14
      100 ≤ us → us ≤ 10000 →
      let t := s.modMill fun m => { m with turnNext := some (BitVec.ofNat 14 us, w.getLsbD 14) }
      (admissible t = true → exec (.millerRegisterWrite 0x8C00 w) s = .next t) ∧
      (admissible t = false → exec (.millerRegisterWrite 0x8C00 w) s = .next (s.modMill fun m => { m with admitRefused := true }))) ∧
    (∀ w : Word, exec (.millerRegisterWrite 0x8C03 w) s = .next (s.modMill fun m => { m with bindNext := some w })) ∧
    (∀ w : Word, w.getLsbD 1 = true →
      exec (.millerRegisterWrite 0x8C01 w) s = .next (s.modMill fun m => { m with admitRefused := false }))

/-- R223, R224, R229 to R231 and R233: the op that its pipe takes next starts; a completed op delivers its record to its context and its
cycles are charged; a record is taken oldest first; an op that has not started is removed by a cancel, and a started pure one will be discarded; a
lane is reserved when it is allowed. -/
def Obligations.CauldronOpsFlow : Prop :=
  ∀ (s : State),
    (∀ (o : CxOp), s.cx.ops.find? (fun p => p.tag == o.tag) = some o → islandRuns s 4 = true → pipeFree s o.pipe = true →
      (nextOp s o.pipe).map (fun p => p.tag) = some o.tag → Answers (.cxOpStart o.tag) s fun u =>
        u.cx = { s.cx with ops := s.cx.ops.map fun p => if p.tag = o.tag then { p with started := true } else p } ∧
        ChangesOnly [.cx] s u) ∧
    (∀ (o : CxOp) (waits : Nat) (late : Bool), s.cx.ops.find? (fun p => p.tag == o.tag) = some o → islandRuns s 4 = true →
      let missed := late && decide (28 ≤ o.tag)
      let status : BitVec 4 := if missed && o.status == 0 then 5 else o.status
      let charged (u : State) : Prop := (u.acct o.acct.toNat).chargedCx = (s.acct o.acct.toNat).chargedCx + o.cyc + waits
      (o.done = false → exec (.cxOpComplete o.tag waits late) s = .next s) ∧
      (o.done = true → o.cancelled = false → o.tag < 32 → (∀ p ∈ s.cx.ops, p.c = o.c → p.tag = o.tag) →
        Answers (.cxOpComplete o.tag waits late) s fun u =>
          u.cx = { s.cx with ops := s.cx.ops.filter fun p => p.tag != o.tag } ∧
          (∃ r : CxRec, u.ctx o.c = { s.ctx o.c with recs := (s.ctx o.c).recs ++ [r] } ∧ r.tag = some o.tag ∧ r.result = o.result ∧
            r.word.toNat % 2 ^ 5 = o.tag ∧ r.word.getLsbD 5 = true ∧ r.word.toNat / 2 ^ 6 % 2 ^ 4 = o.go.toNat % 2 ^ 4 ∧
            r.word.toNat / 2 ^ 10 % 2 ^ 4 = status.toNat ∧ r.word.toNat / 2 ^ 16 = o.index.toNat) ∧
          (status ≠ 0 → QueuesEvent s u 4 true (.line (coreOf o.c) 4)) ∧
          (o.even = true → QueuesEvent s u 4 true (.post none o.c o.ev false)) ∧
          (missed = true → LogsFault s u 0x0D 1) ∧ (missed = false → u.faults = s.faults) ∧ charged u ∧
          (∀ d, d ≠ o.c → u.ctx d = s.ctx d) ∧ ChangesOnly [.cx, .ctxs, .mill, .clk, .thorn, .faults] s u) ∧
      (o.done = true → o.cancelled = true → Answers (.cxOpComplete o.tag waits late) s fun u =>
        u.cx = { s.cx with ops := s.cx.ops.filter (fun p => p.tag != o.tag), discarded := satInc s.cx.discarded } ∧ charged u ∧
        ChangesOnly [.cx, .mill] s u)) ∧
    (∀ (c : Nat) (r : CxRec) (t : List CxRec), (s.ctx c).recs = r :: t → Answers (.cxTake c) s fun u =>
      u.rdata = r.word ∧ u.ctx c = { s.ctx c with recs := t, cxResult := r.result } ∧ (∀ d, d ≠ c → u.ctx d = s.ctx d) ∧
      ChangesOnly [.ctxs, .rdata] s u) ∧
    (∀ c, (s.ctx c).recs = [] → Answers (.cxTake c) s fun u => u.rdata = 0 ∧ ChangesOnly [.rdata] s u) ∧
    (∀ (c : Nat) (tag : BitVec 5) (o : CxOp), s.cx.ops.find? (fun p => p.tag == tag.toNat) = some o → o.c = c → o.cancelled = false →
      (o.started = false → Answers (.cxCancel c tag) s fun u =>
        u.cx = { s.cx with ops := s.cx.ops.filter (fun p => p.tag != tag.toNat), removed := satInc s.cx.removed } ∧
        ChangesOnly [.cx] s u) ∧
      (o.started = true → o.go.toNat % 2 ^ 4 ∈ [2, 4, 5] → Answers (.cxCancel c tag) s fun u =>
        u.cx = { s.cx with ops := s.cx.ops.map fun p => if p.tag = tag.toNat then { p with cancelled := true } else p } ∧
        ChangesOnly [.cx] s u) ∧
      (o.started = true → o.go.toNat % 2 ^ 4 ∈ [1, 3, 6, 7, 8] → exec (.cxCancel c tag) s = .next s)) ∧
    (∀ (w : Word), w.getLsbD 8 = true →
      let k := w.toNat % 2 ^ 4
      let ok := (s.dom 4).locked = true ∧ (s.dom (k + 5)).locked = true ∧ (s.dom 2).locked = true ∧
        (s.dom 4).lockMhz = (s.dom (k + 5)).lockMhz ∧ (s.dom 4).lockMhz.toNat ≤ (s.dom 2).lockMhz.toNat ∧
        ∀ o ∈ s.cx.ops, namesAcc o.code = true → o.accIx ≠ 6
      (ok → Answers (.cxLaneWrite 0 w) s fun u => u.cx.lane0 = ⟨BitVec.ofNat 4 k, true⟩ ∧ u.cx.lane1 = s.cx.lane1 ∧
        u.acc 6 = {} ∧ (∀ i, i ≠ 6 → u.acc i = s.acc i) ∧ ChangesOnly [.cx] s u) ∧
      (¬ok → Answers (.cxLaneWrite 0 w) s fun u => u.cx = { s.cx with laneRefused := true } ∧ ChangesOnly [.cx] s u))

/-- R216, R217, R226 and R228 with Tables 9.1 and 9.3: the ops without operand blocks in shared SRAM. NORM shifts an accumulator right, ACCCLR clears
it, ACCRD stores its 48-bit components and returns them shifted and saturated (its general form waits for a bank that is held, R120), and PHASE
returns the rounded magnitude and, on the axes, the angle. -/
def Obligations.CauldronScalarOps : Prop :=
  ∀ (s : State) (o : CxOp) (code : Nat),
    islandRuns s 4 = true → s.cx.ops.find? (fun p => p.tag == o.tag && p.code == code && p.started && !p.done) = some o →
    let ai := o.go.toNat / 2 ^ 4 % 2 ^ 3
    let sh := o.go.toNat / 2 ^ 16 % 2 ^ 5
    let a := s.acc ai
    let ends (u : State) (status : BitVec 4) (cyc : Nat) (res : Word) : Prop :=
      u.cx.ops = s.cx.ops.map fun p =>
        if p.tag = o.tag then
          { p with
            done := true, status := status, index := 0, result := res, cyc := cyc
            gw := decide (code ∈ [6, 7, 8]) && (u.acc ai).gw, ovg := decide (code ∈ [6, 7, 8]) && (u.acc ai).ovg }
        else p
    let sat (i : Int) : Int := if i < -32768 then -32768 else if 32767 < i then 32767 else i
    (code = 6 → a.frozen = false → Answers (.norm o.tag) s fun u => (∃ r, ends u 0 4 r) ∧
      u.acc ai = { a with re := a.re.sshiftRight sh, im := a.im.sshiftRight sh, gw := false } ∧
      (∀ i, i ≠ ai → u.acc i = s.acc i) ∧ ChangesOnly [.cx, .free] s u) ∧
    (code = 8 → Answers (.accclr o.tag) s fun u => (∃ r, ends u 0 2 r) ∧ u.acc ai = {} ∧ (∀ i, i ≠ ai → u.acc i = s.acc i) ∧
      ChangesOnly [.cx, .free] s u) ∧
    (code = 7 → o.arg0.toNat % 4 = 0 → 0x10000000 ≤ o.arg0.toNat → o.arg0.toNat + 16 ≤ 0x10400000 →
      (∃ b ∈ o.banks, (s.bankHolder b).isSome = true) → o.tag < 28 → exec (.accrd o.tag) s = .next s) ∧
    (code = 7 → o.arg0.toNat % 4 = 0 → 0x10000000 ≤ o.arg0.toNat → o.arg0.toNat + 16 ≤ 0x10400000 → (∀ b ∈ o.banks, s.bankHolder b = none) →
      Answers (.accrd o.tag) s fun u =>
        ends u 0 8 (BitVec.ofInt 16 (sat (a.im.toInt / 2 ^ sh)) ++ BitVec.ofInt 16 (sat (a.re.toInt / 2 ^ sh))) ∧
        readWord u.fab.sram o.arg0.toNat = a.re.setWidth 32 ∧
        readWord u.fab.sram (o.arg0.toNat + 4) = (a.re.sshiftRight 32).setWidth 32 ∧
        readWord u.fab.sram (o.arg0.toNat + 8) = a.im.setWidth 32 ∧
        readWord u.fab.sram (o.arg0.toNat + 12) = (a.im.sshiftRight 32).setWidth 32 ∧
        (∀ b, b < o.arg0.toNat ∨ o.arg0.toNat + 16 ≤ b → readByte u.fab.sram b = readByte s.fab.sram b) ∧
        (∀ i, u.acc i = s.acc i) ∧ ChangesOnly [.cx, .fab] s u) ∧
    (code = 5 → Answers (.phase o.tag) s fun u => ∃ r : Word, ends u 0 20 r ∧ ChangesOnly [.cx] s u ∧
      let re := (o.arg0.extractLsb' 0 16).toInt
      let im := (o.arg0.extractLsb' 16 16).toInt
      let m : Int := ((r.toNat / 2 ^ 16 : Nat) : Int)
      (o.arg0 = 0 → r = 0) ∧ 4 * (re * re + im * im) < (2 * m + 1) * (2 * m + 1) ∧
      (0 < m → (2 * m - 1) * (2 * m - 1) ≤ 4 * (re * re + im * im)) ∧
      (im = 0 → 0 < re → r.toNat % 2 ^ 16 = 0) ∧ (re = 0 → 0 < im → r.toNat % 2 ^ 16 = 16384) ∧
      (im = 0 → re < 0 → r.toNat % 2 ^ 16 = 32768) ∧ (re = 0 → im < 0 → r.toNat % 2 ^ 16 = 49152))

/-- R216, R217, R226 and R227 with Table 9.1: the ops over blocks of complex words, where no word is uncorrectable and no bank is held. CMAC adds the
shifted products to its accumulator, CORR finds the peak lag, FIR stores the filtered and saturated outputs and counts the saturated components, and
MAG sums the squared magnitudes. -/
def Obligations.CauldronBlockOps : Prop :=
  ∀ (s : State) (o : CxOp) (code : Nat),
    islandRuns s 4 = true → s.cx.ops.find? (fun p => p.tag == o.tag && p.code == code && p.started && !p.done) = some o → s.fab.ecc = [] →
    (∀ b ∈ o.banks, s.bankHolder b = none) →
    let sh := o.go.toNat / 2 ^ 16 % 2 ^ 5
    let re (b : Word) (i : Nat) : Int := ((readWord s.fab.sram (b.toNat + 4 * i)).extractLsb' 0 16).toInt
    let im (b : Word) (i : Nat) : Int := ((readWord s.fab.sram (b.toNat + 4 * i)).extractLsb' 16 16).toInt
    let inSram (b : Word) (n : Nat) : Prop := b.toNat % 4 = 0 ∧ 0x10000000 ≤ b.toNat ∧ b.toNat + 4 * n ≤ 0x10400000
    let sum (n : Nat) (f : Nat → Int) : Int := ((List.range n).map f).sum
    let ends (u : State) (index : Nat) (cyc : Nat) (res : Word) : Prop :=
      u.cx.ops = s.cx.ops.map fun p =>
        if p.tag = o.tag then
          { p with
            done := true, status := 0, index := BitVec.ofNat 16 index, result := res, cyc := cyc
            gw := code == 1 && (u.acc o.accIx).gw, ovg := code == 1 && (u.acc o.accIx).ovg }
        else p
    (code = 1 →
      let n := o.arg2.toNat % 2 ^ 16
      let k := o.arg2.toNat / 2 ^ 16
      let a := s.acc (o.go.toNat / 2 ^ 4 % 2 ^ 3)
      let cj : Int := if o.go.getLsbD 15 then -1 else 1
      let tr (i : Nat) : Int := (re o.arg0 (k + i) * re o.arg1 (k + i) - cj * im o.arg0 (k + i) * im o.arg1 (k + i)) / 2 ^ sh
      let ti (i : Nat) : Int := (cj * re o.arg0 (k + i) * im o.arg1 (k + i) + im o.arg0 (k + i) * re o.arg1 (k + i)) / 2 ^ sh
      let fits48 (v : Int) : Prop := -(2 ^ 47) ≤ v ∧ v < 2 ^ 47
      k < n → a.frozen = false → inSram o.arg0 n → inSram o.arg1 n →
      (∀ j, j ≤ n - k → fits48 (a.re.toInt + sum j tr) ∧ fits48 (a.im.toInt + sum j ti)) →
      Answers (.cmac o.tag []) s fun u => (∃ r, ends u n (8 + (n - k)) r) ∧
        (u.acc (o.go.toNat / 2 ^ 4 % 2 ^ 3)).re.toInt = a.re.toInt + sum (n - k) tr ∧
        (u.acc (o.go.toNat / 2 ^ 4 % 2 ^ 3)).im.toInt = a.im.toInt + sum (n - k) ti ∧
        (∀ i, i ≠ o.go.toNat / 2 ^ 4 % 2 ^ 3 → u.acc i = s.acc i) ∧ ChangesOnly [.cx, .free] s u) ∧
    (code = 2 →
      let n := o.arg2.toNat % 2 ^ 16
      let l := o.arg2.toNat / 2 ^ 16 % 2 ^ 7
      let cr (p : Nat) : Int := sum l fun i => re o.arg0 (p + i) * re o.arg1 i + im o.arg0 (p + i) * im o.arg1 i
      let ci (p : Nat) : Int := sum l fun i => im o.arg0 (p + i) * re o.arg1 i - re o.arg0 (p + i) * im o.arg1 i
      let pw (p : Nat) : Int := cr p * cr p + ci p * ci p
      0 < n → 0 < l → l ≤ 64 → inSram o.arg0 (n + l - 1) → inSram o.arg1 l →
      Answers (.corr o.tag []) s fun u => ∃ p, p < n ∧
        ends u p (8 + l + n * ((l + 3) / 4)) (BitVec.ofInt 32 (min (pw p / 2 ^ sh) 0xFFFFFFFF)) ∧
        (∀ q, q < n → pw q ≤ pw p) ∧ (∀ q, q < p → pw q < pw p) ∧ ChangesOnly [.cx] s u) ∧
    (code = 3 →
      let n := o.arg3.toNat % 2 ^ 16
      let t := o.arg3.toNat / 2 ^ 16 % 2 ^ 7
      let yr (i : Nat) : Int :=
        (sum t fun j => re o.arg0 (i + j) * re o.arg1 j - im o.arg0 (i + j) * im o.arg1 j) / 2 ^ sh
      let yi (i : Nat) : Int :=
        (sum t fun j => re o.arg0 (i + j) * im o.arg1 j + im o.arg0 (i + j) * re o.arg1 j) / 2 ^ sh
      let sat (i : Int) : Int := if i < -32768 then -32768 else if 32767 < i then 32767 else i
      let clipped (i : Int) : Int := if sat i = i then 0 else 1
      0 < n → 0 < t → t ≤ 64 → inSram o.arg0 (n + t - 1) → inSram o.arg1 t → inSram o.arg2 n →
      (o.arg2.toNat + 4 * n ≤ o.arg0.toNat ∨ o.arg0.toNat + 4 * (n + t - 1) ≤ o.arg2.toNat) →
      Answers (.fir o.tag []) s fun u =>
        ends u 0 (8 + t + n * ((t + 3) / 4)) (BitVec.ofInt 32 (sum n fun i => clipped (yr i) + clipped (yi i))) ∧
        (∀ i, i < n → readWord u.fab.sram (o.arg2.toNat + 4 * i) = BitVec.ofInt 16 (sat (yi i)) ++ BitVec.ofInt 16 (sat (yr i))) ∧
        (∀ b, b < o.arg2.toNat ∨ o.arg2.toNat + 4 * n ≤ b → readByte u.fab.sram b = readByte s.fab.sram b) ∧
        ChangesOnly [.cx, .fab] s u) ∧
    (code = 4 →
      let n := o.arg2.toNat % 2 ^ 16
      0 < n → inSram o.arg0 n →
      Answers (.mag o.tag []) s fun u =>
        ends u 0 (8 + n)
          (BitVec.ofInt 32 (min ((sum n fun i => re o.arg0 i * re o.arg0 i + im o.arg0 i * im o.arg0 i) / 2 ^ sh) 0xFFFFFFFF)) ∧
        ChangesOnly [.cx] s u)

/-- R26, R27, R40 to R48, R141, R153, R154 and R471: a crossing delivers the oldest value of a queue, or the new events of one channel, to a receiver
whose clock runs; from D_2 they go on across the crossing of their target; it comes up empty when both clocks run; a pointer error takes it down,
discards and counts what it holds, and is logged. -/
def Obligations.CrossingsCarryItems : Prop :=
  ∀ (s : State) (x : Nat),
    let q := s.xing x
    let others (u : State) : Prop := ∀ y, y ≠ x → u.xing y = s.xing y
    let taken (ch : EvChan) (d : XDir) : XDir := { d with chans := d.chans.map fun r => if r.ev = ch.ev then r.take else r }
    (∀ c n ev rest, q.toD2.items = .timerArm c n ev :: rest → islandRuns s 2 = true → Answers (.xingDeliver x true none) s fun u =>
      u.xing x = { q with toD2 := { q.toD2 with items := rest } } ∧
      u.ctx c = { s.ctx c with tmrLeft := n, tmrArmed := decide (n ≠ 0), tmrEv := ev } ∧
      (∀ d, d ≠ c → u.ctx d = s.ctx d) ∧ others u ∧ ChangesOnly [.ctxs, .clk] s u) ∧
    (∀ k w rest, q.toD2.items = .svdb k w :: rest → islandRuns s 2 = true → domOf k ≠ x →
      (queueFull s (domOf k) false = true → exec (.xingDeliver x true none) s = .next s) ∧
      (queueFull s (domOf k) false = false → (s.xing (domOf k)).up = true → Answers (.xingDeliver x true none) s fun u =>
        u.xing x = { q with toD2 := { q.toD2 with items := rest } } ∧
        (u.xing (domOf k)).fromD2.items = (s.xing (domOf k)).fromD2.items ++ [.svdb k w] ∧ ChangesOnly [.clk] s u)) ∧
    (∀ k w rest, q.fromD2.items = .svdb k w :: rest → islandRuns s x = true → (s.dom x).autoGated = false →
      Answers (.xingDeliver x false none) s fun u =>
        u.xing x = { q with fromD2 := { q.fromD2 with items := rest } } ∧ u.core k = { s.core k with svDb := w } ∧
        (∀ j, j ≠ k → u.core j = s.core j) ∧ others u ∧ ChangesOnly [.cores, .clk] s u) ∧
    (∀ i ch, q.toD2.chans[i]? = some ch → ch.new ≠ 0 → islandRuns s (if x = 0 then 1 else 2) = true →
      let y := if x = 0 then 1 else match ch.ev with | .line k _ => domOf k | .post _ c _ _ => domOf (coreOf c)
      let way := decide (x = 0)
      y ≠ x → (s.xing y).up = true → Answers (.xingDeliver x true (some i)) s fun u =>
        u.xing x = { q with toD2 := taken ch q.toD2 } ∧
        ((u.xing y).dir way).pending ch.ev = ((s.xing y).dir way).pending ch.ev + ch.new ∧ ChangesOnly [.clk, .thorn] s u) ∧
    (∀ i ch k l, q.fromD2.chans[i]? = some ch → ch.ev = .line k l → ch.new ≠ 0 → l < 16 →
      (k ≠ 16 → (s.dom x).autoGated = false → islandRuns s x = true → Answers (.xingDeliver x false (some i)) s fun u =>
        (l ≠ 15 → u.xing x = { q with fromD2 := taken ch q.fromD2 } ∧ others u) ∧
        (u.core k).pend.getLsbD l = true ∧
        ((s.core k).pend.getLsbD l = true ∨ 2 ≤ ch.new → (u.core k).ovr.getLsbD l = true) ∧
        (∀ j, j ≠ k → u.core j = s.core j) ∧ ChangesOnly [.cores, .clk, .thorn] s u) ∧
      (k = 16 → x = 3 → (s.dom 3).inRst = false → Answers (.xingDeliver 3 false (some i)) s fun u =>
        (u.dom 3).state = .run ∧ (u.core 16).pend.getLsbD l = true)) ∧
    ((s.xing x).toD2.items = [] → exec (.xingDeliver x true none) s = .next s) ∧
    (q.up = false → x ≠ 2 → x ≤ 24 → clockRuns s (if x = 0 then 1 else 2) = true → clockRuns s x = true →
      (x = 21 → canSend (s.setXing 21 { up := true }) = false) → Answers (.xingResync x) s fun u =>
        u.xing x = { up := true, toD2 := {}, fromD2 := {} } ∧ others u ∧
        (x = 3 → s.clk.x3Err = true → u.clk.x3Err = false ∧ u.clk.x3Timer = some 0) ∧ ChangesOnly [.clk] s u) ∧
    (q.up = true → exec (.xingResync x) s = .next s) ∧
    (q.up = true → x ∈ [0, 1, 23, 24] → Answers (.xingPointerError x) s fun u =>
      u.xing x = { up := false, toD2 := {}, fromD2 := {} } ∧ LogsFault s u 0x03 1 ∧
      u.clk.itemsDisc = satAdd s.clk.itemsDisc (q.toD2.counts.1 + q.fromD2.counts.1) ∧
      (s.faults.frozen = false → ∃ e, e ∈ u.faults.log ∧ fld (nthW e.ws 0) 15 0 = (s.faults.seq + 1).toNat ∧ fld (nthW e.ws 2) 12 8 = x) ∧
      ChangesOnly [.clk, .faults] s u)

/-- R14, R25, R35 to R37, R39 and Table 2.5: a write of ISL_CTL_d takes its fields; a stopped island keeps what its crossing holds and clears
LOCKED; a lock that a deterministic core or an enabled lane depends on cannot be changed; D_21 to D_24 have no such register. -/
def Obligations.IslandControlWrites : Prop :=
  ∀ (s : State) (d : Nat) (w : Word),
    let m := s.dom d
    let lock := w.getLsbD 6
    let mhz := w.toNat / 2 ^ 7 % 2 ^ 9
    let floor := w.toNat / 2 ^ 16 % 2 ^ 9
    let req := w.toNat / 2 ^ 26 % 4
    (d < 2 ∨ 20 < d → exec (.islCtlWrite d w) s = .next s) ∧
    (m.floorNext = none → 2 ≤ d → d ≤ 20 → s.clk.calDefaults = false → lockFrozen s d = false → carriesGuarantee s d = false → 25 ≤ mhz → mhz ≤ 400 →
      floor = m.floorMhz.toNat → m.state = .run → req = 0 → Answers (.islCtlWrite d w) s fun u =>
        (u.dom d).codeCap = w.setWidth 6 ∧ (u.dom d).refLock = lock ∧ (u.dom d).lockMhz.toNat = mhz ∧
        (u.dom d).floorMhz = m.floorMhz ∧ (u.dom d).floorNext = none ∧ (u.dom d).stateReq = .run ∧ (u.dom d).state = .run ∧ (u.dom d).code = m.code ∧
        (lock = true → (m.refLock = false ∨ m.lockMhz.toNat ≠ mhz) → (u.dom d).locked = false) ∧
        (lock = m.refLock → m.lockMhz.toNat = mhz → (u.dom d).locked = m.locked) ∧
        (∀ e, e ≠ d → u.dom e = s.dom e) ∧ (∀ x, u.xing x = s.xing x) ∧ ChangesOnly [.clk] s u) ∧
    (m.floorNext = none → 4 ≤ d → d ≤ 20 → s.clk.calDefaults = false → lock = m.refLock → mhz = m.lockMhz.toNat → 25 ≤ mhz → mhz ≤ 400 →
      floor = m.floorMhz.toNat → carriesGuarantee s d = false → m.state = .run → req = 2 → Answers (.islCtlWrite d w) s fun u =>
        (u.dom d).state = .stopped ∧ (u.dom d).stateReq = .stopped ∧ (u.dom d).clockOn = false ∧
        (m.refLock = true → (u.dom d).locked = false) ∧ (∀ e, e ≠ d → u.dom e = s.dom e) ∧ (∀ x, u.xing x = s.xing x) ∧
        ChangesOnly [.clk] s u) ∧
    (m.floorNext = none → 2 ≤ d → d ≤ 20 → s.clk.calDefaults = false → lockFrozen s d = true → lock ≠ m.refLock → 25 ≤ mhz → mhz ≤ 400 →
      floor = m.floorMhz.toNat → m.state = .run → req = 0 → m.refLock = true → carriesGuarantee s d = false →
      Answers (.islCtlWrite d w) s fun u =>
        u.clk.cfgRefused = true ∧ (u.dom d).refLock = m.refLock ∧ (u.dom d).lockMhz = m.lockMhz ∧ (u.dom d).locked = m.locked ∧
        ChangesOnly [.clk] s u)

/-- R28 to R32 and R34: a policy tick samples the sensors with the page's offsets and measures every running island; afterwards no running
island outside reference lock stands below its safe code; ticks are suspended while the utility PLL is unlocked. -/
def Obligations.PolicyTickKeepsSafeCodes : Prop :=
  ∀ (s : State) (t : TickIn),
    (s.clk.policyOn = false ∨ s.clk.pllLocked = false → exec (.policyTick t) s = .next s) ∧
    (s.clk.policyOn = true → s.clk.pllLocked = true → Answers (.policyTick t) s fun u =>
      (∀ n, n < 8 → tget 0 u.clk.temps n =
        t.temps.getD n 0 + (if s.clk.calDefaults then 0 else BitVec.ofInt 16 (calHalf s (0xF00 + 2 * n)))) ∧
      (∀ d, 2 ≤ d → d ≤ 20 → (s.dom d).state = .run → t.khz.getD (d - 2) 0 < 512000 →
        (u.dom d).freqMhz.toNat = t.khz.getD (d - 2) 0 / 1000) ∧
      (∀ d, 2 ≤ d → d ≤ 20 → (u.dom d).state = .run → (u.dom d).refLock = false → u.clk.calDefaults = false →
        safeCode u d ≤ (u.dom d).code.toNat) ∧
      (∀ d, (u.dom d).state = (s.dom d).state ∧ (u.dom d).floorMhz = (s.dom d).floorMhz) ∧ u.ctxs = s.ctxs ∧ u.fab = s.fab ∧
      u.host = s.host ∧ u.pending = s.pending)

/-- R25 to R27, R34, R35, R70, R73 and R76: an idle island is gated and wakes; D_2 follows the others; the lock loop sets LOCKED after four good
windows and clears it on a bad one; the utility PLL's loss drops every lock; BP_FLUSH empties the predictor. -/
def Obligations.RunStatesAndLocks : Prop :=
  ∀ (s : State) (d : Nat),
    let m := s.dom d
    (m.state = .run → m.stateReq = .run → (d = 4 ∧ s.cx.ops = [] ∨ 5 ≤ d ∧ d ≤ 20 ∧ coreIdle s (d - 5) = true) →
      Answers (.islandAutoGate d) s fun u => u.dom d = { m with state := .gated, clockOn := false, autoGated := true } ∧
        (∀ e, e ≠ d → u.dom e = s.dom e) ∧ ChangesOnly [.clk] s u) ∧
    (3 ≤ d → d ≤ 20 → m.state = .gated → m.stateReq = .run → (5 ≤ d → (s.core (d - 5)).storesValid = true) →
      Answers (.islandWake d) s fun u =>
      (u.dom d).state = .run ∧ (u.dom d).clockOn = true ∧ (u.dom d).autoGated = false ∧ (u.dom d).code = m.code ∧
      (u.dom d).locked = m.locked ∧ (∀ e, e ≠ d → u.dom e = s.dom e) ∧ ChangesOnly [.clk] s u) ∧
    ((s.dom 2).state = .stopped → othersStopped s = false → Answers .fabricIslandState s fun u =>
      (u.dom 2).state = .run ∧ (u.dom 2).clockOn = true ∧ (∀ e, e ≠ 2 → u.dom e = s.dom e) ∧ ChangesOnly [.clk] s u) ∧
    ((s.dom 2).state = .run → (s.dom 2).stateReq = .stopped → othersStopped s = true → Answers .fabricIslandState s fun u =>
      (u.dom 2).state = .stopped ∧ (u.dom 2).clockOn = false ∧ (∀ e, e ≠ 2 → u.dom e = s.dom e) ∧ ChangesOnly [.clk] s u) ∧
    (∀ e : Int, 2 ≤ d → d ≤ 20 → m.refLock = true → s.clk.pllLocked = true → m.state = .run → Answers (.lockLoopWindow d e) s fun u =>
      (e.natAbs ≤ 1000 → m.goodWins = 3 → (u.dom d).locked = true) ∧
      (e.natAbs ≤ 1000 → m.goodWins < 3 → (u.dom d).goodWins = m.goodWins + 1 ∧ (u.dom d).locked = m.locked) ∧
      (1000 < e.natAbs → (u.dom d).goodWins = 0) ∧
      (5000 < e.natAbs → m.locked = true → (u.dom d).locked = false ∧ (u.dom d).lockLost = true) ∧
      (∀ i, i ≠ d → u.dom i = s.dom i) ∧ ChangesOnly [.clk, .free] s u) ∧
    (s.clk.pllLocked = true → Answers .utilityPllUnlock s fun u =>
      u.clk.pllLocked = false ∧ u.clk.refUnlock = true ∧
      (∀ i, 2 ≤ i → i ≤ 20 → (s.dom i).locked = true →
        u.dom i = { s.dom i with locked := false, lockLost := true, goodWins := 0 }) ∧
      (∀ i, (s.dom i).locked = false → u.dom i = s.dom i) ∧ ChangesOnly [.clk] s u) ∧
    (Answers .utilityPllRelock s fun u => u.clk = { s.clk with pllLocked := true } ∧ ChangesOnly [.clk] s u) ∧
    (∀ k, Answers (.coreCtlBpFlush k) s fun u => u.core k = { s.core k with pred := [] } ∧ (∀ j, j ≠ k → u.core j = s.core j) ∧
      ChangesOnly [.cores] s u)

/-- R54, R91, R92, R169, R173 to R175, R178, R179, R185 and Tables 7.4 to 7.8: a user opcode whose one microword ends it retires with the ALU's result
in place of the top two cells, and one that goes on stands before its next microword with a working copy; an opcode above 0xEF outside S, a nonzero
field [11:9], an opcode that no chapter allocates and a user opcode without a valid entry trap; a parity error in its stores is core-fatal. -/
def Obligations.UserOpsRun : Prop :=
  ∀ (s : State) (c : Nat) (op : BitVec 8) (f : BitVec 4), CanIssue s c → NotSpeculative s c →
    let x := s.ctx c
    let q := s.core (coreOf c)
    let e := dispatchAt q op.toNat
    let here := op.toNat < 0xF0 ∨ coreOf c = 16
    (∀ (ua nn : Nat) (a b : Word) (t : List Word), userOpcode op.toNat = true → f.toNat < 2 →
      ua < 0x400 → nn < 0x100 → (0x300 ≤ ua → 0xC0 ≤ nn) →
      entryValid e = true → fld e 9 0 = ua → fld e 14 12 = 2 → fld e 17 15 = 0 → fld e 19 18 = 0 → fld e 21 20 = 0 →
      x.ds = b :: a :: t → t.length ≤ 14 → FormOk x f x.rs →
      let nano (alu : Nat) : Prop := nanoAt q nn = BitVec.ofNat 96 (6 + alu * 2 ^ 6 + 1 * 2 ^ 11 + 0 * 2 ^ 15 + 1 * 2 ^ 19)
      let runs (alu : Nat) (r : Word) : Prop := nano alu →
        (microAt q ua = BitVec.ofNat 24 (5 * 2 ^ 21 + nn) → Answers (.userOp c op f false 0) s fun u =>
          RetiredForm s u c f 1 { x with ds := r :: t, ufin := none }) ∧
        (microAt q ua = BitVec.ofNat 24 nn → ua < 0x3FF → Answers (.userOp c op f false 1) s fun u =>
          (∃ w : UWork, u.ctx c = { retiredCtx s c 1 x.pc x with mid := some (.user op f w) } ∧ w.ds = r :: t ∧ w.rs = x.rs ∧ w.upc.toNat = ua + 1) ∧
          RetireFrame [] s u c q none)
      runs 2 (a + b) ∧ runs 3 (a - b) ∧ runs 6 (a &&& b) ∧ runs 7 (a ||| b) ∧ runs 8 (a ^^^ b)) ∧
    (∀ stop, 0xF0 ≤ op.toNat → coreOf c ≠ 16 → Answers (.userOp c op f false stop) s fun u => RaisesTrap s u c 0x02 0) ∧
    (∀ stop, here → 2 ≤ f.toNat → Answers (.userOp c op f false stop) s fun u => RaisesTrap s u c 0x01 0) ∧
    (∀ stop, here → f.toNat < 2 → allocated op.toNat = false → userOpcode op.toNat = false ∨ entryValid e = false →
      Answers (.userOp c op f false stop) s fun u => RaisesTrap s u c 0x01 0) ∧
    (∀ stop, coreOf c < 16 → op.toNat < 0xF0 → f.toNat < 2 → s.faults.frozen = false → Answers (.userOp c op f true stop) s fun u =>
      (u.ctx c).st = .halted ∧ (u.dom (coreOf c + 5)).state = .off ∧ u.faults.frozen = true)

/-- R120, R191 to R193, R211 and Table 8.5: a patrol read waits for a held bank; it visits the next word of its bank, repairs a single error without a
report and logs an uncorrectable one; a push appends to a mailbox with a line event, or counts in LOST when eight words wait; a pop takes the oldest
word of the context's own core. -/
def Obligations.ScrubAndMailboxes : Prop :=
  ∀ s : State,
    (∀ b u, s.bankHolder b ≠ none → exec (.scrubRead b u) s = .next s) ∧
    (∀ b, b < 16 → s.fab.scrubEn = true → s.bankHolder b = none →
      let i := tget 0 s.fab.scrubAt b
      let a := 0x10000000 + b * 0x40000 + 4 * i
      tget none s.fab.ecc a = none →
      let moved := { s.fab with scrubAt := tput b ((i + 1) % 0x10000) s.fab.scrubAt }
      exec (.scrubRead b .none) s = .next { s with fab := moved } ∧
      (Answers (.scrubRead b .single) s fun u =>
        u.fab = { moved with corr := satInc s.fab.corr, ecc := u.fab.ecc } ∧
        (∀ j, tget none u.fab.ecc j = tget none s.fab.ecc j) ∧ ChangesOnly [.fab] s u) ∧
      (Answers (.scrubRead b .double) s fun u =>
        u.fab = { moved with uncorr := satInc s.fab.uncorr, ecc := u.fab.ecc } ∧ LogsFault s u 0x02 1 ∧ QueuesLine s u 16 8 ∧
        (∀ j, tget none u.fab.ecc j = if j = a then some (.bad (some u.faults.seq)) else tget none s.fab.ecc j) ∧
        ChangesOnly [.fab, .clk, .faults] s u)) ∧
    (∀ b u, s.fab.scrubEn = false → exec (.scrubRead b u) s = .next s) ∧
    (∀ c k m w, k < 16 → m < 4 → storesVisible s c = true →
      let b := s.mbox (4 * k + m)
      (b.ws.length < 8 → Answers (.mbPush c k m w) s fun u =>
        u.mbox (4 * k + m) = { b with ws := b.ws ++ [w] } ∧ QueuesLine s u k m ∧
        (∀ i, i ≠ 4 * k + m → u.mbox i = s.mbox i) ∧ u.fab = { s.fab with mboxes := u.fab.mboxes } ∧ ChangesOnly [.fab, .clk] s u) ∧
      (8 ≤ b.ws.length → Answers (.mbPush c k m w) s fun u =>
        u.mbox (4 * k + m) = { b with lost := satInc b.lost } ∧ (∀ i, i ≠ 4 * k + m → u.mbox i = s.mbox i) ∧
        u.fab = { s.fab with mboxes := u.fab.mboxes } ∧ ChangesOnly [.fab] s u)) ∧
    (∀ c m, let k := coreOf c
      let b := s.mbox (4 * k + m)
      Answers (.mbPop c k m) s fun u => u.rdata = b.ws.headD 0 ∧ u.mbox (4 * k + m) = { b with ws := b.ws.tail } ∧
        (∀ i, i ≠ 4 * k + m → u.mbox i = s.mbox i) ∧ u.fab = { s.fab with mboxes := u.fab.mboxes } ∧ ChangesOnly [.fab, .rdata] s u) ∧
    (∀ c k m, coreOf c ≠ k → exec (.mbPop c k m) s = .next { s with rdata := 0 })

/-- R24, R41, R43, R120, R213, R214, R254, R375, R490 and Table 20.3: setting EN zeroes a direction's pointers; an RX sample crosses and is stored
at RX_WR, counted as lost in a full buffer, or waits at a held bank, and a broken one is counted; TX plays the next stored sample while OWNED is 1, or
the idle sample; the port's clock stalls and returns; a stall during a pass is reported and moves the pass to the other port if it may. -/
def Obligations.FrontEndStreams : Prop :=
  ∀ (s : State) (p : Nat), p < 2 →
    let f := s.fe p
    let x := 23 + p
    let acct := (if p = 0 then s.mill.bindA else s.mill.bindB).toNat
    let others (u : State) : Prop := ∀ o, o ≠ p → u.fe o = s.fe o
    (∀ w : Word,
      (Answers (.feStreamEnable p false w) s fun u =>
        u.fe p = (let g := { f with rxEn := w.getLsbD 0, rxNotify := w.extractLsb' 16 16 }
          if w.getLsbD 0 ∧ f.rxEn = false then { g with rxRd := 0, rxWr := 0 } else g) ∧ others u ∧ ChangesOnly [.fab] s u) ∧
      (Answers (.feStreamEnable p true w) s fun u =>
        u.fe p = (let g := { f with txEn := w.getLsbD 0, txNotify := w.extractLsb' 16 16 }
          if w.getLsbD 0 ∧ f.txEn = false then { g with txRd := 0, txWr := 0 } else g) ∧ others u ∧ ChangesOnly [.fab] s u)) ∧
    (∀ i q : BitVec 12, f.stalled = false →
      let n := f.rxLog2.toNat
      let fill := (f.rxWr.toNat % 2 ^ n + 2 ^ n - f.rxRd.toNat % 2 ^ n) % 2 ^ n
      let a := f.rxBase.toNat + f.rxWr.toNat
      let word : Word := BitVec.ofNat 32 (i.toNat * 2 ^ 4 + q.toNat * 2 ^ 20)
      let crosses : Prop := f.rxEn = true ∧ (s.xing x).up = true ∧ (s.xing x).toD2.items = []
      (Answers (.feRxSample p i q false) s fun u =>
        u.fe p = { f with frameErrs := satInc f.frameErrs } ∧ others u ∧ u.fab.sram = s.fab.sram ∧ ChangesOnly [.fab] s u) ∧
      (crosses → islandRuns s 2 = true → rangeHeld s a 4 = false →
        (fill + 4 ≠ 2 ^ n → Answers (.feRxSample p i q true) s fun u =>
          u.fe p = { f with rxWr := BitVec.ofNat 20 ((f.rxWr.toNat + 4) % 2 ^ n) } ∧ others u ∧ readWord u.fab.sram a = word ∧
          (∀ b, b < a ∨ a + 4 ≤ b → readByte u.fab.sram b = readByte s.fab.sram b) ∧ (u.xing x).toD2.items = [] ∧
          u.acct acct = { s.acct acct with streamBytes := (s.acct acct).streamBytes + 4 } ∧ (∀ b, b ≠ acct → u.acct b = s.acct b) ∧
          ChangesOnly [.fab, .mill, .clk] s u) ∧
        (fill + 4 = 2 ^ n → Answers (.feRxSample p i q true) s fun u =>
          u.fe p = { f with overrun := satInc f.overrun } ∧ others u ∧ u.fab.sram = s.fab.sram ∧ (u.xing x).toD2.items = [] ∧
          ChangesOnly [.fab, .clk] s u)) ∧
      (crosses → rangeHeld s a 4 = true → Answers (.feRxSample p i q true) s fun u =>
        (u.xing x).toD2.items = [.rxSample p word] ∧ ChangesOnly [.clk] s u)) ∧
    (f.txEn = true → f.stalled = false → s.twin.feOwn = true → islandRuns s 2 = true → (s.xing x).up = true →
      let n := f.txLog2.toNat
      let fill := (f.txWr.toNat % 2 ^ n + 2 ^ n - f.txRd.toNat % 2 ^ n) % 2 ^ n
      let a := f.txBase.toNat + f.txRd.toNat
      (fill = 0 → Answers (.feTxSample p) s fun u =>
        u.fe p = { f with underrun := satInc f.underrun, sentSamples := f.sentSamples ++ [0] } ∧ others u ∧ ChangesOnly [.fab] s u) ∧
      (fill ≠ 0 → rangeHeld s a 4 = true → exec (.feTxSample p) s = .next s) ∧
      (fill ≠ 0 → rangeHeld s a 4 = false → tget none s.fab.ecc (a / 4 * 4) = none → Answers (.feTxSample p) s fun u =>
        u.fe p = { f with
          txRd := BitVec.ofNat 20 ((f.txRd.toNat + 4) % 2 ^ n)
          sentSamples := f.sentSamples ++ [readWord s.fab.sram a &&& 0xFFF0FFF0] } ∧ others u ∧ u.fab.sram = s.fab.sram ∧
        u.acct acct = { s.acct acct with streamBytes := (s.acct acct).streamBytes + 4 } ∧ ChangesOnly [.fab, .mill, .clk] s u)) ∧
    (∀ mid, Answers (.feClockLoss p mid) s fun u =>
      u.dom x = { s.dom x with state := .stopped, clockOn := false } ∧
      u.fe p = { f with stalled := true, frameErrs := if mid then satInc f.frameErrs else f.frameErrs } ∧ others u ∧
      u.xing x = s.xing x ∧ u.pass = { s.pass with exchs := u.pass.exchs } ∧ ChangesOnly [.clk, .fab, .pass] s u) ∧
    (Answers (.feClockReturn p) s fun u =>
      u.dom x = { s.dom x with state := .run, clockOn := true } ∧ u.fe p = { f with stalled := false } ∧ others u ∧
      ChangesOnly [.clk, .fab] s u) ∧
    (s.pass.isOpen = true → s.pass.port = p → f.stalled = true → Answers (.feTxStall p) s fun u =>
      LogsFault s u 0x11 1 ∧ QueuesLine s u 16 8 ∧
      u.pass = { s.pass with port := if (dwOf s 2).getLsbD (9 - p) then 1 - p else p } ∧ ChangesOnly [.faults, .clk, .pass] s u)

/-- R117, R118, R196 to R198, R206, R208 and Table 8.7: a read completion fills its line or ends its atomic and frees the tag; a request
without an answer for 100 µs traps its core, is noted and logged, and keeps its tag until the completion timeout; a twin request without a
reply ends likewise; a refused one is sent again, charged anew (R252). -/
def Obligations.FarRequestsEnd : Prop :=
  ∀ s : State,
    (∀ i c h g l ws, s.hbTag i = some ⟨.line c h l.addr, [], false, g⟩ → (s.ctx c).line = some l → l.st = .fetching → s.fab.hbWait = [] →
      Answers (.hostReadCompletion i (.data ws) false) s fun u =>
        u.hbTag i = none ∧ u.ctx c = { s.ctx c with line := some { l with st := .held ws } } ∧ (∀ e, e ≠ c → u.ctx e = s.ctx e) ∧
        (∀ j, j ≠ i → u.hbTag j = s.hbTag j) ∧ ChangesOnly [.ctxs, .fab] s u) ∧
    (∀ i c h g a n done w, s.hbTag i = some ⟨.atomic c h, [], false, g⟩ → (s.ctx c).long = some (.farAtomic a (.fadd n) done) →
      PlainLong (s.ctx c) → s.fab.hbWait = [] → Answers (.hostReadCompletion i (.data [w]) false) s fun u =>
        u.hbTag i = none ∧ u.ctx c = longDone { s.ctx c with ds := w :: (s.ctx c).ds.drop 2 } ∧ (∀ e, e ≠ c → u.ctx e = s.ctx e) ∧
        ChangesOnly [.ctxs, .fab] s u) ∧
    (∀ i c h l a size pops sg, s.hbTag i = some ⟨.line c h l.addr, [], false, none⟩ → (s.ctx c).line = some l → l.st = .fetching →
      (s.ctx c).long = some (.far a size pops sg) → PlainLong (s.ctx c) → Answers (.farReadTimeout i) s fun u =>
        u.hbTag i = some ⟨.line c h l.addr, [], true, none⟩ ∧ (u.ctx c).trap = some ⟨0x0B, a, 0, 0, false⟩ ∧ (u.ctx c).st = .run ∧
        (u.ctx c).long = none ∧ (u.ctx c).line = none ∧ (u.ctx c).ds = (s.ctx c).ds ∧ (u.ctx c).pc = (s.ctx c).pc ∧
        u.fab.hbErr = 1 ∧ u.fab.hbErrCnt = satInc s.fab.hbErrCnt ∧ u.fab.hbErrAddr = BitVec.ofNat 64 h ∧ LogsFault s u 0x04 1 ∧
        (∀ e, e ≠ c → u.ctx e = s.ctx e) ∧ ChangesOnly [.ctxs, .fab, .faults, .clk] s u) ∧
    (∀ i use sh g, s.hbTag i = some ⟨use, sh, true, g⟩ → s.fab.hbWait = [] → exec (.cplTimeout i) s = .next (s.setTag i none)) ∧
    (∀ c l, (s.ctx c).line = some l → l.ltry = true → (∀ a n p g, (s.ctx c).long ≠ some (.far a n p g)) →
      exec (.ldtryLineExpire c) s = .next (s.setCtx c { s.ctx c with line := none })) ∧
    (∀ tag c a size w rt, s.fab.treqs.find? (fun r => r.tag == tag) = some ⟨tag, .store c a size w, rt, none⟩ → c < 64 →
      Answers (.twinRequestTimeout tag) s fun u =>
        u.fab = { s.fab with
          treqs := s.fab.treqs.filter fun r => r.tag != tag
          tbErr := 1, tbErrCnt := satInc s.fab.tbErrCnt, tbErrAddr := a
          twinFails := tput (c / 4) (satInc (tget 0 s.fab.twinFails (c / 4))) s.fab.twinFails } ∧
        LogsFault s u 0x04 1 ∧ QueuesLine s u (c / 4) 7 ∧ ChangesOnly [.fab, .faults, .clk] s u) ∧
    (∀ tag c d g, s.fab.treqs.find? (fun r => r.tag == tag) = some ⟨tag, .line c d, true, g⟩ → s.twin.lanesUp = true →
      s.twin.replayBuf.length < 32 →
      let acct := (s.ctx c).acct.toNat
      Answers (.juniorRetry tag) s fun u =>
        SendsReliable s u [(0x06, tag, [BitVec.ofNat 32 (d.toNat - 0x20000000)], none)] ∧
        (u.fab.treqs.find? fun r => r.tag == tag) = some ⟨tag, .line c d, false, g⟩ ∧ u.fab = { s.fab with treqs := u.fab.treqs } ∧
        (u.acct acct).chargedTwin = (s.acct acct).chargedTwin + 4 ∧ ChangesOnly [.fab, .twin, .mill] s u)

/-- R205 to R209 and R252: the twin's loads, stores, atomics and locks act on this side's memory and are answered; a bank that a context, or another
context of the twin, holds refuses the junior side; a reply is charged; polls carry the side-band word and the interrupt counters. -/
def Obligations.TwinRequestsAndSideBand : Prop :=
  ∀ s : State,
    (∀ (h : Hdr) (off d e : Word), InOrder s h → LinkFree s → off.toNat < 0x400000 →
      let b := off.toNat / 0x40000
      let a := 0x10000000 + off.toNat / 4 * 4
      let la := 0x10000000 + off.toNat / 32 * 32
      b ∉ s.fab.twinBroken →
      (s.bankHolder b = none → (∀ i, tget none s.fab.ecc i = none) →
        (Answers (.memrd h off []) s fun u =>
          SendsReliable s u [(0x07, h.tag, 0 :: readWords s.fab.sram la 8, none)] ∧ Accepted s u h ∧ ChangesOnly [.twin] s u) ∧
        (∀ be : BitVec 4, Answers (.memwr h off be 0 d e .none) s fun u =>
          SendsReliable s u [(0x0E, h.tag, [0, 256], none)] ∧ Accepted s u h ∧
          (∀ i, readByte u.fab.sram i =
            if a ≤ i ∧ i < a + 4 ∧ be.getLsbD (i - a) then d.extractLsb' (8 * (i - a)) 8 else readByte s.fab.sram i) ∧
          ChangesOnly [.twin, .fab] s u) ∧
        (∀ be : BitVec 4, Answers (.memwr h off be 1 d e .none) s fun u =>
          SendsReliable s u [(0x07, h.tag, [0, readWord s.fab.sram a], none)] ∧ Accepted s u h ∧
          u.fab.sram = writeWord s.fab.sram a (readWord s.fab.sram a + d) ∧ ChangesOnly [.twin, .fab] s u)) ∧
      (∀ o, s.bankHolder b = some o → (∀ g, o = .twin g → g.toNat % 128 ≠ h.tag.toNat % 128) → s.twin.st = .primary →
        ∀ be code, Answers (.memwr h off be code d e .none) s fun u =>
        SendsReliable s u [(0x0F, h.tag, [0, 257], none)] ∧ Accepted s u h ∧ ChangesOnly [.twin] s u)) ∧
    (∀ (h : Hdr) (bank : BitVec 4), InOrder s h → LinkFree s → bank.toNat ∉ s.fab.twinBroken →
      (s.bankHolder bank.toNat = none → Answers (.twinLock h bank) s fun u =>
        SendsReliable s u [(0x0E, h.tag, [0, 256], none)] ∧
        (∀ b, u.bankHolder b = if b = bank.toNat then some (.twin h.tag) else s.bankHolder b) ∧ ChangesOnly [.twin, .fab] s u) ∧
      (∀ g, s.bankHolder bank.toNat = some (.twin g) → g.toNat % 128 = h.tag.toNat % 128 → Answers (.twinUnlock h bank) s fun u =>
        SendsReliable s u [(0x0E, h.tag, [0, 256], none)] ∧
        (∀ b, u.bankHolder b = if b = bank.toNat then none else s.bankHolder b) ∧ ChangesOnly [.twin, .fab] s u)) ∧
    (∀ (h : Hdr) (c : Nat) (l : Line) (rt : Bool) g (ws : List Word), InOrder s h →
      s.fab.treqs.find? (fun r => r.tag == h.tag) = some ⟨h.tag, .line c l.addr, rt, g⟩ → (s.ctx c).line = some l → l.st = .fetching →
      let acct := (s.ctx c).acct.toNat
      Answers (.memrdcpl h true ws) s fun u =>
        u.ctx c = { s.ctx c with line := some { l with st := .held ws } } ∧ u.fab = { s.fab with treqs := s.fab.treqs.filter fun r => r.tag != h.tag } ∧
        (u.acct acct).chargedTwin = (s.acct acct).chargedTwin + 36 ∧ Accepted s u h ∧ (∀ i, i ≠ c → u.ctx i = s.ctx i) ∧
        ChangesOnly [.ctxs, .fab, .twin, .mill] s u) ∧
    (s.twin.lanesUp = true →
      (Answers .twinPollTimer s fun u =>
        u.twin = { s.twin with tsent := s.twin.tsent ++ [⟨0x0A, false, 0, 0, pollWords s, none⟩] } ∧ ChangesOnly [.twin] s u) ∧
      (∀ (sb : BitVec 16) (cnt : List Byte), cnt.length = 8 →
        let counted (u : State) : Prop := ∀ i, i < 8 → tget 0 u.fab.irqSeen i = cnt.getD i 0 ∧
          u.fab.twIrqPend.getLsbD i = (s.fab.twIrqPend.getLsbD i || decide (cnt.getD i 0 ≠ tget 0 s.fab.irqSeen i))
        (Answers (.poll sb cnt) s fun u => counted u ∧
          u.twin = { s.twin with tsent := s.twin.tsent ++ [⟨0x0B, false, 0, 0, pollWords s, none⟩] } ∧
          u.fab = { s.fab with irqSeen := u.fab.irqSeen, twIrqPend := u.fab.twIrqPend } ∧ ChangesOnly [.fab, .clk, .twin] s u) ∧
        (Answers (.pollrsp sb cnt) s fun u => counted u ∧
          u.fab = { s.fab with irqSeen := u.fab.irqSeen, twIrqPend := u.fab.twIrqPend, twSbIn := sb, sbStale := false } ∧
          ChangesOnly [.fab, .clk] s u))) ∧
    (Answers .sbStale s fun u => u.fab = { s.fab with sbStale := true } ∧ ChangesOnly [.fab] s u) ∧
    (∀ m : BitVec 8, Answers (.twIrqRaise m) s fun u =>
      (∀ i, i < 8 → tget 0 u.fab.irqOut i = tget 0 s.fab.irqOut i + (if m.getLsbD i then 1 else 0)) ∧
      u.fab = { s.fab with irqOut := u.fab.irqOut } ∧ ChangesOnly [.fab] s u)

/-- R120, R205, R207, R208, R324 and R326 to R330: a link ACK frees what it covers, a link NAK and the replay timer send the rest again, the
ninth replay within 40 µs and a fault take the lanes down; a reply grants, ends or refuses its request; lanes that come up start a claim. -/
def Obligations.TwinlinkDelivers : Prop :=
  ∀ s : State, s.twin.lanesUp = true →
    let t := s.twin
    (t.unackedRx ≠ 0 → Answers .linkAckTimer s fun u =>
      u.twin = { t with
        unackedRx := 0, tsent := t.tsent ++ [⟨0x0E, false, 0, 0, [BitVec.ofNat 32 (t.rxSeq.toNat + 2 ^ 15), 0], none⟩] } ∧
      ChangesOnly [.twin] s u) ∧
    (Answers .twinPacketDrop s fun u =>
      u.twin = { t with
        crcErrs := satInc t.crcErrs
        tsent := t.tsent ++ [⟨0x0F, false, 0, 0, [BitVec.ofNat 32 (t.rxSeq.toNat + 2 ^ 15), 0], none⟩] } ∧
      ChangesOnly [.twin] s u) ∧
    (∀ (h : Hdr) (a : BitVec 12) (code : BitVec 8), t.wah = [] → t.heldPkts = [] → s.pass.ending = false →
      let left := t.replayBuf.filter fun p => !decide ((a - p.seq).toNat < 2048)
      (Answers (.ack h true a false code) s fun u => u.twin = { t with replayBuf := left } ∧ ChangesOnly [.twin] s u) ∧
      (left ≠ [] → (t.recentReplays.filter fun i => decide (s.nowUs < i + 40)).length < 8 → Answers (.nak h true a false code) s fun u =>
        u.twin = { t with
          replayBuf := left, replays := satInc t.replays, tsent := t.tsent ++ left
          recentReplays := (t.recentReplays.filter fun i => decide (s.nowUs < i + 40)) ++ [s.nowUs] } ∧ ChangesOnly [.twin] s u)) ∧
    (t.replayBuf ≠ [] → (t.recentReplays.filter fun i => decide (s.nowUs < i + 40)).length < 8 → Answers .replayTimeout s fun u =>
      u.twin.tsent = t.tsent ++ t.replayBuf ∧ u.twin.replays = satInc t.replays ∧ u.twin.replayBuf = t.replayBuf ∧
      ChangesOnly [.twin] s u) ∧
    (t.replayBuf ≠ [] → 8 ≤ (t.recentReplays.filter fun i => decide (s.nowUs < i + 40)).length → Answers .replayTimeout s fun u =>
      u.twin.lanesUp = false ∧ u.twin.downs = satInc t.downs ∧ LogsFault s u 0x07 1 ∧ ChangesOnly [.twin, .clk, .faults, .fab] s u) ∧
    (Answers .lanesDown s fun u =>
      u.twin = { t with lanesUp := false, downs := satInc t.downs, recentReplays := [], theirs := none } ∧
      (u.dom 22).state = .stopped ∧ (u.dom 22).clockOn = false ∧ u.xing 22 = { up := false, toD2 := {}, fromD2 := {} } ∧
      LogsFault s u 0x07 1 ∧ QueuesLine s u 16 8 ∧ (∀ r ∈ u.fab.treqs, r.log ≠ none) ∧ u.ctxs = s.ctxs ∧
      ChangesOnly [.twin, .clk, .faults, .fab] s u) ∧
    (∀ (h : Hdr) (a : BitVec 12), InOrder s h →
      (∀ c b rt g w, s.fab.treqs.find? (fun r => r.tag == h.tag) = some ⟨h.tag, .lock c b, rt, g⟩ → PlainLong (s.ctx c) →
        (s.ctx c).long = some (.lock w) →
        Answers (.ack h false a true 0) s fun u =>
          u.ctx c = longDone { s.ctx c with ds := (s.ctx c).ds.tail, hold := some ⟨true, b⟩ } ∧ Accepted s u h ∧
          (∀ i, i ≠ c → u.ctx i = s.ctx i) ∧ ChangesOnly [.ctxs, .fab, .twin, .mill] s u) ∧
      (∀ r, s.fab.treqs.find? (fun r => r.tag == h.tag) = some r → Answers (.nak h false a true 1) s fun u =>
        (u.fab.treqs.find? fun r => r.tag == h.tag) = some { r with retry := true } ∧ Accepted s u h ∧
        ChangesOnly [.fab, .twin, .mill] s u)) ∧
    (∀ v : State, v = { s with twin := { t with lanesUp := false } } → s.boot.ready = true → s.host.fatal = false → t.st = .alone →
      t.detached = false → Answers .lanesUp v fun u =>
        u.twin.lanesUp = true ∧ u.twin.st = .claiming ∧ u.twin.incumbent = t.feOwn ∧ u.twin.feOwn = t.feOwn ∧
        (u.dom 22).state = .run ∧ (u.dom 22).clockOn = true ∧ ChangesOnly [.twin, .clk] v u)

/-- R150, R332 to R336, R346 to R348 and R371: claims settle a role, and no claim leaves a lone side; the heartbeat is sent, clears what loss
set, and makes the side with the older generation stand down; its loss is declared; FE_OWN is taken when both senses are free, and released
with a random backoff on a collision; a change of role raises line 4 of S. -/
def Obligations.ClaimsSettleRoles : Prop :=
  ∀ s : State, s.boot.ready = true → s.host.fatal = false →
    let t := s.twin
    let mine := myClaim s
    let clear : Prop := t.senseA = false ∧ t.senseB = false ∧ t.backoff = none
    (t.st = .claiming → t.lanesUp = true → Answers .claimTimer s fun u =>
      (∃ ws, u.twin = { t with tsent := t.tsent ++ [⟨0x01, false, 0, 0, ws, none⟩] } ∧ ws.length = 8 ∧
        nthW ws 1 = Config.serial.extractLsb' 0 32 ∧ nthW ws 2 = Config.serial.extractLsb' 32 32 ∧
        nthW ws 3 = BitVec.ofNat 32 (t.rand.toNat + t.gen.toNat * 2 ^ 16)) ∧ ChangesOnly [.twin] s u) ∧
    (∀ cl e : Claim, t.st = .claiming → t.settling = false → t.lanesUp = true → t.attaching = false → cl.heard = true →
      { e with heard := false } = { mine with heard := false } →
      Answers (.claim cl (some e)) s fun u =>
        let newer (a b : BitVec 16) : Prop := 1 ≤ (a - b).toNat ∧ (a - b).toNat ≤ 32767
        let i := t.incumbent
        let waits : Prop := u.twin.st = .claiming ∧ u.twin.settling = true ∧
          ∀ n r, n ≠ 0 → (n, r) ∈ u.host.rings → r.st ≠ .active
        u.twin.peerSerial = cl.serial ∧ u.twin.peerGen = cl.gen ∧
        (i = true → cl.incumbent = false → u.twin.st = .primary) ∧ (i = false → cl.incumbent = true → waits) ∧
        (i = true → cl.incumbent = true → newer t.gen cl.gen → u.twin.st = .primary) ∧
        (i = true → cl.incumbent = true → newer cl.gen t.gen → waits) ∧
        (i = true → cl.incumbent = true → t.gen = cl.gen → u.twin.st = .conflict ∧ u.twin.feOwn = false) ∧
        (i = false → cl.incumbent = false → ¬(mine.prio = 2 ∧ cl.prio = 2) → cl.prio < mine.prio → u.twin.st = .primary) ∧
        (i = false → cl.incumbent = false → ¬(mine.prio = 2 ∧ cl.prio = 2) → mine.prio < cl.prio → waits) ∧
        (i = false → cl.incumbent = false → mine.prio = 2 → cl.prio = 2 → u.twin.st = .conflict ∧ u.twin.feOwn = false) ∧
        (i = false → cl.incumbent = false → mine.prio ≠ 2 → cl.prio = mine.prio → mine.serial < cl.serial → u.twin.st = .primary) ∧
        (i = false → cl.incumbent = false → mine.prio ≠ 2 → cl.prio = mine.prio → cl.serial < mine.serial → waits)) ∧
    (t.st = .claiming → t.settling = false → t.lanesUp = true → t.attaching = false → Answers .claimSettleTimeout s fun u =>
      u.twin.lanesUp = false ∧ u.twin.st = .claiming ∧ (u.dom 22).state = .stopped ∧ ChangesOnly [.twin, .clk] s u) ∧
    (t.st = .claiming → t.lanesUp = false → t.attaching = false → Answers .claimingTimeout s fun u =>
      u.twin.st = .alone ∧ (clear → u.twin.feOwn = true) ∧ (¬clear → u.twin.feOwn = t.feOwn) ∧ ChangesOnly [.twin] s u) ∧
    (t.st = .claiming → t.settling = true → t.wah = [] → s.host.rings.all (fun e => e.2.started.isEmpty) = true → t.snapIn = none →
      Answers .standbyQuiesced s fun u => u.twin.st = .catchup ∧ u.twin.feOwn = false ∧ u.pass.isOpen = false ∧
        QueuesLine s u 16 4 ∧ ChangesOnly [.twin, .pass, .clk] s u) ∧
    (t.lanesUp = true → Answers .heartbeatTimer s fun u =>
      (∃ w, u.twin = { t with
        hbCount := t.hbCount + 1
        tsent := t.tsent ++ [⟨0x02, false, 0, 0, [w, t.hbCount + 1, s.prot.epoch.extractLsb' 0 32], none⟩] } ∧
        w.getLsbD 3 = t.feOwn ∧ w.extractLsb' 16 16 = t.gen) ∧ ChangesOnly [.twin] s u) ∧
    (∀ (st : BitVec 3) (own : Bool) (gen : BitVec 16) (count lo : Word), t.lanesUp = true →
      (t.st = .standby → Answers (.heartbeat st own gen count lo) s fun u =>
        u.twin = { t with
          peerSt := st, peerGen := gen, hbLost := false, permit := false, senseA := own, senseB := own, witFe := t.witFe && !own } ∧
        u.prot = { s.prot with mismatch := decide (lo ≠ s.prot.epoch.extractLsb' 0 32) } ∧ ChangesOnly [.twin, .prot] s u) ∧
      (t.st = .primary ∨ t.st = .alone → s.host.resyncBusy = false → own = true → st = 0 ∨ st = 2 → 1 ≤ (gen - t.gen).toNat → (gen - t.gen).toNat ≤ 32767 →
        Answers (.heartbeat st own gen count lo) s fun u =>
          u.twin.st = .claiming ∧ u.twin.incumbent = false ∧ u.twin.feOwn = false ∧ u.twin.stoodDown = true ∧ u.twin.wah = [] ∧
          (t.st = .primary → QueuesLine s u 16 4) ∧ ChangesOnly [.twin, .prot, .clk] s u)) ∧
    (t.hbLost = false → t.st = .standby → s.prot.wait = none → Answers .heartbeatLoss s fun u =>
      u.twin = { t with
        hbLost := true, replayBuf := [], heldPkts := [], txSeq := 0, rxSeq := 0xFFF, unackedRx := 0, theirs := none } ∧
      QueuesLine s u 16 4 ∧ ChangesOnly [.twin, .clk] s u) ∧
    (t.feOwn = true → t.lanesUp = false → Answers .feOwnCollision s fun u =>
      (∃ n, 1 ≤ n ∧ n ≤ 16 ∧ u.twin = { t with
        feOwn := false, collision := true, senseA := true, senseB := true, witFe := false, backoff := some n }) ∧
      ChangesOnly [.twin, .free] s u) ∧
    (t.feOwn = true → t.lanesUp = true → Answers .feOwnCollision s fun u =>
      u.twin.feOwn = false ∧ u.twin.collision = true ∧ u.twin.st = .claiming ∧ u.twin.incumbent = false ∧ u.twin.backoff = t.backoff ∧
      (t.st = .primary → QueuesLine s u 16 4) ∧ ChangesOnly [.twin, .clk] s u) ∧
    (∀ n, t.backoff = some n → Answers .feOwnBackoffEnd s fun u =>
      u.twin = { t with
        backoff := none
        feOwn := t.feOwn || (decide (t.st = .primary ∨ t.st = .alone ∨ t.st = .taking) && !t.senseA && !t.senseB) } ∧
      ChangesOnly [.twin] s u) ∧
    (Answers .feOwnSenseRelease s fun u =>
      u.twin = { t with
        senseA := false, senseB := false, witFe := true
        feOwn := t.feOwn || (decide (t.st = .primary ∨ t.st = .alone ∨ t.st = .taking) && t.backoff.isNone) } ∧
      ChangesOnly [.twin] s u)

/-- R337 to R345, R349, R350, R366 and R370: a standby applies the records it receives and a snapshot brings it to STANDBY; a witness lets it
take over with a newer generation; TWIN_CONTROL moves the roles; a COMMIT swaps its map. -/
def Obligations.StandbyFollowsAndTakesOver : Prop :=
  ∀ s : State,
    let t := s.twin
    (∀ h : Hdr, InOrder s h →
      (t.st = .standby →
        (∀ n v, Answers (.shadow h (.doorbell n false v)) s fun u =>
          (u.ring n).sqTail = v ∧ (∀ m, m ≠ n → u.ring m = s.ring m) ∧ Accepted s u h ∧ ChangesOnly [.twin, .host] s u) ∧
        (∀ n slot ws, slot + 1 < (s.ring n).size → Answers (.shadow h (.completion n slot ws)) s fun u =>
          (n, slot, ws) ∈ u.twin.shadow.cpls ∧ (u.ring n).cqTail = slot + 1 ∧ (u.ring n).phase = (nthW ws 3).getLsbD 24 ∧
          (∀ i ∈ u.twin.shadow.cpls, i.1 = n → i.2.1 = slot → i.2.2 = ws) ∧ ChangesOnly [.twin, .host] s u) ∧
        (∀ n slot cmd idemp, Answers (.shadow h (.started n slot cmd idemp)) s fun u =>
          (n, slot, cmd, idemp) ∈ u.twin.shadow.started ∧ (u.ring n).sqHead = (slot + 1) % (s.ring n).size ∧
          ChangesOnly [.twin, .host] s u) ∧
        (Answers (.shadow h .detach) s fun u => u.twin.detached = true ∧ u.twin.st = .standby ∧ ChangesOnly [.twin] s u)) ∧
      (t.st = .catchup →
        (∀ r, Answers (.shadow h r) s fun u => u.twin.snapQueue = t.snapQueue ++ [r] ∧ u.twin.st = .catchup ∧ ChangesOnly [.twin] s u) ∧
        (∀ n ws ep sqh sqt cqh cqt ph len, t.snapQueue = [] →
          Answers (.snapshot h 0 len len [.ringRec n ws ep sqh sqt cqh cqt ph]) s fun u =>
            u.twin.st = .standby ∧ u.twin.snapIn = none ∧ (u.ring n).st = .stopped ∧ (u.ring n).epoch = ep ∧ (u.ring n).sqHead = sqh ∧
            (u.ring n).sqTail = sqt ∧ (u.ring n).cqHead = cqh ∧ (u.ring n).cqTail = cqt ∧ (u.ring n).phase = ph ∧
            ChangesOnly [.twin, .host] s u) ∧
        (∀ len size recs, size ≠ len → Answers (.snapshot h 0 len size recs) s fun u =>
          u.twin.st = .catchup ∧ u.twin.snapIn = some (size, len, recs) ∧ ChangesOnly [.twin] s u)) ∧
      (∀ gen, t.st = .standby → t.detached = false → Answers (.relinquish h gen) s fun u =>
        u.twin = { t with
          rxSeq := h.seq, unackedRx := 0, relinq := some gen
          tsent := t.tsent ++ [⟨0x0E, false, 0, 0, [BitVec.ofNat 32 (h.seq.toNat + 2 ^ 15), 0], none⟩] } ∧ ChangesOnly [.twin] s u) ∧
      (∀ q : Proposal, ∀ ws digest, t.st = .standby → s.prot.pend = some q → s.prot.wait = none →
        Answers (.consentFwd h q.p 0x43 ws digest (.data [])) s fun u =>
          u.prot.map = q.map ∧ u.prot.epoch.toNat = (nthW ws 0).toNat + 2 ^ 32 * (nthW ws 1).toNat ∧ u.prot.pend = none ∧
          u.prot.isDefault = false ∧ u.prot.fails = 0 ∧ (u.prot.store0 ≠ s.prot.store0 → s.prot.nextStore = false) ∧
          Accepted s u h ∧ ChangesOnly [.prot, .twin] s u)) ∧
    (t.st = .primary → t.snapping = true → t.wah = [] → s.pass.ending = false → t.attaching = false → s.host.fatal = false → (s.ring 0).st ≠ .active →
      s.host.unsol.length ≤ 16 → Answers .snapshotTimeout s fun u =>
        u.twin.st = .alone ∧ u.twin.snapping = false ∧ (∃ r0, u.host.unsol = s.host.unsol ++ [(0x0304, r0, 0)]) ∧
        QueuesLine s u 16 4 ∧ ChangesOnly [.twin, .host, .clk] s u) ∧
    (∀ w : Word, s.boot.ready = true → s.host.fatal = false → t.detached = false → w.getLsbD 0 = true →
      exec (.takeoverPermit w) s = .next { s with twin := { t with permit := true } }) ∧
    (t.st = .standby → t.detached = false → s.boot.ready = true → s.host.fatal = false →
      (∀ g, t.relinq = some g → Answers .takeover s fun u =>
        u.twin.st = .primary ∧ u.twin.gen = g ∧ u.twin.relinq = none ∧ u.prot.pend = none) ∧
      (t.relinq = none → t.hbLost = true → t.permit = true ∨ t.witFe = true → Answers .takeover s fun u =>
        u.twin.st = .alone ∧ u.twin.gen = BitVec.ofNat 16 (max t.gen.toNat t.peerGen.toNat + 1) ∧ u.twin.permit = false ∧
        u.prot.pend = none ∧ (t.senseA = false → t.senseB = false → t.backoff = none → u.twin.feOwn = true)) ∧
      (t.relinq = none → (t.hbLost = false ∨ t.permit = false ∧ t.witFe = false) → exec .takeover s = .next s)) ∧
    (∀ e : SqEnt, HeadReady s 0 e → e.opcode = 0x12 → e.reservedOk 3 = true → (e.dw 2).toNat < 4 →
      (e.dw 2 = 0 → t.st = .primary → t.peerSt = 3 ∨ t.peerSt = 4 → t.wah = [] → s.pass.ending = false →
        Answers .twinControlDetach s fun u =>
        u.twin.st = .alone ∧ u.twin.detached = true ∧ Completes s u 0 e 0 0 0) ∧
      (e.dw 2 = 1 → t.st = .alone → t.lanesUp = true → Answers .twinControlAttach s fun u =>
        u.twin.st = .claiming ∧ u.twin.incumbent = true ∧ u.twin.attaching = true ∧ u.twin.detached = false ∧ (u.ring 0).fetched = []) ∧
      (e.dw 2 = 2 → t.st = .primary → t.peerSt = 3 → t.wah = [] → s.host.rings.all (fun r => r.2.started.isEmpty) = true →
        Answers .twinControlRelinquish s fun u =>
          u.twin.st = .catchup ∧ u.twin.feOwn = false ∧ Completes s u 0 e 0 0 0))

/-- R277, R285, R307 and Table 12.5: ADMIN_CTL takes a command timeout from 10 ms, starts RING_0 with its indices at 0 in a new epoch, refuses a
start without addresses, and stops it at once when nothing is started and nothing held waits for the bridge; its descriptor reads then yield nothing. -/
def Obligations.AdminRingStartsAndStops : Prop :=
  ∀ (s : State) (w : Word), s.boot.ready = true → s.host.fatal = false →
    let h := s.host
    let ms := w.toNat / 2 ^ 16
    let sq := h.adminSqLo.toNat + 2 ^ 32 * h.adminSqHi.toNat
    let cq := h.adminCqLo.toNat + 2 ^ 32 * h.adminCqHi.toNat
    let r := s.ring 0
    let tmo := if 10 ≤ ms then ms else r.tmoMs
    let others (u : State) : Prop := ∀ n, n ≠ 0 → u.ring n = s.ring n
    (10 ≤ ms → h.adminEn = false → r.resetting = false → sq ≠ 0 → cq ≠ 0 → s.clk.calDefaults = false → h.unsol = [] →
      Answers (.adminEnable w) s fun u =>
        u.host.adminEn = true ∧ u.host.tmoMs.toNat = ms ∧
        u.ring 0 = { st := .active, log2n := h.adminLog2.toNat, sqBase := sq, cqBase := cq, vector := 0, tmoMs := ms, epoch := r.epoch + 1 } ∧
        others u ∧ ChangesOnly [.host] s u) ∧
    (ms < 10 → h.adminEn = false → r.resetting = false → sq = 0 ∨ cq = 0 →
      exec (.adminEnable w) s = .next { s with host := { h with admCfgErr := true } }) ∧
    (ms < 10 → h.adminEn = true → exec (.adminEnable w) s = .next s) ∧
    (10 ≤ ms → h.adminEn = true → Answers (.adminEnable w) s fun u =>
      u.host.tmoMs.toNat = ms ∧ u.ring 0 = { r with tmoMs := ms } ∧ others u ∧ ChangesOnly [.host] s u) ∧
    (h.adminEn = true → r.started = [] → r.held = [] → Answers (.adminDisable w) s fun u =>
      u.host.adminEn = false ∧
      u.ring 0 = { r with
        st := .absent, fetched := [], sqHead := 0, sqTail := 0, epoch := r.epoch + 1, resetting := false, tmoMs := tmo
        latchSq := none, latchCq := none, latched := false } ∧
      (∀ i t a k, s.hbTag i = some t → t.use = .desc 0 a k → u.hbTag i = some { t with dead := true }) ∧
      others u ∧ ChangesOnly [.host, .fab] s u) ∧
    (h.adminEn = true → r.started ≠ [] ∨ r.held ≠ [] ∧ canSend s = false → Answers (.adminDisable w) s fun u =>
      u.host.adminEn = false ∧ u.ring 0 = { r with resetting := true, tmoMs := tmo } ∧ others u ∧ ChangesOnly [.host] s u)

/-- R150, R274, R279, R280, R282, R284, R293, R294, R295, R318, R345, R473 and Table 20.3: doorbells move a ring's indices, are latched by a stopped
ring, and are reported when invalid; the fetch engine reads the entries that the indices name; a command that runs too long ends with TIMEOUT, the
bytes that its transfer has moved, and one report. -/
def Obligations.DoorbellsFetchCommands : Prop :=
  ∀ (s : State) (n : Nat), s.boot.ready = true → s.host.fatal = false → n < 1024 →
    let r := s.ring n
    let N := 2 ^ r.log2n
    let others (u : State) : Prop := ∀ m, m ≠ n → u.ring m = s.ring m
    (∀ w : Word, let v := w.toNat % 2 ^ 12
      (n ≠ 0 → shadowing s = false → r.st = .active → r.resetting = false → v < N → Answers (.sqTail n w) s fun u =>
        u.ring n = { r with sqTail := v } ∧ others u ∧ ChangesOnly [.host] s u) ∧
      (n ≠ 0 → shadowing s = false → r.st = .active → r.late = [] → r.cqHead < N → r.cqTail < N → s.twin.wah = [] → v < N →
        (v + N - r.cqHead) % N ≤ (r.cqTail + N - r.cqHead) % N → Answers (.cqHead n w) s fun u =>
          u.ring n = { r with cqHead := v } ∧ others u ∧ ChangesOnly [.host, .twin] s u) ∧
      (r.st = .stopped ∧ r.resetting = false ∨ r.st = .absent ∧ n ≠ 0 ∧ s.twin.st = .catchup →
        (Answers (.sqTail n w) s fun u => u.ring n = { r with latchSq := some v, latched := true } ∧ others u ∧ ChangesOnly [.host] s u) ∧
        (Answers (.cqHead n w) s fun u => u.ring n = { r with latchCq := some v, latched := true } ∧ others u ∧ ChangesOnly [.host] s u)) ∧
      (r.st = .absent → n = 0 ∨ s.twin.st ≠ .catchup →
        (Answers (.sqTail n w) s fun u => Posts s u 0x0104 (BitVec.ofNat 32 n) (BitVec.ofNat 32 (4 * n * 2 ^ 16 + v)) ∧ ChangesOnly [.host, .mill] s u) ∧
        (Answers (.cqHead n w) s fun u =>
          Posts s u 0x0104 (BitVec.ofNat 32 n) (BitVec.ofNat 32 ((0x1000 + 4 * n) * 2 ^ 16 + v)) ∧ ChangesOnly [.host, .mill] s u))) ∧
    (∀ (w : Word) (bad : List Nat), w.getLsbD 0 = true → s.host.resyncBusy = false → resyncAddrOf s ≠ 0 → canSend s = true →
      Answers (.resyncDb w bad) s fun u => QueuesLine s u 16 1 ∧ (descReads s = false → u.host.captured = true) ∧
      u.host.resyncBusy = true ∧ u.host.resyncSeq = s.host.resyncSeq + 1 ∧ u.host.resyncAddr = resyncAddrOf s ∧
      (n ≠ 0 → r.st = .active → (u.ring n).st = .stopped) ∧ u.ring 0 = s.ring 0) ∧
    (s.host.rings = [(n, r)] → n ≠ 0 → r.st = .active → r.resetting = false → r.acct = 0 → r.fetched = [] → r.started = [] → r.held = [] →
      r.reruns = [] → r.cqHead = r.cqTail → 1 ≤ r.log2n → r.cqTail < N → r.sqHead < N → r.sqTail < N → r.sqHead ≠ r.sqTail → r.sqBase % 64 = 0 →
      r.late = [] → 64 ≤ s.host.mrrs → s.twin.stoodDown = false → s.twin.st ≠ .conflict → s.fab.tags = [] → canSend s = true → Answers (.ringFetchVisit false) s fun u =>
        ∃ k, 1 ≤ k ∧ k ≤ 8 ∧ k ≤ (r.sqTail + N - r.sqHead) % N ∧ r.sqHead + k ≤ N ∧
          u.host = { s.host with rfePos := n, sent := s.host.sent ++ [.read 8 (r.sqBase + 64 * r.sqHead) (64 * k)] } ∧
          u.hbTag 8 = some ⟨.desc n r.sqHead k, [], false, none⟩ ∧ ChangesOnly [.host, .fab] s u) ∧
    (Answers (.ringFetchVisit true) s fun u => u.host.fatal = true) ∧
    (∀ i g (ws : List Word), s.hbTag i = some ⟨.desc n r.sqHead 1, [], false, g⟩ → r.st = .active ∨ r.st = .stopped → r.fetched = [] →
      s.fab.hbWait = [] → ws.length = 16 → opcodeOk n ((nthW ws 0).toNat % 256) = true → r.sqHead < N →
      Answers (.descriptorArrival i (.data ws)) s fun u =>
        u.ring n = { r with sqHead := (r.sqHead + 1) % N, fetched := [⟨ws, r.sqHead, r.epoch, false⟩] } ∧ others u ∧ u.hbTag i = none ∧
        (u.acct r.acct.toNat).chargedDma = (s.acct r.acct.toNat).chargedDma + 64 ∧ QueuesLine s u 16 0 ∧
        ChangesOnly [.host, .fab, .mill, .clk] s u) ∧
    (∀ q : Started, CanEnd s n q → q.log = none → (∀ c, (s.ctx c).job = none) → s.pass.isOpen = false → s.host.jobs = [] →
      Answers (.commandTimeout n q.cmd) s fun u =>
        Ends s u n q [] 0x0012 (BitVec.ofNat 32 ((dmaOf s n q.cmd).elim 0 fun d => d.moved)) 0 ∧ dmaOf u n q.cmd = none ∧
        LogsFault s u 0x08 1 ∧ ChangesOnly [.host, .fab, .faults, .clk, .mill] s u) ∧
    (canSend s = false → exec (.msixCoalesceTimeout n) s = .next s) ∧
    (r.unsig ≠ 0 → r.vector.toNat < 64 → s.host.msixEn = true → s.host.msixMask = false → canSend s = true →
      let m := tget {} s.host.msix r.vector.toNat
      (m.mask = false → Answers (.msixCoalesceTimeout n) s fun u =>
        u.host.sent = s.host.sent ++ [.msix r.vector.toNat m.addr m.data] ∧ u.ring n = { r with unsig := 0 } ∧ others u ∧
        ChangesOnly [.host] s u) ∧
      (m.mask = true → Answers (.msixCoalesceTimeout n) s fun u =>
        u.host.sent = s.host.sent ∧ u.host.pba.getLsbD r.vector.toNat = true ∧ u.ring n = { r with unsig := 0 } ∧ ChangesOnly [.host] s u))

/-- R26, R296 to R300 and Tables 12.10 and 19.5: JOB_RUN is checked and waits for a context; the lowest permitted halted context starts at its entry
with the job block in shared SRAM, its island ungated; DONE, or a halt without it, ends the job with its completion. -/
def Obligations.JobsRun : Prop :=
  ∀ (s : State) (n : Nat), n ≠ 0 →
    (∀ e : SqEnt, HeadReady s n e → e.opcode = 0x60 → e.reservedOk 14 = true → fld (e.dw 3) 31 4 = 0 → fld (e.dw 3) 3 0 ≤ 10 →
      fld (e.dw 2) 15 8 = 0xFF → fld (e.dw 2) 7 0 = 0xFF →
      (∀ p, tget none s.host.entries (fld (e.dw 2) 31 16) = some p → Answers (.jobRun n) s fun u =>
        u.host = { s.host with rings := u.host.rings, jobs := s.host.jobs ++ [(n, e.cmd)] } ∧
        u.ring n = { s.ring n with fetched := [], started := (s.ring n).started ++ [⟨e.cmd, e, none⟩] } ∧
        (∀ m, m ≠ n → u.ring m = s.ring m) ∧ ChangesOnly [.host] s u) ∧
      (tget none s.host.entries (fld (e.dw 2) 31 16) = none → Answers (.jobRun n) s fun u =>
        Completes s u n e 0x0502 0 0 ∧ u.host.jobs = s.host.jobs ∧ ChangesOnly [.host, .mill] s u)) ∧
    (∀ (c : Nat) (e : SqEnt) (p : EntryPt), (s.ring n).started = [⟨e.cmd, e, none⟩] → s.host.jobs = [(n, e.cmd)] →
      jobFits s n e c = true → (∀ d, d < c → jobFits s n e d = false) → tget none s.host.entries (fld (e.dw 2) 31 16) = some p →
      fld (e.dw 3) 3 0 ≤ 10 → admissible s = true → (s.ctx c).acct = (s.ring n).acct → Answers (.jobDispatch c) s fun u =>
        let blk := p.jobBlk.toNat + 64 * c
        u.ctx c = { s.ctx c with
          st := .run, pc := p.start, ds := [], rs := [], dspBase := p.dspBase, dspLimit := p.dspLimit, dspPtr := p.dspBase
          rspBase := p.rspBase, rspLimit := p.rspLimit, rspPtr := p.rspBase, vecBase := p.vecBase, job := some (n, e.cmd, blk)
          lands := [], snaps := [], trap := none, fbuf := false, mid := none } ∧
        (∀ d, d ≠ c → u.ctx d = s.ctx d) ∧ u.host = { s.host with jobs := [] } ∧
        readWord u.fab.sram blk = BitVec.ofNat 32 (n + e.cmd.toNat * 2 ^ 16) ∧
        readWord u.fab.sram (blk + 4) = BitVec.ofNat 32 (fld (e.dw 3) 3 0) ∧
        (∀ i, i < 10 → readWord u.fab.sram (blk + 8 + 4 * i) = if i < fld (e.dw 3) 3 0 then e.dw (4 + i) else 0) ∧
        (∀ i, i < 4 → readWord u.fab.sram (blk + 48 + 4 * i) = 0) ∧
        (∀ b, b < blk ∨ blk + 64 ≤ b → readByte u.fab.sram b = readByte s.fab.sram b) ∧
        (let d := domOf (coreOf c)
         u.dom d = (if (s.dom d).autoGated then { s.dom d with state := .run, autoGated := false, clockOn := true } else s.dom d)) ∧
        ChangesOnly [.ctxs, .host, .fab, .thorn, .clk] s u) ∧
    (∀ (c : Nat) (q : Started) (blk : Nat), CanEnd s n q → (s.ctx c).job = some (n, q.cmd, blk) →
      (readWord s.fab.sram (blk + 48) = 1 → readWord s.fab.sram (blk + 52) = 0 → (s.ctx c).st = .run → (s.ctx c).hold = none →
        (s.ctx c).long = none → (s.ctx c).snaps = [] → Answers (.jobDone c) s fun u =>
          (u.ctx c).st = .halted ∧ (u.ctx c).job = none ∧
          Ends s u n q [] 0 (readWord s.fab.sram (blk + 56)) (readWord s.fab.sram (blk + 60)) ∧ (∀ d, d ≠ c → u.ctx d = s.ctx d)) ∧
      (readWord s.fab.sram (blk + 48) ≠ 1 → (s.ctx c).st = .halted → Answers (.jobTrap c) s fun u =>
        u.ctx c = { s.ctx c with job := none, stopDue := false } ∧
        Ends s u n q [] 0x0503 (if (s.ctx c).stopDue then 0 else (s.ctx c).trapCause.setWidth 32) 0 ∧
        (∀ d, d ≠ c → u.ctx d = s.ctx d) ∧ ChangesOnly [.ctxs, .host, .mill] s u))

/-- R197, R201, R252, R301, R302 and R354: a data-movement command is checked and starts, one from the host with the read of its first segment; its
segments move the words that it names and no other, through the window it may use, and it completes with the bytes moved. -/
def Obligations.TransfersMove : Prop :=
  ∀ (s : State) (n : Nat), n ≠ 0 →
    (∀ e : SqEnt, HeadReady s n e →
      let off := (e.dw 3).toNat
      let a := (e.dw 4).toNat
      let len := (e.dw 5).toNat
      let w := (e.dw 2).toNat
      len % 4 = 0 → 4 ≤ len → len ≤ 1048576 → a % 4 = 0 → 0x10000000 ≤ a → a + len ≤ 0x10400000 →
      let started (u : State) : Prop :=
        (u.ring n).fetched = [] ∧ (u.ring n).started = (s.ring n).started ++ [⟨e.cmd, e, none⟩] ∧ ∀ m, m ≠ n → u.ring m = s.ring m
      let waits (u : State) (kind : BitVec 2) (host : Nat) (ns : Bool) : Prop :=
        u.host = { s.host with
          rings := u.host.rings, dmas := s.host.dmas ++ [⟨n, e.cmd, kind, host, a, len, 0, e.dw 6, ns, none⟩] } ∧ started u ∧ ChangesOnly [.host] s u
      (e.opcode = 0x72 → e.reservedOk 7 = true → w = 0 → off = 0 →
        Answers (.dmFill n) s fun u => waits u 2 ((s.win 0).hbase) false) ∧
      (w < 256 → e.reservedOk 6 = true → off % 4 = 0 → (s.win w).v = true → off + len ≤ 2 ^ (s.win w).size →
        w ∈ (tget {} s.prot.map.rings n).win →
        let host := (s.win w).hbase + off
        let k := min len (min (4096 - host % 4096) (min 512 s.host.mrrs))
        (e.opcode = 0x70 → (s.win w).rd = true → (s.ring n).acct = 0 → dmaOf s n e.cmd = none → s.fab.tags = [] →
          Answers (.dmCopyIn n) s fun u =>
            u.host = { s.host with
              rings := u.host.rings, sent := s.host.sent ++ [.read 8 host k (s.win w).ns]
              dmas := s.host.dmas ++ [⟨n, e.cmd, 0, host, a, len, 0, e.dw 6, (s.win w).ns, some (8, k)⟩] } ∧
            u.hbTag 8 = some ⟨.dma n e.cmd host, [], false, none⟩ ∧ (u.acct 0).chargedDma = (s.acct 0).chargedDma + k ∧ started u ∧
            ChangesOnly [.host, .fab, .mill] s u) ∧
        (e.opcode = 0x70 → (s.win w).rd = false → Answers (.dmCopyIn n) s fun u => Completes s u n e 0x0004 0 0) ∧
        (e.opcode = 0x71 → (s.win w).wr = true → Answers (.dmCopyOut n) s fun u => waits u 1 host (s.win w).ns) ∧
        (e.opcode = 0x71 → (s.win w).wr = false → Answers (.dmCopyOut n) s fun u => Completes s u n e 0x0004 0 0))) ∧
    (∀ (q : Started) (kind : BitVec 2) (host a len : Nat) (fill : Word) (ns : Bool) (tag : Option (Nat × Nat)), CanEnd s n q →
      (s.ring n).acct = 0 → s.host.dmas = [⟨n, q.cmd, kind, host, a, len, 0, fill, ns, tag⟩] → len % 4 = 0 → 0 < len → len < 2 ^ 20 →
      rangeHeld s a len = false →
      let outside (u : State) : Prop := ∀ b, b < a ∨ a + len ≤ b → readByte u.fab.sram b = readByte s.fab.sram b
      let charged (u : State) (k : Nat) : Prop := (u.acct 0).chargedDma = (s.acct 0).chargedDma + k
      (kind = 2 → ∀ r, Answers (.dmaSegmentDone n q.cmd r []) s fun u =>
        readWords u.fab.sram a (len / 4) = List.replicate (len / 4) fill ∧ outside u ∧ u.host.dmas = [] ∧
        Ends s u n q [] 0 (BitVec.ofNat 32 len) 0 ∧ charged u 16 ∧ ChangesOnly [.host, .fab, .mill] s u) ∧
      (∀ i, kind = 0 → tag = some (i, len) → s.fab.hbWait = [] → ∀ ws, ws.length = len / 4 →
        Answers (.dmaSegmentDone n q.cmd (.data ws) []) s fun u =>
          readWords u.fab.sram a (len / 4) = ws ∧ outside u ∧ u.host.dmas = [] ∧ u.hbTag i = none ∧
          Ends s u n q [] 0 (BitVec.ofNat 32 len) 0 ∧ charged u 16 ∧ ChangesOnly [.host, .fab, .mill] s u) ∧
      (host % 4096 + len ≤ 4096 → len ≤ min 256 s.host.mps → kind = 1 → (∀ i, tget none s.fab.ecc i = none) → ∀ r,
        Answers (.dmaSegmentDone n q.cmd r []) s fun u =>
          u.host.dmas = [] ∧ u.fab.sram = s.fab.sram ∧
          Ends s u n q [.write host (readWords s.fab.sram a (len / 4)) ns] 0 (BitVec.ofNat 32 len) 0 ∧ charged u (len + 16) ∧
          ChangesOnly [.host, .fab, .mill] s u)) ∧
    (∀ cmd r ups d, dmaOf s n cmd = some d → d.kind = 2 → rangeHeld s (d.sram + d.moved) (d.len - d.moved) = true →
      exec (.dmaSegmentDone n cmd r ups) s = .next s)

/-- R283, R285, R290, R304 to R307, R317, R318, R322 and Table 13.1: RING_CREATE makes an active ring in a new epoch, RING_DELETE removes an
idle one, RING_RESET restarts one behind a fence, and RESYNC quiesces every ring and makes one run again. -/
def Obligations.RingCommands : Prop :=
  ∀ (s : State) (e : SqEnt),
    let n := fld (e.dw 2) 9 0
    let r := s.ring n
    let others (u : State) : Prop := ∀ m, m ≠ n → m ≠ 0 → u.ring m = s.ring m
    (AdminReady s e 0x02 → ringFieldsOk s e = true →
      (r.st = .absent → Answers .ringCreate s fun u =>
        u.ring n =
          { st := .active, log2n := fld (e.dw 2) 19 16, order := (e.dw 2).getLsbD 20, maxout := fld (e.dw 2) 31 24
            sqBase := (e.dw 3).toNat + 2 ^ 32 * (e.dw 4).toNat, cqBase := (e.dw 5).toNat + 2 ^ 32 * (e.dw 6).toNat
            acct := (e.dw 7).setWidth 6, vector := (e.dw 7).extractLsb' 8 8, coalN := fld (e.dw 7) 23 16
            coalUs := fld (e.dw 8) 15 0, tmoMs := fld (e.dw 8) 31 16, epoch := r.epoch + 1 } ∧
        Completes s u 0 e 0 ((r.epoch + 1).setWidth 32) 0 ∧ others u ∧ ChangesOnly [.host, .mill] s u) ∧
      (r.st ≠ .absent → Answers .ringCreate s fun u =>
        u.ring n = s.ring n ∧ Completes s u 0 e 0x0101 0 0 ∧ others u ∧ ChangesOnly [.host, .mill] s u)) ∧
    (AdminReady s e 0x03 → e.reservedOk 3 = true → (e.dw 2).toNat < 1024 → n ≠ 0 → s.twin.wah = [] →
      (r.st ≠ .absent → r.started = [] → r.late = [] → rerunsLeft s n = false → Answers .ringDelete s fun u =>
        u.ring n = { epoch := r.epoch } ∧ Completes s u 0 e 0 0 0 ∧ others u ∧ ChangesOnly [.host, .fab, .twin, .mill] s u) ∧
      (r.st ≠ .absent → r.started ≠ [] ∨ r.late ≠ [] ∨ rerunsLeft s n = true → Answers .ringDelete s fun u =>
        u.ring n = r ∧ Completes s u 0 e 0x0103 0 0 ∧ others u ∧ ChangesOnly [.host, .mill] s u) ∧
      (r.st = .absent → Answers .ringDelete s fun u => Completes s u 0 e 0x0102 0 0 ∧ ChangesOnly [.host, .mill] s u)) ∧
    (AdminReady s e 0x04 → e.reservedOk 3 = true → (e.dw 2).toNat < 1024 → n ≠ 0 → r.st ≠ .absent → r.started = [] → r.late = [] → r.held = [] →
      rerunsLeft s n = false → r.fenced = none → r.latchCq = none → r.cqHead = r.cqTail → 4 ≤ r.log2n → r.cqTail + 1 < 2 ^ r.log2n →
      s.twin.wah = [] → s.pass.ending = false →
      Answers .ringReset s fun u =>
        u.ring n = { r with
          st := .active, fetched := [], reruns := [], sqHead := 0, sqTail := 0, epoch := r.epoch + 1, cqTail := r.cqTail + 1
          latchSq := none, latched := false, resetting := false, fencePut := false, unsig := (u.ring n).unsig } ∧
        (∃ ms, (∀ m ∈ ms, ∃ v a d, m = .msix v a d) ∧ WritesEntry s u 0
          (.write (r.cqBase + 16 * r.cqTail)
            [0, 0, 0xFFFF0000, BitVec.ofNat 32 ((r.epoch + 1).toNat * 2 ^ 16 + (if r.phase then 2 ^ 24 else 0) + 2 ^ 25)] :: ms)
          e.cmd e.epoch 0 ((r.epoch + 1).setWidth 32)
          (BitVec.ofNat 32 ((r.sqTail + 2 ^ r.log2n - r.sqHead) % 2 ^ r.log2n + r.fetched.length))) ∧
        others u ∧ ChangesOnly [.host, .fab, .mill] s u) ∧
    (AdminReady s e 0x14 → e.reservedOk 5 = true → e.dw 2 = 0 → (e.dw 3).toNat % 2 ^ 16 = 0 → s.host.resyncBusy = false →
      ∀ bad, Answers (.resyncSummary bad) s fun u =>
        u.host.resyncBusy = true ∧ u.host.resyncSeq = s.host.resyncSeq + 1 ∧
        u.host.resyncAddr = (e.dw 3).toNat + 2 ^ 32 * (e.dw 4).toNat ∧ u.host.resyncSrc = 0 ∧
        (u.ring 0).started = [⟨e.cmd, e, none⟩] ∧ (∀ m, m ≠ 0 → (s.ring m).st = .active → (u.ring m).st = .stopped) ∧
        ChangesOnly [.host, .mill, .faults, .clk] s u) ∧
    (∀ m, AdminReady s e 0x14 → e.reservedOk 4 = true → e.dw 2 = 1 → e.dw 3 = BitVec.ofNat 32 m → 0 < m → m < 1024 →
      (s.ring m).fetched = [] → (s.ring m).latchSq = none → (s.ring m).latchCq = none → (s.ring m).st = .stopped →
      Answers .resyncResume s fun u =>
        u.ring m = { s.ring m with st := .active, latched := false } ∧ Completes s u 0 e 0 0 0 ∧
        (∀ i, i ≠ m → i ≠ 0 → u.ring i = s.ring i) ∧ ChangesOnly [.host, .mill] s u)

/-- R15, R85, R260, R261, R308 to R310 and R312 to R314: settings of accounts, clocks, wait groups and the ledger take effect and answer; a job core
starts from an entry, stops and loses its power, and enters deterministic mode. -/
def Obligations.SettingCommands : Prop :=
  ∀ (s : State) (e : SqEnt),
    (∀ a, AdminReady s e 0x05 → a < 64 → e.dw 2 = BitVec.ofNat 32 (a + 2 ^ 9) → e.reservedOk 11 = true → (e.dw 4).toNat < 2 ^ 24 →
      (s.acct a).next = none →
      let t := s.setAcct a { s.acct a with next := some ⟨none, [some (e.dw 4).toNat, none, none, none], none⟩ }
      (admissible t = true → Answers .accountSet s fun u =>
        u.mill = { s.mill with accts := u.mill.accts } ∧ (∀ b, (u.acct b).next = (t.acct b).next ∧ (u.acct b).guar = (s.acct b).guar) ∧
        Completes s u 0 e 0 ((s.mill.turn + 1).setWidth 32) 0 ∧ ChangesOnly [.mill, .host] s u) ∧
      (admissible t = false → Answers .accountSet s fun u =>
        u.mill = { s.mill with admitRefused := true, accts := u.mill.accts } ∧ (∀ b, (u.acct b).next = (s.acct b).next) ∧
          Completes s u 0 e 0x0003 0 0 ∧ ChangesOnly [.mill, .host] s u)) ∧
    (∀ d, AdminReady s e 0x0A → 2 ≤ d → d ≤ 20 → e.reservedOk 5 = true →
      let w := e.dw 3
      let lock := w.toNat / 2 ^ 7 % 2 ^ 9
      let floor := w.toNat / 2 ^ 16 % 2 ^ 9
      let image : Prop := w.toNat < 2 ^ 28 ∧ w.getLsbD 25 = false ∧ 25 ≤ lock ∧ lock ≤ 400 ∧ 25 ≤ floor ∧ floor ≤ 400 ∧ w.toNat / 2 ^ 26 ≠ 3
      (e.dw 2 = BitVec.ofNat 32 (d + 2 ^ 8) → image → s.clk.calDefaults = false → (s.dom d).floorNext = none →
        Answers .clockPolicySet s fun u =>
          u.dom d = { s.dom d with codeCap := w.setWidth 6 } ∧ (∀ i, i ≠ d → u.dom i = s.dom i) ∧
          Completes s u 0 e 0 (clkStatus u) 0 ∧ ChangesOnly [.clk, .host, .mill] s u) ∧
      (e.dw 2 = BitVec.ofNat 32 (d + 2 ^ 8) → lock < 25 ∨ 400 < lock ∨ floor < 25 ∨ 400 < floor → Answers .clockPolicySet s fun u =>
        Completes s u 0 e 0x0002 0 0 ∧ ChangesOnly [.host, .mill] s u) ∧
      (e.dw 2 = BitVec.ofNat 32 (d + 2 ^ 11) → (e.dw 4).toNat < 2 ^ 17 → (s.dom d).floorNext = none → Answers .clockPolicySet s fun u =>
        u.clk = { s.clk with capMw := (e.dw 4).setWidth 16, policyEn := (e.dw 4).getLsbD 16, doms := u.clk.doms } ∧
        (∀ i, u.dom i = s.dom i) ∧ Completes s u 0 e 0 (clkStatus u) 0 ∧ ChangesOnly [.clk, .host, .mill] s u)) ∧
    (∀ g, AdminReady s e 0x0B → g < 8 → e.dw 2 = BitVec.ofNat 32 g → e.reservedOk 9 = true → e.dw 3 = 0 → (e.dw 6).toNat < 16 → e.dw 8 = 0 →
      Answers .hedgeConfig s fun u =>
        u.group g = { s.group g with
          en := false, wood := false, supv := false, wcore := 0, wctx := 0, mem0 := e.dw 4, mem1 := e.dw 5, mem2 := (e.dw 6).setWidth 4
          internal := e.dw 7 } ∧
        (∀ i, i ≠ g → u.group i = s.group i) ∧ Completes s u 0 e 0 (hgStat u g) 0 ∧ ChangesOnly [.thorn, .host, .mill] s u) ∧
    (AdminReady s e 0x11 → e.reservedOk 5 = true → (e.dw 2).toNat < 256 → (e.dw 3).toNat % 64 = 0 → (e.dw 4).toNat ≤ 262144 →
      s.pass.isOpen = false →
      (e.dw 4 ≠ 0 → ledgerOk s (e.dw 2).toNat (e.dw 3).toNat (e.dw 4).toNat = true → Answers .ledgerAttach s fun u =>
        u.host.ledger = some ((e.dw 2).toNat, (e.dw 3).toNat, (e.dw 4).toNat) ∧ Completes s u 0 e 0 (e.dw 4) 0 ∧ ChangesOnly [.host, .mill] s u) ∧
      (e.dw 4 ≠ 0 → ledgerOk s (e.dw 2).toNat (e.dw 3).toNat (e.dw 4).toNat = false → Answers .ledgerAttach s fun u =>
        u.host.ledger = s.host.ledger ∧ Completes s u 0 e 0x0004 0 0 ∧ ChangesOnly [.host, .mill] s u) ∧
      (e.dw 4 = 0 → Answers .ledgerAttach s fun u => u.host.ledger = none ∧ Completes s u 0 e 0 0 0 ∧ ChangesOnly [.host, .mill] s u)) ∧
    (∀ (k : Nat) (p : EntryPt) (ok : Bool) (ws : List Word), AdminReady s e 0x07 → k < 16 → e.reservedOk 5 = true →
      e.dw 2 = BitVec.ofNat 32 (k + 2 ^ 8 + 2 ^ 16) → (e.dw 3).toNat < 2 ^ 16 → jobCore s k = true → (s.rights k).mcw = true →
      (s.ctx (4 * k)).st = .halted → tget none s.host.entries (e.dw 3).toNat = some p → (s.core k).storesValid = true →
      (s.dom (k + 5)).state = .run → e.dw 4 = (s.ctx (4 * k)).acct.setWidth 32 → admissible s = true →
      Answers (.coreStart ok ws) s fun u =>
        u.ctx (4 * k) = { s.ctx (4 * k) with
          st := .run, pc := p.start, ds := [], rs := [], dspBase := p.dspBase, dspLimit := p.dspLimit, dspPtr := p.dspBase
          rspBase := p.rspBase, rspLimit := p.rspLimit, rspPtr := p.rspBase, vecBase := p.vecBase
          lands := [], snaps := [], trap := none, fbuf := false, mid := none } ∧
        (∀ c, c ≠ 4 * k → u.ctx c = s.ctx c) ∧ u.dom (k + 5) = { s.dom (k + 5) with stateReq := .run } ∧
        Completes s u 0 e 0 (islStat u (k + 5)) 0) ∧
    (∀ k, AdminReady s e 0x08 → k < 16 → e.reservedOk 3 = true → e.dw 2 = BitVec.ofNat 32 (k + 15 * 2 ^ 8 + 2 * 2 ^ 16) → jobCore s k = true →
      (∀ c, c / 4 = k → (s.ctx c).st = .halted ∧ (s.ctx c).stopDue = false) → (s.dom (k + 5)).state = .run →
      (s.core k).det = false → laneHeld s k = none → Answers .coreStop s fun u =>
        (u.dom (k + 5)).state = .off ∧ (u.dom (k + 5)).clockOn = false ∧ (u.core k).code = [] ∧ (u.core k).dlocal = [] ∧
        (u.core k).storesValid = false ∧ Completes s u 0 e 0 0 0) ∧
    (∀ k, AdminReady s e 0x09 → k < 16 → e.reservedOk 3 = true → jobCore s k = true → (s.xing 3).up = true → (s.xing (k + 5)).up = true →
      let settled (u : State) : Prop := ∀ c, c < 64 → u.ctx c = if c / 4 = k then { s.ctx c with parkDue := false } else s.ctx c
      (∀ c, c / 4 = k → (s.ctx c).st = .halted ∨ (s.ctx c).st = .wait) → coreOutstanding s k = false →
      (e.dw 2 = BitVec.ofNat 32 (k + 2 ^ 8) → (s.dom (k + 5)).locked = true → Answers .modeSet s fun u =>
        u.core k = { s.core k with det := true, pred := [] } ∧ settled u ∧ Completes s u 0 e 0 0 0 ∧ (∀ i, i ≠ k → u.core i = s.core i) ∧
        ChangesOnly [.ctxs, .cores, .host, .twin, .mill] s u) ∧
      (e.dw 2 = BitVec.ofNat 32 (k + 2 ^ 8) → (s.dom (k + 5)).locked = false → Answers .modeSet s fun u =>
        Completes s u 0 e 0x0501 3 0 ∧ ChangesOnly [.host, .mill] s u) ∧
      (e.dw 2 = BitVec.ofNat 32 k → laneHeld s k = none → Answers .modeSet s fun u =>
        u.core k = { s.core k with det := false, pred := [] } ∧ settled u ∧ Completes s u 0 e 0 0 0 ∧ (∀ i, i ≠ k → u.core i = s.core i) ∧
        ChangesOnly [.ctxs, .cores, .host, .twin, .mill] s u))

/-- R354, R359 to R366 and R368: a change set with one window entry is proposed under the next number and changes nothing in force; each consent
is checked; with both the map swaps, with the next epoch; three failures lock consent out; a key is provisioned once. -/
def Obligations.ProtectionNeedsBothConsents : Prop :=
  ∀ (s : State) (e : SqEnt),
    let p := s.prot
    (∀ (i size rights : Nat) (lo hi : Word), AdminReady s e 0x0C → e.reservedOk 7 = true → p.keyH ≠ none → p.keyF ≠ none → p.lockout = none →
      p.wait = none → readsNow s = true → (e.dw 2).toNat % 4 = 0 → (e.dw 5).toNat % 4 = 0 → e.dw 4 = 52 → i < 256 → 12 ≤ size → size ≤ 23 → rights < 128 →
      (lo.toNat + 2 ^ 32 * hi.toNat) % 2 ^ size = 0 → p.pCount < 100000 → lacksRights s p.map = false →
      let ws : List Word := [0x5E7A0C01, 0x00010001, p.epoch.extractLsb' 0 32, p.epoch.extractLsb' 32 32, 0, 52, 0, 0,
        BitVec.ofNat 32 (1 + i * 2 ^ 8), lo, hi, BitVec.ofNat 32 size, BitVec.ofNat 32 rights]
      let w : Win := ⟨lo.toNat + 2 ^ 32 * hi.toNat, size, rights.testBit 0, rights.testBit 1, rights.testBit 2, rights.testBit 3,
        rights.testBit 4, rights.testBit 5, rights.testBit 6⟩
      Answers (.protectPropose (.data ws)) s fun u =>
        u.prot.map = p.map ∧ u.prot.epoch = p.epoch ∧ u.prot.pNum = p.pNum + 1 ∧ u.prot.pCount = p.pCount + 1 ∧
        u.prot.pend = some ⟨p.pNum + 1, sha256 ws,
          { p.map with wins := tput i w p.map.wins }, false, false, s.nowUs⟩ ∧
        (u.ring 0).fetched = [] ∧ (u.ring 0).started = [] ∧ ChangesOnly [.prot, .host, .mill] s u) ∧
    (∀ (q : Proposal) (kH kF : List Word), AdminReady s e 0x0D → e.reservedOk 13 = true → p.keyH = some kH → p.keyF = some kF → p.wait = none →
      p.lockout = none → p.pend = some q → (e.dw 2).toNat + 2 ^ 32 * (e.dw 3).toNat = q.p.toNat → s.nowUs < q.atUs + 60000000 →
      let sig := (e.ws.drop 5).take 8
      let good (k : List Word) (party : Word) : Prop :=
        sig = hmacSha256 k (q.digest ++ [q.p.extractLsb' 0 32, q.p.extractLsb' 32 32, party, 0])
      (e.dw 4 = 0x48 → good kH 0x48 → q.f = false → Answers .protectConsent s fun u =>
        u.prot = { p with pend := some { q with h := true } } ∧ Completes s u 0 e 0x0201 0 0 ∧ ChangesOnly [.prot, .host, .mill] s u) ∧
      (e.dw 4 = 0x46 → good kF 0x46 → q.h = true → Answers .protectConsent s fun u =>
        u.prot = { p with pend := none, swap := some ⟨p.epoch + 1, q.map, q.p, q.digest, .ring e.cmd, false⟩ } ∧
        (u.ring 0).fetched = [] ∧ (u.ring 0).started = [⟨e.cmd, e, none⟩] ∧ ChangesOnly [.prot, .host, .mill] s u) ∧
      (e.dw 4 = 0x46 → ¬good kF 0x46 → p.fails < 2 → Answers .protectConsent s fun u =>
        u.prot = { p with fails := p.fails + 1 } ∧ Completes s u 0 e 0x0202 1 0 ∧ ChangesOnly [.prot, .host, .mill] s u) ∧
      (e.dw 4 = 0x48 → ¬good kH 0x48 → 2 ≤ p.fails → Answers .protectConsent s fun u =>
        u.prot = { p with fails := 3, lockout := some s.nowUs, pend := none } ∧ Completes s u 0 e 0x0202 1 0 ∧
        ChangesOnly [.prot, .host, .mill] s u)) ∧
    (∀ sw : Swap, p.swap = some sw → sw.path = .twin → sw.written = false → Answers .protectionSwap s fun u =>
      u.prot = { p with
        map := sw.map, epoch := sw.epoch, isDefault := false, fails := 0, swap := none, nextStore := !p.nextStore
        store0 := if p.nextStore then p.store0 else some (sw.epoch, sw.map)
        store1 := if p.nextStore then some (sw.epoch, sw.map) else p.store1 } ∧ ChangesOnly [.prot] s u) ∧
    (∀ at_, p.lockout = some at_ →
      (at_ + 600000000 ≤ s.nowUs → exec .lockoutEnd s = .next { s with prot := { p with lockout := none, fails := 0 } }) ∧
      (s.nowUs < at_ + 600000000 → exec .lockoutEnd s = .next s)) ∧
    (AdminReady s e 0x0E → e.reservedOk 11 = true → e.dw 2 = 0 → (∃ w ∈ (e.ws.drop 3).take 8, w ≠ 0) →
      (s.boot.straps.provEn = true → p.keyH = none → Answers (.keyProvision true false) s fun u =>
        u.prot = { p with keyH := some ((e.ws.drop 3).take 8) } ∧ Completes s u 0 e 0 0 0 ∧ ChangesOnly [.prot, .host, .mill] s u) ∧
      (s.boot.straps.provEn = true → p.keyH ≠ none → Answers (.keyProvision true false) s fun u =>
        Completes s u 0 e 0x0003 0 0 ∧ ChangesOnly [.host, .mill] s u) ∧
      (s.boot.straps.provEn = false → Answers (.keyProvision true false) s fun u => Completes s u 0 e 0x0206 0 0 ∧ ChangesOnly [.host, .mill] s u))

/-- R305, R311, R315, R316, R458, R464, R466, R482 and Tables 13.2 and 20.8: IDENTIFY and CAL_READ write their data and complete; a good page
replaces the calibration page and a bad one does not; a valid image goes to the flash slot not in use; LOG_FETCH delivers the log and releases
the Breadcrumbs. -/
def Obligations.StoredDataCommands : Prop :=
  ∀ (s : State) (e : SqEnt),
    let wrote (u : State) (ws : List Word) (r0 r1 : Word) : Prop :=
      ∃ pre, writtenWords pre = ws ∧ WritesEntry s u 0 pre e.cmd e.epoch 0 r0 r1 ∧ (u.ring 0).fetched = []
    (AdminReady s e 0x01 → e.reservedOk 4 = true → (e.dw 2).toNat % 4096 = 0 → Answers .identify s fun u =>
      (∃ ws, wrote u ws 4096 0 ∧ ws.length = 1024 ∧ ws.take 4 = [0x1625, 0xB0, Config.serial.extractLsb' 0 32, Config.serial.extractLsb' 32 32]) ∧
      ChangesOnly [.host, .mill] s u) ∧
    (∀ ws : List Word, AdminReady s e 0x0F → e.reservedOk 4 = true → (e.dw 2).toNat % 4096 = 0 → s.boot.calPage = some ws →
      Answers .calRead s fun u =>
        wrote u ws (if s.boot.calValid then 1 else 0) (BitVec.ofNat 32 s.boot.eraseCount) ∧ ChangesOnly [.host, .mill] s u) ∧
    (∀ ws : List Word, AdminReady s e 0x10 → e.reservedOk 5 = true → (e.dw 2).toNat % 4096 = 0 → e.dw 4 = 0x43414C57 → s.pass.isOpen = false →
      readsNow s = true → ws.length = 1024 →
      (calPageOk ws = true → Answers (.calWrite (.data ws) true false) s fun u =>
        u.boot = { s.boot with calPage := some ws, calValid := true, calBad := false, eraseCount := s.boot.eraseCount + 1 } ∧
        wrote u [] 0 (BitVec.ofNat 32 (s.boot.eraseCount + 1)) ∧ ChangesOnly [.boot, .host, .mill] s u) ∧
      (calPageOk ws = false → Answers (.calWrite (.data ws) true false) s fun u =>
        u.boot = s.boot ∧ (u.ring 0).fetched = [] ∧ ChangesOnly [.host, .mill] s u)) ∧
    (∀ (i : Nat) (ws : List Word), AdminReady s e 0x06 → e.reservedOk 6 = true → i < 2 → e.dw 2 = BitVec.ofNat 32 (i + 1) →
      (e.dw 3).toNat % 4 = 0 → (e.dw 5).toNat % 4 = 0 → 264 ≤ (e.dw 5).toNat → (e.dw 5).toNat ≤ 4194304 → s.boot.slot.toNat ≠ i →
      readsNow s = true → ws.length = (e.dw 5).toNat / 4 → imgLen ws = (e.dw 5).toNat →
      (imgValid s.prot.keyI ws = true → Answers (.imageLoad (.data ws) (.data ws) true false) s fun u =>
        u.boot = { s.boot with flashed := (s.boot.flashed.filter fun e => e.1 != i) ++ [(i, ws)] } ∧ wrote u [] (imgSeries ws) 0 ∧
        ChangesOnly [.boot, .host, .mill] s u) ∧
      (imgValid s.prot.keyI ws = false → Answers (.imageLoad (.data ws) (.data ws) true false) s fun u =>
        u.boot = s.boot ∧ (u.ring 0).fetched = [] ∧ ChangesOnly [.host, .mill] s u)) ∧
    (AdminReady s e 0x13 → e.reservedOk 6 = true → (e.dw 2).toNat % 4096 = 0 → e.dw 5 = BitVec.ofNat 32 (2 ^ 17 + 2 ^ 19) →
      s.faults.log.length ≤ 64 → (∀ l ∈ s.faults.log, l.bad = false ∧ l.ws.length = 8) → 4096 ≤ (e.dw 4).toNat → Answers (.logFetch []) s fun u =>
        (∃ h0 h1, wrote u (h0 :: h1 :: (s.faults.log.map fun l => l.ws).flatten) (BitVec.ofNat 32 (8 + 32 * s.faults.log.length)) 0 ∧
          fld h0 7 0 = 3 ∧ fld h0 31 16 = s.faults.log.length ∧ h1.getLsbD 0 = s.faults.frozen ∧ fld h1 15 8 = s.faults.lostLog.toNat ∧
          fld h1 31 16 = 8 + 32 * s.faults.log.length) ∧
        u.faults = { s.faults with frozen := false, lostLog := 0 } ∧ ChangesOnly [.faults, .host, .mill] s u)

/-- R22, R404 to R408, R414, R439, Tables 12.9 and 17.3: PASS_BEGIN opens a pass with its parameters, PASS_UPDATE brings position, motion, time and
RDG_HEAD, PASS_END passes its idle candidates by and closes the pass once its exchanges have ended, STAKE_QUERY reads one record and answers its
decision code and charge; each refuses what does not hold. -/
def Obligations.PassCommandsRun : Prop :=
  ∀ (s : State) (n : Nat) (e : SqEnt), HeadReady s n e → n ≠ 0 →
    let p := s.pass
    (e.opcode = 0x40 →
      (p.isOpen = true → Answers (.passBegin n) s fun u => Completes s u n e 0x0404 0 0 ∧ ChangesOnly [.host, .mill] s u) ∧
      (p.isOpen = false → s.host.ledger = none → Answers (.passBegin n) s fun u =>
        Completes s u n e 0x0405 0 0 ∧ ChangesOnly [.host, .mill] s u) ∧
      (∀ l, p.isOpen = false → s.host.ledger = some l → passFieldsOk e = true →
        windowOk s n (fld (e.dw 12) 7 0) (e.dw 13).toNat (64 * 2 ^ fld (e.dw 12) 12 8) true = true → Answers (.passBegin n) s fun u =>
          u.pass = {
            isOpen := true, ring := n, dws := (e.ws.drop 2).take 14, beginUs := s.nowUs, port := if (e.dw 2).getLsbD 8 then 0 else 1
            slots := 2 ^ fld (e.dw 12) 12 8, speed := p.speed, heading := p.heading, hostTime := p.hostTime, gnssTime := p.gnssTime
            txLog := p.txLog, air := p.air } ∧
          Completes s u n e 0 (BitVec.ofNat 32 l.2.2) 0 ∧ Journals s.hearth u 2 ∧ ChangesOnly [.host, .pass, .hearth, .mill] s u)) ∧
    (e.opcode = 0x41 →
      (p.isOpen = false ∨ p.ring ≠ n → Answers (.passUpdate n) s fun u => Completes s u n e 0x0403 0 0 ∧ ChangesOnly [.host, .mill] s u) ∧
      (p.isOpen = true → p.ring = n → e.reservedOk 9 = true → (e.dw 2).toNat < 8 → (e.dw 6).toNat < 65536 → (e.dw 7).toNat < 86400000 →
        (e.dw 8).toNat < 2 ^ 14 → (e.dw 8).toNat < p.slots → p.held = [] → Answers (.passUpdate n) s fun u =>
          let takes := (e.dw 2).getLsbD 1 && decide (2 ≤ timeSource s)
          let rtc := ((e.dw 6).toNat * 86400000 + (e.dw 7).toNat) * 1000 * 32768 / 1000000
          u.pass = { p with
            posHost := if (e.dw 2).getLsbD 0 then some ((e.dw 3).toInt, (e.dw 4).toInt, s.nowUs) else p.posHost
            speed := if (e.dw 2).getLsbD 2 then fld (e.dw 5) 15 0 else p.speed
            heading := if (e.dw 2).getLsbD 2 then (e.dw 5).extractLsb' 16 16 else p.heading
            hostTime := if takes then some (⟨(e.dw 6).toNat, (e.dw 7).toNat⟩, s.nowUs) else p.hostTime
            travelMm := u.pass.travelMm, rdgHead := (e.dw 8).toNat
            rdgCount := p.rdgCount - ((e.dw 8).toNat + p.slots - p.rdgHead) % p.slots, full := false } ∧
          ((e.dw 2).getLsbD 0 = false → u.pass.travelMm = p.travelMm) ∧
          Completes s u n e (if p.full then 0x0406 else 0) (if takes then 1 else 0) 0 ∧
          u.hearth = (if takes then
            { s.hearth with setHi := BitVec.ofNat 16 (rtc / 2 ^ 32), setDue := true, setLo := BitVec.ofNat 32 rtc } else s.hearth) ∧
          ChangesOnly [.host, .pass, .hearth, .mill] s u)) ∧
    (e.opcode = 0x42 →
      (p.isOpen = false ∨ p.ring ≠ n ∨ p.ending = true → Answers (.passEnd n) s fun u =>
        Completes s u n e 0x0403 0 0 ∧ ChangesOnly [.host, .mill] s u) ∧
      (p.isOpen = true → p.ring = n → p.ending = false → e.reservedOk 4 = true → e.dw 2 = 0xFF → (e.dw 3).toNat % 64 = 0 →
        let passedBy (u : State) (is : List Nat) : Prop := ∀ k, tget 0 u.pass.stats k = tget 0 p.stats k + (if k = 10 then BitVec.ofNat 32 is.length else 0)
        (p.exchs = [] → p.held = [] → (s.ring n).started = [] → s.twin.wah = [] → Answers (.passEnd n) s fun u =>
          u.pass = { p with
            isOpen := false, ending := false, cmd := e.cmd, exchs := [], cands := [], skipped := p.skipped ++ p.cands, stats := u.pass.stats } ∧
          passedBy u p.cands ∧ Completes s u n e 0 (tget 0 p.stats 0) (tget 0 p.stats 10 + BitVec.ofNat 32 p.cands.length) ∧
            Journals s.hearth u 3 ∧ ChangesOnly [.host, .pass, .hearth, .mill] s u) ∧
        (p.exchs ≠ [] ∨ p.held ≠ [] → (∀ x ∈ p.exchs, x.onAir = true) → Answers (.passEnd n) s fun u =>
          let idle := idleCands s
          u.pass = { p with
            ending := true, cmd := e.cmd, cands := p.cands.filter fun i => i ∉ idle, skipped := p.skipped ++ idle, stats := u.pass.stats } ∧
          passedBy u idle ∧ (u.ring n).fetched = [] ∧
          (u.ring n).started = (s.ring n).started ++ [⟨e.cmd, e, none⟩] ∧ u.host.sent = s.host.sent ∧ ChangesOnly [.host, .pass] s u))) ∧
    (∀ l, e.opcode = 0x43 → s.host.ledger = some l → e.reservedOk 3 = true → (e.dw 2).toNat < 2 ^ 18 → (e.dw 2).toNat < l.2.2 →
      let a := ledgerAddr s (e.dw 2).toNat
      let ns := ledgerNs s (e.dw 2).toNat
      let i := (dmaTag s).getD 8
      let pre : List Tlp := [.read i (a + 60) 4 ns, .read i (a + 4) 56 ns, .read i a 4 ns]
      readsNow s = true →
      (∀ ws, recWhole ws = true → Answers (.stakeQuery n (.data ws)) s fun u =>
        let r := recSeen false ws
        (∃ code charge, WritesEntry s u n pre e.cmd e.epoch 0 (BitVec.ofNat 32 code) charge ∧ (recRetired r = true → code = 5) ∧
          (∀ k, skipCode s r = some k → code = k) ∧ (skipCode s r = none → targetedNext s r = true → code = 0) ∧
          (skipCode s r = none → targetedNext s r = false → code = 1 ∨ code = 2 ∧ p.isOpen = true ∧ recGroup r ≠ 0) ∧
          (recCap r = 0 → charge = 0xFFFFFFFF)) ∧
        (u.ring n).fetched = [] ∧
        (u.acct (s.ring n).acct.toNat).chargedDma = (s.acct (s.ring n).acct.toNat).chargedDma + 80 ∧ ChangesOnly [.host, .mill, .free] s u) ∧
      (∀ st, Answers (.stakeQuery n (.err st)) s fun u =>
        WritesEntry s u n pre e.cmd e.epoch 0x0005 0 0 ∧ (u.ring n).fetched = [] ∧ LogsFault s u 0x05 1 ∧
        u.fab.hbErr = BitVec.ofNat 16 st ∧ u.fab.hbErrAddr = BitVec.ofNat 64 a ∧ ChangesOnly [.host, .mill, .fab, .faults, .clk] s u))

/-- R22, R197, R377, R381 to R397, R409 to R411, R414 to R426 and Tables 16.2 to 17.4: a wake is placed when everything lets it; it goes on air at its
power while the front-ends are owned; a good reply in its window is recorded once and acknowledged; the end of a stake's exchange writes its
record back and one reading record; a record read again is whole or torn. -/
def Obligations.WakesAndReplies : Prop :=
  ∀ s : State, s.pass.isOpen = true →
    let p := s.pass
    (∀ i ch at_ t q (r : List Word), p.ending = false → ch < nch s → s.nowUs ≤ at_ → placeable s i = true → readerTime s = some t →
      positionAt s at_ = some q → r ≠ [] → i ∉ p.torn → canSend s = true → readsNow s = true →
      let v := recSeen false r
      let a := ledgerAddr s i
      let ns := ledgerNs s i
      let g := (dmaTag s).getD 8
      let reads (u : State) : Prop := u.host = { s.host with sent := s.host.sent ++ [.read g (a + 60) 4 ns, .read g (a + 4) 56 ns, .read g a 4 ns] }
      (recWhole r = true → inRange s q i v = true → skipCode s v = none → (targetedAt s v at_ = true → aligned s v at_ = true) →
        let k := if targetedAt s v at_ then 0 else 1
        let dur := if targetedAt s v at_ then 12750 else 268750
        let x : Exch := ⟨[i], [v], k, wakePower s i v (dist2 q v), ch, p.port, at_, t + (at_ + dur) - s.nowUs, false, [], none, [], [], 0⟩
        sessions s + 1 ≤ 1024 → p.rdgCount + sessions s + 1 ≤ p.slots → clearOf s ch at_ (at_ + dur) = true → windowsClear s x = true →
        (s.chan ch).coex = .alone → dutyCovers s ch (dur + 3 * 11520) = true → Answers (.wakePlace [i] [r] ch at_) s fun u =>
          u.pass = { p with exchs := p.exchs ++ [x], chans := u.pass.chans, cands := if i ∈ p.cands then p.cands else p.cands ++ [i] } ∧
          (∀ d, u.chan d = if k = 1 ∧ d = ch then { s.chan ch with coldWanted := false } else s.chan d) ∧ reads u ∧
          ChangesOnly [.pass, .host, .mill] s u) ∧
      (recWhole r = true → inRange s q i v = false → Answers (.wakePlace [i] [r] ch at_) s fun u =>
        u.pass = (if i ∈ p.cands then { p with
          cands := p.cands.filter fun j => j ≠ i, skipped := p.skipped ++ [i], stats := tput 10 (tget 0 p.stats 10 + 1) p.stats } else p) ∧
        reads u ∧ ChangesOnly [.pass, .host, .mill] s u) ∧
      (∀ code, recWhole r = true → inRange s q i v = true → skipCode s v = some code → code = 3 ∨ code = 4 ∨ code = 5 →
        Answers (.wakePlace [i] [r] ch at_) s fun u =>
          u.pass = { p with
            cands := p.cands.filter fun j => j ≠ i, skipped := p.skipped ++ [i], stats := tput (code + 4) (tget 0 p.stats (code + 4) + 1) p.stats } ∧ reads u ∧
          ChangesOnly [.pass, .host, .mill] s u) ∧
      (recWhole r = false → Answers (.wakePlace [i] [r] ch at_) s fun u =>
        u.pass = { p with reread := if i ∈ p.reread then p.reread else p.reread ++ [i] } ∧ reads u ∧ ChangesOnly [.pass, .host, .mill] s u)) ∧
    (∀ i (x : Exch), p.exchs[i]? = some x →
      (x.onAir = false → p.ending = false → x.kind ≤ 3 →
        (s.twin.feOwn = false ∨ s.nowUs < x.startUs → ∀ nc, exec (.wakeStart i nc) s = .next s) ∧
        (s.twin.feOwn = true → x.startUs ≤ s.nowUs → (s.chan x.ch).coex = .contend →
          exec (.wakeStart i false) s = .next { s with pass := { p with exchs := p.exchs.eraseIdx i } }) ∧
        (∀ nc, s.twin.feOwn = true → x.startUs ≤ s.nowUs → coexStill s x = false →
          exec (.wakeStart i nc) s = .next { s with pass := { p with exchs := p.exchs.eraseIdx i } }) ∧
        (∀ nc, s.twin.feOwn = true → x.startUs ≤ s.nowUs → coexStill s x = true → (s.chan x.ch).coex ≠ .contend ∨ nc = true →
          dutyCovers s x.ch 0 = false →
          exec (.wakeStart i nc) s = .next { s with pass := { p with
            exchs := p.exchs.eraseIdx i, stats := tput 11 (tget 0 p.stats 11 + 1) p.stats } }) ∧
        (∀ nc, s.twin.feOwn = true → x.startUs ≤ s.nowUs → coexStill s x = true → (s.chan x.ch).coex ≠ .contend ∨ nc = true →
          dutyCovers s x.ch 0 = true →
          Answers (.wakeStart i nc) s fun u =>
          (∃ w : Word, u.pass = { p with
              exchs := p.exchs.set i { x with onAir := true }
              stats := tput (x.kind + 1) (tget 0 p.stats (x.kind + 1) + 1) p.stats
              air := p.air ++ [⟨x.ch, x.port, x.startUs, x.power, amplitudeOf s x.port x.power,
                .wake (if x.kind = 0 then 4000 else 260000) w⟩]
              txLog := u.pass.txLog, discNo := if x.kind = 3 then p.discNo + 1 else p.discNo } ∧
            fld w 28 24 = (ownRid s).toNat % 32 ∧ fld w 31 29 = x.kind - 1 ∧
            fld w 23 8 = (if x.kind < 2 then recHash (x.recs.headD []) else if x.kind = 2 then recGroup (x.recs.headD []) else 0xFFFF)) ∧
          (chKhz s x.ch, x.startUs, if x.kind = 0 then 12750 else 268750) ∈ u.pass.txLog ∧ ChangesOnly [.pass] s u)) ∧
      (∀ b snr at_, let who := placeOf x (repId b)
        (x.onAir = false ∨ (s.fe x.port).stalled = true ∨ replyOk s b = false ∨ inWindow x who at_ = false ∨ s.nowUs < at_ + frameUs b →
          exec (.replyFrame i b snr at_) s = .next s) ∧
        (x.onAir = true → (s.fe x.port).stalled = false → replyOk s b = true → inWindow x who at_ = true → at_ + frameUs b ≤ s.nowUs → x.kind < 3 →
          who < x.recs.length → (BitVec.ofNat 32 (repId b), repSeq b) ∉ p.recorded → exec (.replyFrame i b snr at_) s = .next { s with
            pass := { p with
              exchs := p.exchs.set i { x with ackDue := some ⟨who, b, snr, at_⟩, replies := x.replies ++ [⟨who, b, snr, at_⟩] }
              recorded := p.recorded ++ [(BitVec.ofNat 32 (repId b), repSeq b)] } })) ∧
      (∀ (rp : Reply) (r : List Word), x.ackDue = some rp → x.kind < 3 → x.recs[rp.who]? = some r → recBlank r = false →
        recEnrSeason r = season s → listenMin s = 0 →
        (s.twin.feOwn = false →
          exec (.ackSend i) s = .next { s with pass := { p with exchs := p.exchs.set i { x with ackDue := none } } }) ∧
        (s.twin.feOwn = true → s.nowUs < ackAt rp → exec (.ackSend i) s = .next s) ∧
        (s.twin.feOwn = true → ackAt rp ≤ s.nowUs → Answers (.ackSend i) s fun u =>
          let b := frameBytes ([0x01] ++ beBytes 4 (repId rp.bytes) ++ [repSeq rp.bytes] ++ beBytes 2 (ownRid s).toNat)
          u.pass = { p with
            exchs := p.exchs.set i { x with ackDue := none, ackUs := x.ackUs + frameUs b }
            air := p.air ++ [⟨x.ch, x.port, rp.atUs + 160 * (7 + rp.bytes.length) + 2000, x.power, amplitudeOf s x.port x.power, .ack b⟩]
            txLog := u.pass.txLog } ∧ ChangesOnly [.pass] s u)) ∧
      (∀ (idx : Nat) (r : List Word) (sync : Bool), x.onAir = true → x.kind < 3 → x.idxs = [idx] → x.recs = [r] → r.length = 16 →
        x.ended = [] → x.ackDue = none → lastWindow x 0 ≤ s.nowUs → p.ending = false →
        (s.twin.feOwn = false →
          exec (.exchangeEnd i 0 sync true []) s = .next { s with pass := { p with exchs := p.exchs.eraseIdx i } }) ∧
        (s.twin.feOwn = true → p.held = [] → p.rdgCount < p.slots → canSend s = true →
        let a := ledgerAddr s idx
        let rd := hostAddr s (fld (dwOf s 12) 7 0) ((dwOf s 13).toNat + 64 * p.slot)
        let ns := ledgerNs s idx
        let rdns := (s.win (fld (dwOf s 12) 7 0)).ns
        let took (u : State) (k : Nat) (cands : List Nat) : Prop :=
          u.pass = { p with
            exchs := p.exchs.eraseIdx i, cands := cands, unanswered := u.pass.unanswered, torn := p.torn.filter fun j => j ≠ idx
            stats := tput k (tget 0 p.stats k + 1) p.stats, slot := if p.slot + 1 < p.slots then p.slot + 1 else 0
            phase := if p.slot + 1 < p.slots then p.phase else !p.phase, rdgCount := p.rdgCount + 1 } ∧
          ChangesOnly [.pass, .host, .mill, .free] s u
        let writes (u : State) (v ws : List Word) : Prop :=
          u.host = { s.host with sent := s.host.sent ++
            [.write a [nthW r 15 + 1] ns, .write (a + 4) ((v.drop 1).take 14) ns, .write (a + 60) [nthW r 15 + 1] ns, .write rd ws rdns] } ∧
          v.length = 16 ∧ recId v = recId r ∧ recX v = recX r ∧ recY v = recY r ∧ recCap v = recCap r ∧ ws.length = 16 ∧
          nthW ws 1 = BitVec.ofNat 32 (idx % 2 ^ 18 + if p.phase then 2 ^ 31 else 0)
        idx < 2 ^ 18 →
        (x.replies = [] → Answers (.exchangeEnd i 0 sync true []) s fun u =>
          (∃ v ws, writes u v ws ∧ nthW v 10 = (nthW r 10 <<< 8) ||| 0x80 ∧ recNread v = recNread r ∧ nthW ws 0 = recId r ∧
            fld (nthW ws 2) 15 0 = (if sync then 0x0402 else 0x0401)) ∧
          took u (if sync then 6 else 5) p.cands ∧ u.pass.unanswered = p.unanswered ++ [idx]) ∧
        (∀ rp : Reply, x.replies = [rp] → rp.who = 0 → Answers (.exchangeEnd i 0 sync true []) s fun u =>
          (∃ v ws, writes u v ws ∧ recNew v = false ∧ recPhaseOk v = true ∧ recTimingOk v = true ∧ recNread v = min 255 (recNread r + 1) ∧
            nthW v 7 = BitVec.ofNat 32 (repRtc rp.bytes) ∧ nthW ws 0 = BitVec.ofNat 32 (repId rp.bytes) ∧ fld (nthW ws 2) 15 0 = 0) ∧
          took u 0 (p.cands.filter fun j => j ≠ idx) ∧ u.pass.unanswered = p.unanswered)))) ∧
    (∀ idx (r : List Word), idx ∈ p.reread → r ≠ [] → canSend s = true → readsNow s = true → Answers (.ledgerReread idx r) s fun u =>
      u.pass = { p with
        reread := p.reread.filter fun j => j ≠ idx
        torn := if recWhole r then p.torn else p.torn ++ [idx]
        stats := if recWhole r then p.stats else tput 13 (tget 0 p.stats 13 + 1) p.stats } ∧ ChangesOnly [.pass, .host, .mill] s u)

/-- R376, R389, R396, R398 to R402, R412, R413, R436, R496 and Table 16.9: an RMC gives motion and, when it labels a PPS edge, time; a PPS edge
is latched and starts a second; loss of PPS or of its label ends SHARING; beacons go out, and readers heard move a channel's state. -/
def Obligations.TimeAndChannels : Prop :=
  ∀ s : State,
    let p := s.pass
    let settled (u : State) (f : Nat → Coex) : Prop := ∀ ch, ch < 4 →
      u.chan ch = if (s.chan ch).coex = .alone then s.chan ch else { s.chan ch with coex := f ch }
    let label := s.nowUs - (s.util.d1Now - s.util.ppsTime).toNat / 100
    (∀ m : Rmc,
      (m.checksumOk = false ∨ m.statusA = false → exec (.rmcSentence m) s = .next s) ∧
      (m.checksumOk = true → m.statusA = true →
        let moved (u : State) : Prop :=
          (u.pass.speed = m.speedMkn * 514444 / 1000000 ∨ u.pass.speed = m.speedMkn * 514444 / 1000000 + 1) ∧ u.pass.heading = m.course
        (100000000 < sinceEdge s ∨ s.util.present = false → Answers (.rmcSentence m) s fun u =>
          moved u ∧ u.pass = { p with speed := u.pass.speed, heading := u.pass.heading } ∧ ChangesOnly [.pass, .free] s u) ∧
        (sinceEdge s ≤ 100000000 → s.util.present = true → p.isOpen = false → Answers (.rmcSentence m) s fun u =>
          moved u ∧
          u.pass = { p with
            speed := u.pass.speed, heading := u.pass.heading, gnssTime := some (⟨m.day, m.ms⟩, label), chans := u.pass.chans } ∧
          (s.hearth.rtcValid = false → u.hearth.setDue = true) ∧
          u.hearth = { s.hearth with setHi := u.hearth.setHi, setDue := u.hearth.setDue, setLo := u.hearth.setLo } ∧
          ChangesOnly [.pass, .hearth, .free] s u))) ∧
    (s.boot.inReset = true ∨ (s.util.present = true ∧ sinceEdge s < 90000000) → exec .ppsEdge s = .next s) ∧
    (s.boot.inReset = false → s.util.present = false ∨ 90000000 ≤ sinceEdge s → Answers .ppsEdge s fun u =>
      u.util = { s.util with
        ppsTime := s.util.d1Now, edges := if s.util.edges = 0xFFFF then 0xFFFF else s.util.edges + 1, present := true } ∧ QueuesLine s u 16 12 ∧
      u.pass = { p with chans := u.pass.chans } ∧
      (∀ ch, (s.chan ch).ownNext = false → (s.chan ch).peerNext = false →
        let c := s.chan ch
        let lower := decide ((ownRid s).toNat < (peerRid s ch).toNat)
        (c.ownAsked = false → c.peerAsked = false → (u.chan ch).ownLong = false ∧ (u.chan ch).peerLong = false) ∧
        (c.ownAsked = true → c.peerAsked = false → (u.chan ch).ownLong = true ∧ (u.chan ch).peerLong = false) ∧
        (c.ownAsked = false → c.peerAsked = true → (u.chan ch).ownLong = false ∧ (u.chan ch).peerLong = true) ∧
        (c.ownAsked = true → c.peerAsked = true → c.foreign ≠ [] →
          (u.chan ch).ownLong = lower ∧ (u.chan ch).peerLong = !lower ∧ (u.chan ch).ownNext = !lower ∧ (u.chan ch).peerNext = lower)) ∧
      ChangesOnly [.util, .clk, .pass] s u) ∧
    (s.util.present = true → sinceEdge s < 120000000 → exec .ppsAbsent s = .next s) ∧
    (ppsLocked s = true → exec .ppsLockLapse s = .next s) ∧
    ((s.util.present = false ∨ 120000000 ≤ sinceEdge s → Answers .ppsAbsent s fun u =>
        u.util = { s.util with present := false } ∧ settled u (coexWith s) ∧ u.pass = { p with chans := u.pass.chans } ∧
        ChangesOnly [.util, .pass] s u) ∧
      (ppsLocked s = false → Answers .ppsLockLapse s fun u =>
        settled u (fun _ => .contend) ∧ u.pass = { p with gnssTime := none, chans := u.pass.chans } ∧ ChangesOnly [.pass] s u)) ∧
    (∀ ch, p.isOpen = true → ch < nch s →
      (s.twin.feOwn = false → exec (.beaconSend ch) s = .next s) ∧
      (s.twin.feOwn = true →
        let c := s.chan ch
        let bcn (k flags peer : Nat) := frameBytes
          ([0x02] ++ beBytes 2 (ownRid s).toNat ++ [BitVec.ofNat 8 k, BitVec.ofNat 8 ((if ppsLocked s then 1 else 0) + flags)] ++ beBytes 2 peer)
        let sends (u : State) (b : List Byte) (ask : Bool) : Prop :=
          u.pass = { p with
            air := p.air ++ [⟨ch, p.port, s.nowUs, topPower s, amplitudeOf s p.port (topPower s), .beacon b⟩]
            txLog := u.pass.txLog, chans := u.pass.chans } ∧
          u.chan ch = { c with ownAsked := ask } ∧ ChangesOnly [.pass] s u
        let us := 160 * (7 + 10)
        (beaconMay s ch us = false ∨ dutyCovers s ch us = false → exec (.beaconSend ch) s = .next s) ∧
        (beaconMay s ch us = true → dutyCovers s ch us = true →
        (c.coex = .alone → Answers (.beaconSend ch) s fun u => sends u (bcn 0 0 0) false) ∧
        (c.coex = .contend → Answers (.beaconSend ch) s fun u => sends u (bcn 0 4 0) false) ∧
        (c.coex = .sharing → Answers (.beaconSend ch) s fun u =>
          let ask := c.coldWanted && !c.ownLong && !c.peerLong
          sends u (bcn (if ridLower s ch then 0 else 1) (2 + if ask then 8 else 0) (peerRid s ch).toNat) ask))) ∧
      (∀ (rid : BitVec 16) (b : BitVec 8 × BitVec 8 × BitVec 16), s.chan ch = {} →
        (rid ≠ ownRid s → Answers (.foreignReaderFrame ch rid (some b)) s fun u =>
          u.chan ch = {
            foreign := [(rid, s.nowUs, b.2.1.getLsbD 0)], peerAsked := false
            coex := if ppsLocked s && b.2.1.getLsbD 0 then .sharing else .contend } ∧
          (∀ d, d ≠ ch → u.chan d = s.chan d) ∧ u.pass = { p with chans := u.pass.chans } ∧ ChangesOnly [.pass] s u) ∧
        (rid = ownRid s → Answers (.foreignReaderFrame ch rid none) s fun u =>
          u.chan ch = { foreign := [(rid, s.nowUs, false)], coex := .contend } ∧
          u.pass = { p with chans := u.pass.chans, stats := tput 12 (tget 0 p.stats 12 + 1) p.stats } ∧ ChangesOnly [.pass] s u)) ∧
      (heardNow s ch ≠ [] → exec (.coexQuietTimeout ch) s = .next s) ∧
      (heardNow s ch = [] → exec (.coexQuietTimeout ch) s = .next { s with pass := { p with chans := tput ch {} p.chans } }))

/-- R428 to R446, R51, R442 to R445, Tables 18.4 and 18.5: the Hearth changes its source and tells S and the journal; its clock, wake output and
journal port; the watchdog is kicked, warns and resets; each reset keeps what it keeps and clears the rest, and its release starts bring-up; an
island's reset acts on that island. -/
def Obligations.HearthWatchdogResets : Prop :=
  ∀ s : State,
    let h := s.hearth
    let after (u : State) (keep por : Bool) (cause : Nat) : Prop :=
      u.boot.inReset = true ∧ u.boot.ready = false ∧ u.boot.phase = 0 ∧ u.boot.straps = ⟨0, 0, false, false⟩ ∧ u.ctxs = [] ∧ u.cx = {} ∧
      u.mill = State.reset.mill ∧ u.twin = { tsent := s.twin.tsent } ∧ u.pass = { air := s.pass.air } ∧
      u.fab.sram = (if por then [] else s.fab.sram) ∧ u.fab.tags = [] ∧ u.fab.mboxes = [] ∧
      (∀ d, d < 4 → u.dom d = State.reset.dom d) ∧ (∀ d, 4 ≤ d → d < 21 → u.dom d = { inRst := true }) ∧
      u.host.rings = [] ∧ u.host.adminEn = false ∧ u.host.fatal = false ∧ u.host.msix = (if keep then s.host.msix else []) ∧
      u.host.linkUp = (keep && s.host.linkUp) ∧ u.host.busMaster = (keep && s.host.busMaster) ∧
      u.prot.store0 = s.prot.store0 ∧ u.prot.store1 = s.prot.store1 ∧ u.prot.pNum = s.prot.pNum ∧ u.prot.fails = s.prot.fails ∧
      u.prot.keyH = s.prot.keyH ∧ u.prot.keyF = s.prot.keyF ∧ u.prot.keyI = s.prot.keyI ∧
      u.hearth.resetCause = BitVec.ofNat 8 cause ∧ u.hearth.journal = h.journal ∧ u.hearth.wdtEn = false ∧ u.hearth.hjAddr = 0 ∧
      u.hearth.wdtResets = (if por then 0 else if cause = 8 then satInc h.wdtResets else h.wdtResets) ∧
      u.faults = (if por then {} else if s.faults.frozen then s.faults else { seq := s.faults.seq }) ∧
      u.pending = s.pending ∧ u.nowUs = s.nowUs ∧ u.rdata = s.rdata
    let kept (u : State) : Prop := u.hearth.rtc = h.rtc ∧ u.hearth.rtcValid = h.rtcValid ∧ u.hearth.trim = h.trim ∧ u.free = s.free
    (h.onVbat = true → (∀ mv, exec (.mainFall mv) s = .next s) ∧ (∀ mv, exec (.vbatMeasure mv) s = .next s) ∧
      exec .hearthWakeRelease s = .next s) ∧
    (h.onVbat = false → (∀ mv, exec (.vbatFall mv) s = .next s) ∧ exec .mainGoodCount s = .next s ∧
      exec .hearthWakeRelease s = .next { s with hearth := { h with wakeLow := false } } ∧
      (∀ mv, mv < 4096 → exec (.vbatMeasure mv) s = .next { s with hearth := { h with
        vbatMv := BitVec.ofNat 12 mv, vbatLow := decide (mv < 2500) } }) ∧
      (∀ mv, mv < 1900 → exec (.mainFall mv) s = .next { s with hearth := { h with
        jnlRest := [], jnlNext := if 1022 < h.jnlRest.length then !h.jnlNext else h.jnlNext, lossLatch := true } }) ∧
      (∀ mv, 1900 ≤ mv → Answers (.mainFall mv) s fun u =>
        u.hearth = { h with
          jnlRest := [], jnlNext := if 1022 < h.jnlRest.length then !h.jnlNext else h.jnlNext
          onVbat := true, switched := true, jnlDue := h.jnlDue ++ [8] } ∧ QueuesLine s u 16 10 ∧
        ChangesOnly [.hearth, .clk] s u)) ∧
    (h.onVbat = true →
      (Answers .mainGoodCount s fun u =>
        Journals { h with onVbat := false, switched := true } u 8 ∧ QueuesLine s u 16 10 ∧ ChangesOnly [.hearth, .clk] s u) ∧
      (∀ mv, 2700 ≤ mv → Answers (.vbatFall mv) s fun u =>
        Journals { h with onVbat := false, early := true, switched := true } u 8 ∧ QueuesLine s u 16 10 ∧
        ChangesOnly [.hearth, .clk] s u) ∧
      (∀ mv, mv < 2700 → exec (.vbatFall mv) s = .next { s with hearth := { h with lossLatch := true } })) ∧
    (Answers .xtalFail s fun u =>
      u.hearth = { h with rtcValid := false, xtalFail := true, xtalStopped := true } ∧ QueuesLine s u 16 10 ∧
      ChangesOnly [.hearth, .clk] s u) ∧
    exec .crystalRestart s = .next { s with hearth := { h with xtalStopped := false } } ∧
    (h.wakeEn = true → h.rtc = h.wakeAt → exec .hearthWake s = .next { s with hearth := { h with wakeLow := true } }) ∧
    (h.wakeEn = false ∨ h.rtc ≠ h.wakeAt → exec .hearthWake s = .next s) ∧
    exec .hwakeClr s = .next { s with hearth := { h with wakeLow := false } } ∧
    (∀ w, exec (.hrtSet w) s = .next { s with hearth := { h with setDue := true, setLo := w } }) ∧
    exec .hrtLoRead s = .next { s with
      rdata := BitVec.ofNat 32 h.rtc.toNat, hearth := { h with hrtHi := BitVec.ofNat 16 (h.rtc.toNat / 2 ^ 32) } } ∧
    (let a := 4 * h.hjAddr.toNat
     (h.onVbat = false →
       exec (.hjDataAccess none) s = .next { s with rdata := readWord h.journal a, hearth := { h with hjAddr := h.hjAddr + 1 } } ∧
       (∀ w, Answers (.hjDataAccess (some w)) s fun u =>
         readWord u.hearth.journal a = w ∧ (∀ b, b < a ∨ a + 4 ≤ b → readByte u.hearth.journal b = readByte h.journal b) ∧
         u.hearth = { h with hjAddr := h.hjAddr + 1, journal := u.hearth.journal } ∧ ChangesOnly [.hearth] s u)) ∧
     (h.onVbat = true →
       exec (.hjDataAccess none) s = .next { s with rdata := 0, hearth := { h with hjAddr := h.hjAddr + 1 } } ∧
       (∀ w, exec (.hjDataAccess (some w)) s = .next { s with hearth := { h with hjAddr := h.hjAddr + 1 } }))) ∧
    (s.pass.isOpen = true → Answers .journalHourlyEntry s fun u => Journals h u 6 ∧ ChangesOnly [.hearth] s u) ∧
    (s.pass.isOpen = false → exec .journalHourlyEntry s = .next s) ∧
    (h.wdtEn = false → (∀ w, exec (.wdtKick w) s = .next s) ∧ exec .wdtWarn s = .next s ∧ exec .wdtTimeout s = .next s) ∧
    (h.wdtEn = true →
      exec (.wdtKick 0x5E7A) s = .next { s with hearth := { h with wdtUs := 0, wdtHalf := false } } ∧
      (∀ w, w ≠ 0x5E7A → Answers (.wdtKick w) s fun u => after u true false 8 ∧ kept u) ∧
      (h.wdtUs < 1000 * h.wdtMs.toNat → exec .wdtTimeout s = .next s) ∧
      (1000 * h.wdtMs.toNat ≤ h.wdtUs → Answers .wdtTimeout s fun u => after u true false 8 ∧ kept u) ∧
      (h.wdtUs < 500 * h.wdtMs.toNat ∨ h.wdtHalf = true → exec .wdtWarn s = .next s) ∧
      (500 * h.wdtMs.toNat ≤ h.wdtUs → h.wdtHalf = false → Answers .wdtWarn s fun u =>
        u.hearth = { h with wdtWarn := true, wdtHalf := true } ∧ QueuesLine s u 16 10 ∧
        ChangesOnly [.hearth, .clk] s u)) ∧
    (Answers .resetN s fun u => after u true false 4 ∧ kept u) ∧
    (Answers .perstN s fun u => after u false false 2 ∧ kept u) ∧
    (Answers (.powerOnReset false) s fun u => after u false true 16 ∧ kept u) ∧
    (Answers (.powerOnReset true) s fun u =>
      after u false true 1 ∧ u.hearth.lossLatch = true ∧ u.hearth.trim = 0 ∧ u.hearth.wakeEn = false) ∧
    (∀ st : Straps,
      (s.boot.inReset = false → exec (.deviceResetRelease st) s = .next s) ∧
      (s.boot.inReset = true → Answers (.deviceResetRelease st) s fun u =>
        u.boot = { s.boot with straps := st, inReset := false, phase := if st.testMode then 0 else 1, elapsedUs := 0 } ∧
        (∀ d, u.dom d = if d < 25 then { s.dom d with inRst := false } else s.dom d) ∧
        u.twin = { s.twin with rand := u.twin.rand } ∧ ChangesOnly [.boot, .clk, .twin, .free] s u)) ∧
    (∀ m : Word, (∀ d, d < 25 → m.getLsbD d = true → d < 4 ∨ d = 21) → exec (.islReset m) s = .next s) ∧
    (∀ p, p < 2 → Answers (.islReset (BitVec.ofNat 32 (2 ^ (23 + p)))) s fun u =>
      u.fe p = { s.fe p with rxEn := false, txEn := false, rxNotify := 0, txNotify := 0, rxWr := 0, rxRd := 0, txWr := 0, txRd := 0 } ∧
      (∀ o, o ≠ p → u.fe o = s.fe o) ∧ u.xing (23 + p) = { up := false, toD2 := {}, fromD2 := {} } ∧
      (∀ x, x ≠ 23 + p → u.xing x = s.xing x) ∧ u.fab.sram = s.fab.sram ∧ ChangesOnly [.clk, .fab] s u) ∧
    (∀ k, k < 16 → (∀ c, (s.ctx c).job = none) → Answers (.islReset (BitVec.ofNat 32 (2 ^ (k + 5)))) s fun u =>
      (∀ c, u.ctx c = if c / 4 = k then { acct := (s.ctx c).acct } else s.ctx c) ∧
      u.core k = {
        code := (s.core k).code, dlocal := (s.core k).dlocal, dispatch := (s.core k).dispatch, micro := (s.core k).micro
        nano := (s.core k).nano, storesValid := (s.core k).storesValid, uimageId := (s.core k).uimageId, trail := (s.core k).trail } ∧
      (∀ j, j ≠ k → u.core j = s.core j) ∧ u.xing (k + 5) = { up := false, toD2 := {}, fromD2 := {} } ∧
      (∀ m, m < 4 → u.mbox (4 * k + m) = {}) ∧ u.fab.sram = s.fab.sram ∧ ChangesOnly [.ctxs, .cores, .clk, .fab, .cx] s u)

/-- R434, R440, R446, R448, R449, R454 to R461, R464, R465, Tables 18.3 and 19.2: each bring-up phase leaves what the tables say; a slot that
verifies is used, and without one the Gorgar is stranded; the service port answers, and stages, commits and reboots only while stranded. -/
def Obligations.BringUpAndService : Prop :=
  ∀ s : State, s.boot.inReset = false → s.boot.straps.testMode = false →
    let h := s.hearth
    let ph (n : BitVec 4) : Boot := { s.boot with phase := n }
    (∀ b : BringUpIn, s.boot.bootFail = false →
      let go := Instr.bringUpPhaseComplete b
      (s.boot.phase = 1 → b.vbatMv < 4096 →
        (h.onVbat = true → exec go s = .next s) ∧
        (h.onVbat = false → h.lossLatch = true → Answers go s fun u =>
          u.hearth = { h with
            rtcValid := false, lossLatch := false, hstate := 2, lastSlot := false, jnlNext := false, journal := u.hearth.journal
            vbatMv := BitVec.ofNat 12 b.vbatMv, vbatLow := decide (b.vbatMv < 2500) } ∧
          readWords u.hearth.journal 0 5 = [0x00014A4E, 0, 0, 0, 0] ∧ readWords u.hearth.journal 4096 5 = [0x00014A4E, 1, 0, 0, 0] ∧
          u.boot = { ph 2 with bringUps := 1 } ∧ ChangesOnly [.hearth, .boot] s u) ∧
        (h.onVbat = false → h.lossLatch = false → jnlValid s false = true → jnlValid s true = true → Answers go s fun u =>
          let newer := seqNewer (readWord h.journal (4096 + 4)) (readWord h.journal 4)
          u.hearth = { h with
            hstate := 0, lastSlot := newer, jnlNext := !newer, vbatMv := BitVec.ofNat 12 b.vbatMv
            vbatLow := decide (b.vbatMv < 2500) } ∧
          u.boot = { ph 2 with
            bringUps := BitVec.ofNat 16 (fld (readWord h.journal ((if newer then 4096 else 0) + 20)) 31 16 + 1) } ∧
          ChangesOnly [.hearth, .boot] s u) ∧
        (h.onVbat = false → h.lossLatch = false → jnlValid s false = false → jnlValid s true = false → Answers go s fun u =>
          u.hearth.hstate = 2 ∧ u.hearth.rtcValid = false ∧ LogsFault s u 0x13 1 ∧ u.boot = { ph 2 with bringUps := 1 } ∧
          ChangesOnly [.hearth, .boot, .faults, .clk] s u)) ∧
      (s.boot.phase = 2 →
        (b.pllOk = false → exec go s = .next s) ∧
        (b.pllOk = true →
          exec go s = .next { s with clk := { s.clk with pllLocked := true }, boot := { ph 3 with porPending := false } })) ∧
      (s.boot.phase = 3 →
        (b.calOk = false ∨ s.boot.calBad = true → exec go s = .next { s with
          clk := { s.clk with calDefaults := true }, hearth := { h with trim := 0 }
          boot := { ph 4 with calLive := s.boot.calPage, calValid := false, trims := {} } }) ∧
        (∀ ws, b.calOk = true → s.boot.calBad = false → s.boot.calPage = some ws → calPageOk ws = true → Answers go s fun u =>
          u.clk = { s.clk with calDefaults := false } ∧
          u.boot = { ph 4 with calLive := some ws, calValid := true, trims := u.boot.trims } ∧
          (∀ i, i < 16 → (u.boot.trims.taps.getD i 0).toNat = (nthW ws (965 + i / 4)).toNat / 256 ^ (i % 4) % 32) ∧
          u.hearth = { h with trim := u.hearth.trim } ∧ ChangesOnly [.clk, .hearth, .boot] s u)) ∧
      (s.boot.phase = 4 →
        (s.clk.calDefaults = true → (∀ d, 2 ≤ d → d ≤ 20 → (s.dom d).state = .run → (s.dom d).refLock = true) →
          exec go s = .next { s with clk := { s.clk with policyOn := true }, boot := ph 5 }) ∧
        (s.clk.calDefaults = false → (∀ d, 2 ≤ d → d ≤ 20 → (s.dom d).refLock = true) → Answers go s fun u =>
          (∀ d, u.dom d = if 2 ≤ d ∧ d ≤ 20 then { s.dom d with trim := Config.phase4Trim d } else s.dom d) ∧
          u.clk = { s.clk with doms := u.clk.doms, policyOn := true } ∧ u.boot = ph 5 ∧ ChangesOnly [.clk, .boot] s u)) ∧
      (s.boot.phase = 5 → s.faults.frozen = false →
        let dog := { h with wdtEn := true, wdtUs := 0, wdtWarn := false, wdtHalf := false }
        (∀ m, b.mapOk0 = true → s.prot.store0 = some m → b.mapOk1 = false ∨ s.prot.store1 = none →
          exec go s = .next { s with
            prot := { s.prot with map := m.2, epoch := m.1, isDefault := false, nextStore := true }, hearth := dog, boot := ph 6 }) ∧
        (∀ m n, b.mapOk0 = true → s.prot.store0 = some m → b.mapOk1 = true → s.prot.store1 = some n → m.1.toNat < n.1.toNat →
          exec go s = .next { s with
            prot := { s.prot with map := n.2, epoch := n.1, isDefault := false, nextStore := false }, hearth := dog, boot := ph 6 }) ∧
        (b.mapOk0 = false ∨ s.prot.store0 = none → b.mapOk1 = false ∨ s.prot.store1 = none → Answers go s fun u =>
          u.prot = { s.prot with map := {}, epoch := 0, isDefault := true, nextStore := false } ∧ u.hearth = dog ∧
          LogsFault s u 0x12 1 ∧ u.boot = ph 6 ∧ ChangesOnly [.prot, .hearth, .boot, .faults, .clk] s u)) ∧
      (s.boot.phase = 6 → s.boot.flashed = [] → s.prot.keyI = none →
        let use (i : BitVec 2) (ws : List Word) : Boot := { ph 7 with slot := i, image := ws.take (imgLen ws / 4), custKey := false }
        let stranded : Boot := { s.boot with slot := 2, bootFail := true }
        (s.boot.straps.bootSrc = 1 → b.flashOk = true → imgValid none b.slotA = true →
          exec go s = .next { s with boot := use 0 b.slotA }) ∧
        (s.boot.straps.bootSrc = 1 → b.flashOk = true → imgValid none b.slotA = false → imgValid none b.slotB = true →
          Answers go s fun u => u.boot = use 1 b.slotB ∧ LogsFault s u 0x15 1 ∧ ChangesOnly [.boot, .faults, .clk] s u) ∧
        (s.boot.straps.bootSrc = 1 → b.flashOk = false → Answers go s fun u =>
          u.boot = stranded ∧ u.faults.seq = s.faults.seq + 2 ∧ ChangesOnly [.boot, .faults, .clk] s u) ∧
        (s.boot.straps.bootSrc = 3 → exec go s = .next { s with boot := stranded })) ∧
      (s.boot.phase = 7 → Answers go s fun u =>
        u.boot.phase = 8 ∧ u.boot.ready = true ∧ u.twin.st = .claiming ∧ u.twin.incumbent = false ∧ u.twin.feOwn = false)) ∧
    (s.host.fatal = false → ∀ seq : Byte,
      let base := 0x10000000
      (Answers (.status seq) s fun u =>
        SvcAnswers s u 0x01 seq 0 [bootStatus s, devStatus s, resetCauseWord s, Config.serial.extractLsb' 0 32,
          Config.serial.extractLsb' 32 32] ∧ ChangesOnly [.util] s u) ∧
      (s.boot.bootFail = false →
        (∀ o d, Answers (.stage seq o d) s fun u => SvcAnswers s u 0x02 seq 1 [] ∧ ChangesOnly [.util] s u) ∧
        (∀ i n k, Answers (.commit seq i n k) s fun u => SvcAnswers s u 0x03 seq 1 [] ∧ ChangesOnly [.util] s u) ∧
        (Answers (.reboot seq) s fun u => SvcAnswers s u 0x04 seq 1 [] ∧ ChangesOnly [.util] s u)) ∧
      (s.boot.bootFail = true →
        (∀ o (d : List Byte), o < 0x400000 → o + d.length ≤ 0x400000 → d.length ≤ 1016 → Answers (.stage seq o d) s fun u =>
          SvcAnswers s u 0x02 seq 0 [] ∧ (∀ i, i < d.length → readByte u.fab.sram (base + o + i) = d.getD i 0) ∧
          (∀ a, a < base + o ∨ base + o + d.length ≤ a → readByte u.fab.sram a = readByte s.fab.sram a) ∧
          u.fab = { s.fab with sram := u.fab.sram, ecc := u.fab.ecc } ∧ ChangesOnly [.fab, .util] s u) ∧
        (∀ (i : Byte) (n : Nat), i.toNat < 2 → s.boot.slot = 2 → 264 ≤ n → n ≤ 4194304 → n % 4 = 0 →
          let ws := readWords s.fab.sram base (n / 4)
          imgLen ws = n →
          let holds (l : List Word) : Boot := { s.boot with flashed := (s.boot.flashed.filter fun e => e.1 != i.toNat) ++ [(i.toNat, l)] }
          (∀ k, imgValid s.prot.keyI ws = false → Answers (.commit seq i n k) s fun u =>
            SvcAnswers s u 0x03 seq 0x0602 [] ∧ ChangesOnly [.util] s u) ∧
          (imgValid s.prot.keyI ws = true → Answers (.commit seq i n true) s fun u =>
            SvcAnswers s u 0x03 seq 0 [] ∧ u.boot = holds ws ∧ ChangesOnly [.boot, .util] s u) ∧
          (imgValid s.prot.keyI ws = true → Answers (.commit seq i n false) s fun u =>
            SvcAnswers s u 0x03 seq 0x0603 [] ∧ u.boot = holds [] ∧ ChangesOnly [.boot, .util] s u)) ∧
        (Answers (.reboot seq) s fun u =>
          u.boot.inReset = true ∧ u.boot.phase = 0 ∧ u.hearth.resetCause = 4 ∧ u.fab.sram = s.fab.sram ∧
          u.util.svc = { sentBytes := s.util.svc.sentBytes ++ serviceFrame 0x04 seq 0 [] })) ∧
      (s.boot.ready = true →
        let p := s.prot
        (∀ q, p.pend = some q → q.digest.length = 8 → Answers (.protQuery seq) s fun u =>
          SvcAnswers s u 0x10 seq 0 ([q.p.extractLsb' 0 32, q.p.extractLsb' 32 32] ++ q.digest ++
            [BitVec.ofNat 32 (secondsLeft s q), p.epoch.extractLsb' 0 32, p.epoch.extractLsb' 32 32]) ∧ ChangesOnly [.util] s u) ∧
        (p.pend = none → Answers (.protQuery seq) s fun u =>
          (∃ f : List Word, f.length = 11 ∧
            SvcAnswers s u 0x10 seq 0 (f ++ [p.epoch.extractLsb' 0 32, p.epoch.extractLsb' 32 32])) ∧ ChangesOnly [.util, .free] s u) ∧
        (∀ ws : List Word, ws.length = 11 → nthW ws 2 = 0x48 → p.keyH = none ∨ p.keyF = none → Answers (.protConsent seq ws) s fun u =>
          SvcAnswers s u 0x11 seq 0x0204 [0] ∧ ChangesOnly [.util] s u) ∧
        (∀ (q : Proposal) (kH kF sig : List Word), p.keyH = some kH → p.keyF = some kF → p.wait = none → p.lockout = none →
          p.pend = some q → s.nowUs < q.atUs + 60000000 → s.twin.st = .alone → q.f = false → sig.length = 8 →
          let lo := q.p.extractLsb' 0 32
          let hi := q.p.extractLsb' 32 32
          (sig = hmacSha256 kH (q.digest ++ [lo, hi, 0x48, 0]) → Answers (.protConsent seq ([lo, hi, 0x48] ++ sig)) s fun u =>
            u.prot = { p with pend := some { q with h := true } } ∧ SvcAnswers s u 0x11 seq 0x0201 [0] ∧
            ChangesOnly [.prot, .util] s u) ∧
          (sig ≠ hmacSha256 kH (q.digest ++ [lo, hi, 0x48, 0]) → p.fails < 2 →
            Answers (.protConsent seq ([lo, hi, 0x48] ++ sig)) s fun u =>
              u.prot = { p with fails := p.fails + 1 } ∧ SvcAnswers s u 0x11 seq 0x0202 [1] ∧ ChangesOnly [.prot, .util] s u))))

/-- R493 to R498, R502 to R504 and Table 21.7: the UARTs, the CAN controller, the GPIO balls, the front-ends' control balls and the TAP act on
their registers and raise their lines. -/
def Obligations.UtilityInterfacesAct : Prop :=
  ∀ s : State,
    (∀ n, n < 2 →
      let q := s.uart n
      let l := if n = 0 then 12 else 11
      let others (u : State) : Prop :=
        (∀ m, m < 2 → m ≠ n → u.uart m = s.uart m) ∧ u.util = { s.util with gnss := u.util.gnss, svc := u.util.svc }
      (s.boot.inReset = true → ∀ b stop, exec (.uartRxByte n b stop) s = .next s) ∧
      (∀ b, s.boot.inReset = false → Answers (.uartRxByte n b false) s fun u =>
        u.uart n = { q with framing := true } ∧ QueuesLine s u 16 l ∧ others u ∧ ChangesOnly [.util, .clk] s u) ∧
      (∀ b, s.boot.inReset = false → 64 ≤ q.rx.length → Answers (.uartRxByte n b true) s fun u =>
        u.uart n = { q with overrun := true } ∧ QueuesLine s u 16 l ∧ others u ∧ ChangesOnly [.util, .clk] s u) ∧
      (∀ b, s.boot.inReset = false → q.rx = [] → Answers (.uartRxByte n b true) s fun u =>
        u.uart n = { q with rx := [b] } ∧ QueuesLine s u 16 l ∧ others u ∧ ChangesOnly [.util, .clk] s u) ∧
      (∀ b, s.boot.inReset = false → q.rx ≠ [] → q.rx.length < 64 → Answers (.uartRxByte n b true) s fun u =>
        u.uart n = { q with rx := q.rx ++ [b] } ∧ others u ∧ ChangesOnly [.util] s u) ∧
      (q.rx = [] → exec (.uartRxRead n) s = .next { s with rdata := 0 }) ∧
      (∀ b t, q.rx = b :: t → Answers (.uartRxRead n) s fun u =>
        u.rdata = BitVec.ofNat 32 (b.toNat + 256) ∧ u.uart n = { q with rx := t } ∧ others u ∧ ChangesOnly [.util, .rdata] s u) ∧
      (∀ b, 64 ≤ q.tx.length → exec (.uartTxWrite n b) s = .next s) ∧
      (∀ b, q.tx.length < 64 → Answers (.uartTxWrite n b) s fun u =>
        u.uart n = { q with tx := q.tx ++ [b] } ∧ others u ∧ ChangesOnly [.util] s u) ∧
      (q.tx = [] → exec (.uartTxByteSent n) s = .next s) ∧
      (∀ b t, q.tx = b :: t → Answers (.uartTxByteSent n) s fun u =>
        u.uart n = { q with tx := t, sentBytes := q.sentBytes ++ [b] } ∧ others u ∧ ChangesOnly [.util] s u)) ∧
    (let c := s.util.can
     let frame : CanFrame := ⟨c.txHdr, c.txDlc, (List.range 16).map fun i => tget 0 c.txData i⟩
     let told (u : State) (i : Nat) : Prop := c.irqEn.getLsbD i = true → QueuesLine s u 16 13
     let becomes (u : State) (d : Can) : Prop := u.util = { s.util with can := d }
     (c.busy = true ∨ c.en = false ∨ c.listen = true → exec .canTxGo s = .next s) ∧
     (c.busy = false → c.en = true → c.listen = false → Answers .canTxGo s fun u =>
       becomes u { c with busy := true } ∧ ChangesOnly [.util] s u) ∧
     exec (.canTxAbort true) s = .next s ∧
     (Answers (.canTxAbort false) s fun u => becomes u { c with busy := false } ∧ ChangesOnly [.util] s u) ∧
     (c.busy = false → exec .canTxDone s = .next s) ∧
     (c.busy = true → c.loop = false → Answers .canTxDone s fun u =>
       becomes u { c with busy := false, txErr := c.txErr - 1, sentFrames := c.sentFrames ++ [frame], irq := c.irq ||| 1 } ∧ told u 0 ∧
       ChangesOnly [.util, .clk] s u) ∧
     (∀ fr : CanFrame,
       (c.en = false ∨ c.busOff = true ∨ (fr.hdr.getLsbD 30 = true ∧ c.fdEn = false) → exec (.canRxFrame fr) s = .next s) ∧
       (c.en = true → c.busOff = false → (fr.hdr.getLsbD 30 = true → c.fdEn = true) → c.rxErr ≤ 127 →
         (c.rx.length < 8 → Answers (.canRxFrame fr) s fun u =>
           becomes u { c with rxErr := c.rxErr - 1, rx := c.rx ++ [fr], irq := c.irq ||| 2 } ∧ told u 1 ∧ ChangesOnly [.util, .clk] s u) ∧
         (8 ≤ c.rx.length → Answers (.canRxFrame fr) s fun u =>
           becomes u { c with rxErr := c.rxErr - 1, rxLost := true } ∧ ChangesOnly [.util] s u))) ∧
     (Answers .canRxPop s fun u => becomes u { c with rx := c.rx.tail } ∧ ChangesOnly [.util] s u) ∧
     (∀ tx n, c.en = false ∨ c.busOff = true → exec (.canBusError tx n) s = .next s) ∧
     (∀ n, c.en = true → c.busOff = false →
       (c.txErr + n < 256 → Answers (.canBusError true n) s fun u =>
         becomes u { c with txErr := c.txErr + n, irq := c.irq ||| 4 } ∧ told u 2 ∧ ChangesOnly [.util, .clk] s u) ∧
       (256 ≤ c.txErr + n → Answers (.canBusError true n) s fun u =>
         becomes u { c with txErr := c.txErr + n, busOff := true, irq := c.irq ||| 12 } ∧ ChangesOnly [.util, .clk] s u) ∧
       (c.txErr < 256 → Answers (.canBusError false n) s fun u =>
         becomes u { c with rxErr := min 255 (c.rxErr + n), irq := c.irq ||| 4 } ∧ told u 2 ∧ ChangesOnly [.util, .clk] s u)) ∧
     (c.busOff = true → c.en = true → Answers .canBusOffRecover s fun u =>
       becomes u { c with busOff := false, txErr := 0, rxErr := 0 } ∧ ChangesOnly [.util] s u) ∧
     (c.busOff = false ∨ c.en = false → exec .canBusOffRecover s = .next s)) ∧
    (∀ i level, i < 16 →
      let k := s.util
      let pins : BitVec 16 := if level then k.gpioPins ||| (1#16 <<< i) else k.gpioPins &&& ~~~(1#16 <<< i)
      let armed := if level then k.rise.getLsbD i else k.fall.getLsbD i
      (k.gpioDir.getLsbD i = true ∨ k.gpioPins.getLsbD i = level ∨ armed = false →
        exec (.gpioEdge i level) s = .next { s with util := { k with gpioPins := pins } }) ∧
      (k.gpioDir.getLsbD i = false → k.gpioPins.getLsbD i ≠ level → armed = true → Answers (.gpioEdge i level) s fun u =>
        u.util = { k with gpioPins := pins, gpioPend := k.gpioPend ||| (1#16 <<< i) } ∧ QueuesLine s u 16 14 ∧
        ChangesOnly [.util, .clk] s u)) ∧
    (∀ p,
      let f := s.fe p
      let n := f.spiLen.toNat
      let becomes (u : State) (g : Fe) : Prop := u.fe p = g ∧ (∀ o, o ≠ p → u.fe o = s.fe o) ∧ u.fab = { s.fab with fes := u.fab.fes } ∧
        ChangesOnly [.fab] s u
      (∀ level, Answers (.feIrqEdge p level) s fun u =>
        becomes u { f with irqLevel := level, irqSeen := f.irqSeen || (level && !f.irqLevel && !s.boot.inReset) }) ∧
      (Answers (.feSpiGo p) s fun u => becomes u { f with spiBusy := true }) ∧
      (f.spiBusy = false → ∀ w, exec (.feSpiDone p w) s = .next s) ∧
      (f.spiBusy = true → ∀ w, Answers (.feSpiDone p w) s fun u =>
        becomes u { f with
          spiBusy := false, spiData := (f.spiData <<< n) ||| BitVec.ofNat 32 (w.toNat % 2 ^ n)
          spiSent := f.spiSent ++ [(n, BitVec.ofNat 32 (f.spiData.toNat % 2 ^ n))] })) ∧
    (∀ tms tdi,
      let t := s.util.tap
      let becomes (u : State) (v : Tap) : Prop := u.util = { s.util with tap := v } ∧ ChangesOnly [.util] s u
      (s.boot.straps.testMode = false ∨ s.boot.inReset = true → ∀ up, exec (.tapTckEdge up tms tdi) s = .next s) ∧
      (s.boot.straps.testMode = true → s.boot.inReset = false →
        (t.st = .captureDr → t.instr = .idcode → Answers (.tapTckEdge true tms tdi) s fun u =>
          becomes u { t with
            st := if tms then .exit1Dr else .shiftDr, dr := (List.range 32).map fun i => (0xB1625001 : Word).getLsbD i }) ∧
        (t.st = .shiftDr → Answers (.tapTckEdge true tms tdi) s fun u =>
          becomes u { t with st := if tms then .exit1Dr else .shiftDr, dr := t.dr.tail ++ [tdi] }) ∧
        (t.st = .shiftIr → Answers (.tapTckEdge true tms tdi) s fun u =>
          becomes u { t with st := if tms then .exit1Ir else .shiftIr, ir := t.ir.tail ++ [tdi] }) ∧
        (t.st = .runTestIdle → Answers (.tapTckEdge true tms tdi) s fun u =>
          becomes u { t with st := if tms then .selectDr else .runTestIdle }) ∧
        (t.st = .shiftDr → Answers (.tapTckEdge false tms tdi) s fun u => becomes u { t with tdo := t.dr.headD false }) ∧
        (t.st = .updateIr → (∀ b ∈ t.ir, b = true) → Answers (.tapTckEdge false tms tdi) s fun u => becomes u { t with instr := .bypass }) ∧
        (t.st = .testLogicReset → Answers (.tapTckEdge false tms tdi) s fun u => becomes u { t with instr := .idcode })))

/-- R10, R24, R135, R199, R204, R219, R271 to R279, R294, R481, R482, R520 and Tables 12.2 to 12.4 and 20.7: the PCIe link and its configuration,
the writes of BAR 0 and BAR 2 and of a port, and the Breadcrumbs ports. -/
def Obligations.LinkRegistersBreadcrumbs : Prop :=
  ∀ s : State,
    let h := s.host
    (s.boot.straps.testMode = true ∨ s.boot.inReset = true → exec .pcieLinkUp s = .next s) ∧
    (s.boot.straps.testMode = false → s.boot.inReset = false → h.unsol = [] → h.pba = 0 → ring0Stops s = false → Answers .pcieLinkUp s fun u =>
      u.host = { h with linkUp := true } ∧ u.dom 21 = { s.dom 21 with state := .run, clockOn := true } ∧
      (∀ d, d ≠ 21 → u.dom d = s.dom d) ∧ u.clk = { s.clk with doms := u.clk.doms } ∧ ChangesOnly [.host, .clk] s u) ∧
    (s.fab.hbWait = [] → Answers .pcieLinkDown s fun u =>
      u.host = { h with linkUp := false } ∧ u.dom 21 = { s.dom 21 with state := .stopped, clockOn := false } ∧
      (∀ d, d ≠ 21 → u.dom d = s.dom d) ∧ u.xing 21 = { up := false, toD2 := {}, fromD2 := {} } ∧
      (∀ x, x ≠ 21 → u.xing x = s.xing x) ∧ ChangesOnly [.host, .clk] s u) ∧
    (∀ (v : Nat) (on : Bool), on = decide (v % 2 = 1) →
      let becomes (f : CfgField) (g : HostP) : Prop := exec (.pcieConfigWrite f v) s = .next { s with host := g }
      becomes .extTag { h with extTag := on } ∧ becomes .atomicEn { h with atomicEn := on } ∧
      (50 ≤ v → v ≤ 250000 → becomes .cplTimeout { h with cplTimeoutUs := v }) ∧ (v < 50 ∨ 250000 < v → becomes .cplTimeout h) ∧
      (v = 128 ∨ v = 256 → becomes .maxPayload { h with mps := v }) ∧ (v ≠ 128 → v ≠ 256 → becomes .maxPayload h) ∧
      (v = 128 ∨ v = 256 ∨ v = 512 ∨ v = 1024 ∨ v = 2048 ∨ v = 4096 → becomes .maxReadReq { h with mrrs := v }) ∧
      (h.pba = 0 → becomes .msixEnable { h with msixEn := on } ∧ becomes .msixFuncMask { h with msixMask := on } ∧
        (h.unsol = [] → s.fab.hbWait = [] → ring0Stops s = false →
          becomes .busMaster { h with busMaster := on } ∧ becomes .d3hot { h with d3hot := on })) ∧
      (∀ n, n < 64 → v = 1 → h.pba = 1#64 <<< n → (tget {} h.msix n).mask = false → h.msixMask = false → canSend s = true →
        becomes .msixEnable { h with
          msixEn := true, pba := 0, sent := h.sent ++ [.msix n (tget {} h.msix n).addr (tget {} h.msix n).data] })) ∧
    (∀ (a : Nat) (w hi : Word),
      let bar0 (size a : Nat) : Instr := .registerWrite (.bar0 size hi) a w
      let becomes (a : Nat) (g : HostP) : Prop := exec (bar0 4 a) s = .next { s with host := g }
      (s.boot.inReset = true ∨ a % 4 ≠ 0 → ∀ size, exec (bar0 size a) s = .next s) ∧
      (∀ size, size ≠ 4 → size ≠ 8 ∨ a < 0x8000 ∨ 0x9008 ≤ a → exec (bar0 size a) s = .next s) ∧
      (s.boot.inReset = false →
        becomes 0x20 { h with resyncLo := w &&& 0xFFFF0000 } ∧ becomes 0x24 { h with resyncHi := w } ∧
        (a < 0x20 ∨ 0x28 ≤ a → a < 0x100 → exec (bar0 4 a) s = .next s) ∧
        (s.boot.ready = false ∨ h.fatal = true → 0x100 ≤ a → exec (bar0 4 a) s = .next s) ∧
        (s.boot.ready = true → h.fatal = false →
          (h.adminEn = true → becomes 0x100 { h with admCfgErr := true } ∧ becomes 0x110 { h with admCfgErr := true }) ∧
          (h.adminEn = false →
            becomes 0x100 { h with adminSqLo := w &&& 0xFFFFF000 } ∧ becomes 0x104 { h with adminSqHi := w } ∧
            becomes 0x108 { h with adminCqLo := w &&& 0xFFFFF000 } ∧ becomes 0x10C { h with adminCqHi := w } ∧
            (4 ≤ w.toNat % 16 → w.toNat % 16 ≤ 12 → becomes 0x110 { h with adminLog2 := w.setWidth 4 })) ∧
          becomes 0x118 { h with admCfgErr := h.admCfgErr && !w.getLsbD 1, evLost := h.evLost && !w.getLsbD 2 } ∧
          (∀ v, v < 64 → h.pba = 0 →
            becomes (0x8000 + 16 * v + 8) { h with msix := tput v { tget {} h.msix v with data := w } h.msix } ∧
            becomes (0x8000 + 16 * v + 12) { h with msix := tput v { tget {} h.msix v with mask := w.getLsbD 0 } h.msix } ∧
            exec (bar0 8 (0x8000 + 16 * v + 8)) s = .next { s with host := { h with
              msix := tput v { tget {} h.msix v with data := w, mask := hi.getLsbD 0 } h.msix } }))) ∧
      (let bar2 (ws : List Word) (a : Nat) (w : Word) : Instr := .registerWrite (.bar2 (4 * (1 + ws.length)) ws) a w
       (s.boot.inReset = true → ∀ ws, exec (bar2 ws a w) s = .next s) ∧
       (∀ size ws, size ≠ 4 * (1 + ws.length) → exec (.registerWrite (.bar2 size ws) a w) s = .next s) ∧
       (∀ w2 ws, Answers (bar2 [] a w) s fun t => exec (bar2 (w2 :: ws) a w) s = exec (bar2 ws (a + 4) w2) t) ∧
       (s.boot.inReset = false →
         (∀ n, n < 1024 → exec (bar2 [] (4 * n) w) s = exec (.sqTail n w) s ∧ exec (bar2 [] (0x1000 + 4 * n) w) s = exec (.cqHead n w) s) ∧
         exec (bar2 [] 0x2000 w) s = exec (.resyncDb w []) s)) ∧
      (∀ c, c < 68 → a < 65536 →
        (∀ t, portTrap s c a true = some t →
          (ready s c = false → exec (.registerWrite (.port c) a w) s = .next s) ∧
          (ready s c = true → Answers (.registerWrite (.port c) a w) s fun u => RaisesTrap s u c t.1 t.2)) ∧
        (portTrap s c a true = none →
          (a = 0x204 → storesVisible s c = false → exec (.registerWrite (.port c) a w) s = .next s) ∧
          (a ≠ 0x204 ∨ storesVisible s c = true → exec (.registerWrite (.port c) a w) s = .next (writePort c a w s))))) ∧
    (∀ c, c < 64 →
      let k := c / 4
      let q := s.core k
      let i := q.bcIndex.toNat / 2
      ∀ e, q.trail[i]? = some e → e.bad = false →
        (Answers (.bcDataRead c false) s fun u =>
          u.rdata = (if q.bcIndex.toNat % 2 = 0 then e.w0 else e.w1) ∧ u.core k = { q with bcIndex := q.bcIndex + 1 } ∧
          (∀ j, j ≠ k → u.core j = s.core j) ∧ ChangesOnly [.cores, .rdata] s u) ∧
        (Answers (.bcDataRead c true) s fun u =>
          u.rdata = 0xFFFFFFFF ∧ LogsFault s u 0x18 0 ∧
          u.core k = { q with bcIndex := q.bcIndex + 1, trail := q.trail.set i { e with bad := true } } ∧
          (∀ j, j ≠ k → u.core j = s.core j) ∧ ChangesOnly [.cores, .rdata, .faults, .clk] s u)) ∧
    (∀ c w, (64 ≤ c → c < 68 → w.getLsbD 0 = true → exec (.bcFreeze c w) s = .next { s with faults := { s.faults with frozen := true } }) ∧
      (c < 64 ∨ w.getLsbD 0 = false → exec (.bcFreeze c w) s = .next s))

/-- The block's interface: a step carries out the command at the front of the queue on the rest of the state with the rest of the queue. On an
empty queue, by the model's choice (assumption log 9), 1 µs passes. -/
def Obligations.StepRunsFrontCommand : Prop :=
  (∀ (c : Instr) (s : State), step { s with pending := c :: s.pending } = exec c s) ∧
  (∀ (c : Instr) (l : List Instr) (s : State), s.pending = c :: l → step s = exec c { s with pending := l }) ∧
  (∀ s : State, s.pending = [] → ∃ t, step s = .next t ∧ t.nowUs = s.nowUs + 1 ∧ t.util.d1Now = s.util.d1Now + 100 ∧
    t.mill.turnPos = s.mill.turnPos + 1 ∧ t.pending = [])

/-- What stands after reset (Tables 2.5, 3.2, 7.1, 10.4, 11.3, 12.3, 18.4, 19.1, 21.7; R51, R188, R248, R257, R357, R428): the reset is held,
every context is halted with empty stacks, memories are zero, the default protection map is in force, nothing is enabled; and the invariant
holds. The Hearth's loss latch at first power and RESET_CAUSE are assumption log 6's. -/
def Obligations.ResetStateHoldsInvariant : Prop :=
  let s := State.reset
  StateInv s ∧ s.pending = [] ∧ s.boot.inReset = true ∧ s.boot.ready = false ∧ s.boot.phase = 0 ∧
  (∀ c, (s.ctx c).st = .halted ∧ (s.ctx c).ds = [] ∧ (s.ctx c).rs = [] ∧ (s.ctx c).acct = 0 ∧ (s.ctx c).ie = false ∧
    (s.ctx c).inh = false ∧ (s.ctx c).evPend = 0 ∧ (s.ctx c).line = none) ∧
  (∀ k, (s.core k).det = false ∧ (s.core k).icEn = true ∧ (s.core k).dcEn = true ∧ (s.core k).bpEn = true ∧ (s.core k).fuseEn = true ∧
    (s.core k).pend = 0 ∧ (s.core k).en = 0 ∧ (s.core k).storesValid = false ∧ (s.core k).trail = [] ∧
    (∀ a, readByte (s.core k).code a = 0 ∧ readByte (s.core k).dlocal a = 0)) ∧
  (∀ d, (s.dom d).codeCap = 63 ∧ (s.dom d).floorMhz = 100 ∧ (s.dom d).lockMhz = 100 ∧
    ((s.dom d).refLock = true ↔ d = 2 ∨ d = 3) ∧ ((s.dom d).state = .run ↔ d < 4)) ∧
  (∀ a, readByte s.fab.sram a = 0) ∧ (∀ i, (s.mbox i).ws = []) ∧ (∀ b, s.bankHolder b = none) ∧ (∀ a, tget none s.fab.ecc a = none) ∧
  (∀ a, (s.acct a).guar = (if a = 0 then ⟨10000, 20000, 150000, 100000⟩ else {}) ∧ (s.acct a).floorPct = 100 ∧ (s.acct a).ceilPct = 100) ∧
  s.mill.turnUs = 1000 ∧ s.mill.bindA = 1 ∧ s.mill.bindB = 1 ∧
  (∀ g, (s.group g).en = false ∧ (s.group g).fired = false) ∧ s.thorn.settle = 1024 ∧
  (∀ n, (s.ring n).st = .absent ∧ (s.ring n).fetched = [] ∧ (s.ring n).started = []) ∧ s.host.adminEn = false ∧ s.host.tmoMs = 1000 ∧
  s.host.fatal = false ∧ s.twin.st = .alone ∧ s.twin.lanesUp = false ∧ s.twin.feOwn = false ∧ s.twin.detached = false ∧
  s.prot.map = {} ∧ s.prot.isDefault = true ∧ s.prot.epoch = 0 ∧ s.prot.pend = none ∧ s.prot.fails = 0 ∧
  s.pass.isOpen = false ∧ s.hearth.lossLatch = true ∧ s.hearth.resetCause = 1 ∧ s.hearth.wdtEn = false ∧ s.hearth.wdtMs = 1000 ∧
  s.faults.log = [] ∧ s.faults.frozen = false ∧ s.util.svc.div = 53 ∧ s.util.gnss.div = 650 ∧ s.util.can.en = false ∧ s.util.gpioDir = 0 ∧
  s.util.tap.st = .testLogicReset

/-- Every step from a state where the invariant holds, whatever command is at the front and on an empty queue as well, answers a next state
where it holds again, and takes nothing but the front command off the queue (R188, R211, R469, R495, R497, R519). -/
def Obligations.StepKeepsInvariant : Prop :=
  ∀ s : State, StateInv s → ∃ t, step s = .next t ∧ StateInv t ∧ t.pending = s.pending.tail
end

