-- ==== Sys2Proof/Laws/Table.lean ====
section
/-! SUPPORT. The sparse tables: a read after a write, and the canonical form that every write keeps. -/

namespace Sys2Proof

variable {α : Type}

/-- A read after a write gives the value written, and leaves every other index alone. -/
theorem tget_tput (d : α) (i j : Nat) (v : α) (t : Table α) : tget d (tput i v t) j = if i = j then v else tget d t j := by
  induction t with
  | nil => by_cases h : i = j <;> simp [tput, tget, h]
  | cons e t ih =>
    obtain ⟨k, w⟩ := e
    simp only [tput]
    split_ifs with h1 h2 h3 h4 <;> simp_all [tget] <;> grind

theorem tget_tdel (d : α) (i j : Nat) (t : Table α) : tget d (tdel i t) j = if i = j then d else tget d t j := by
  induction t with
  | nil => simp [tdel, tget]
  | cons e t ih =>
    obtain ⟨k, w⟩ := e
    simp only [tdel, List.filter_cons] at ih ⊢
    by_cases h : k = i <;> by_cases h2 : k = j <;> simp_all [tget] <;> grind

/-- A read after a canonical write. -/
theorem tget_tset [DecidableEq α] (d : α) (i j : Nat) (v : α) (t : Table α) :
    tget d (tset d i v t) j = if i = j then v else tget d t j := by
  unfold tset
  split_ifs with h1 h2 <;> simp_all [tget_tdel, tget_tput]

theorem tableWfFrom_mono [DecidableEq α] (d : α) (t : Table α) : ∀ m n, n ≤ m → tableWfFrom d m t = true → tableWfFrom d n t = true := by
  cases t with
  | nil => simp [tableWfFrom]
  | cons e t => intro m n h; simp [tableWfFrom]; intro a b c; exact ⟨⟨by omega, b⟩, c⟩

theorem tableWfFrom_tput [DecidableEq α] (d : α) (i : Nat) (v : α) (hv : v ≠ d) (t : Table α) :
    ∀ n, n ≤ i → tableWfFrom d n t = true → tableWfFrom d n (tput i v t) = true := by
  induction t with
  | nil => intro n h _; simp [tput, tableWfFrom, h, hv]
  | cons e t ih =>
    obtain ⟨k, w⟩ := e
    intro n h hw
    simp only [tableWfFrom, Bool.and_eq_true, decide_eq_true_eq] at hw
    obtain ⟨⟨h1, h2⟩, h3⟩ := hw
    simp only [tput]
    split_ifs with g1 g2
    · simp only [tableWfFrom, Bool.and_eq_true, decide_eq_true_eq]
      exact ⟨⟨h, hv⟩, ⟨by omega, h2⟩, h3⟩
    · subst g2
      simp only [tableWfFrom, Bool.and_eq_true, decide_eq_true_eq]
      exact ⟨⟨h, hv⟩, h3⟩
    · simp only [tableWfFrom, Bool.and_eq_true, decide_eq_true_eq]
      exact ⟨⟨h1, h2⟩, ih (k + 1) (by omega) h3⟩

theorem tableWfFrom_tdel [DecidableEq α] (d : α) (i : Nat) (t : Table α) : ∀ n, tableWfFrom d n t = true →
    tableWfFrom d n (tdel i t) = true := by
  induction t with
  | nil => intro n _; rfl
  | cons e t ih =>
    obtain ⟨k, w⟩ := e
    intro n hw
    simp only [tableWfFrom, Bool.and_eq_true, decide_eq_true_eq] at hw
    obtain ⟨⟨h1, h2⟩, h3⟩ := hw
    have := ih (k + 1) h3
    simp only [tdel, List.filter_cons] at this ⊢
    split_ifs
    · simp only [tableWfFrom, Bool.and_eq_true, decide_eq_true_eq]
      exact ⟨⟨h1, h2⟩, this⟩
    · exact tableWfFrom_mono d _ (k + 1) n (by omega) this

/-- A canonical write keeps the canonical form. -/
theorem tableWf_tset [DecidableEq α] (d : α) (i : Nat) (v : α) (t : Table α) (h : tableWf d t = true) :
    tableWf d (tset d i v t) = true := by
  unfold tset tableWf at *
  split_ifs with hv
  · exact tableWfFrom_tdel d i t 0 h
  · exact tableWfFrom_tput d i v hv t 0 (by omega) h

end Sys2Proof
end

