-- ==== Sys2Proof/Laws/Memory.lean ====
section
/-! SUPPORT. Byte memories: every memory operation keeps the canonical form, and a read after a write. -/

namespace Sys2Proof

theorem Memory.wf_nil : Memory.wf [] = true := rfl

theorem readByte_writeByte (m : Table Byte) (a b : Nat) (v : Byte) :
    readByte (writeByte m a v) b = if a = b then v else readByte m b := tget_tset 0 a b v m

theorem Memory.wf_writeByte (m : Table Byte) (a : Nat) (v : Byte) (h : Memory.wf m = true) : Memory.wf (writeByte m a v) = true :=
  tableWf_tset 0 a v m h

theorem Memory.wf_writeLE (n : Nat) : ∀ (m : Table Byte) (a v : Nat), Memory.wf m = true → Memory.wf (writeLE m a n v) = true := by
  induction n with
  | zero => intro m a v h; exact h
  | succ n ih => intro m a v h; exact ih _ _ _ (Memory.wf_writeByte m a _ h)

theorem Memory.wf_writeWord (m : Table Byte) (a : Nat) (w : Word) (h : Memory.wf m = true) : Memory.wf (writeWord m a w) = true :=
  Memory.wf_writeLE 4 m a _ h

theorem Memory.wf_writeWords (ws : List Word) : ∀ (m : Table Byte) (a : Nat), Memory.wf m = true →
    Memory.wf (writeWords m a ws) = true := by
  induction ws with
  | nil => intro m a h; exact h
  | cons w ws ih => intro m a h; exact ih _ _ (Memory.wf_writeWord m a w h)

/-- A byte outside the bytes written is unchanged. -/
theorem readByte_writeLE_of_outside (n : Nat) : ∀ (m : Table Byte) (a v b : Nat), (b < a ∨ a + n ≤ b) →
    readByte (writeLE m a n v) b = readByte m b := by
  induction n with
  | zero => intro m a v b _; rfl
  | succ n ih =>
    intro m a v b h
    rw [writeLE, ih _ _ _ _ (by omega), readByte_writeByte, if_neg (by omega)]

theorem readLE_writeLE_of_outside (n k : Nat) : ∀ (m : Table Byte) (a v b : Nat), (b + k ≤ a ∨ a + n ≤ b) →
    readLE (writeLE m a n v) b k = readLE m b k := by
  induction k with
  | zero => intro m a v b _; rfl
  | succ k ih =>
    intro m a v b h
    rw [readLE, readLE, ih _ _ _ _ (by omega), readByte_writeLE_of_outside _ _ _ _ _ (by omega)]

/-- A read of the bytes written gives the number written, modulo their width. -/
theorem readLE_writeLE (n : Nat) : ∀ (m : Table Byte) (a v : Nat), readLE (writeLE m a n v) a n = v % 256 ^ n := by
  induction n with
  | zero => intro m a v; simp [readLE, Nat.mod_one]
  | succ n ih =>
    intro m a v
    rw [writeLE, readLE, ih, readByte_writeLE_of_outside _ _ _ _ _ (by omega), readByte_writeByte, if_pos rfl]
    simp only [BitVec.toNat_ofNat]
    rw [show (256 : Nat) ^ (n + 1) = 256 * 256 ^ n by ring, Nat.mod_mul]

theorem readWord_writeWord (m : Table Byte) (a : Nat) (w : Word) : readWord (writeWord m a w) a = w := by
  simp only [readWord, writeWord, readLE_writeLE, wd]
  apply BitVec.eq_of_toNat_eq
  simp
  omega

theorem readWord_writeWord_of_outside (m : Table Byte) (a b : Nat) (w : Word) (h : b + 4 ≤ a ∨ a + 4 ≤ b) :
    readWord (writeWord m a w) b = readWord m b := by
  simp only [readWord, writeWord, readLE_writeLE_of_outside 4 4 m a _ b h]

/-- A word outside the words written is unchanged. -/
theorem readWord_writeWords_of_outside (ws : List Word) : ∀ (m : Table Byte) (a b : Nat), (b + 4 ≤ a ∨ a + 4 * ws.length ≤ b) →
    readWord (writeWords m a ws) b = readWord m b := by
  induction ws with
  | nil => intro m a b _; rfl
  | cons w ws ih =>
    intro m a b h
    simp only [List.length_cons] at h
    rw [writeWords, ih _ _ _ (by omega), readWord_writeWord_of_outside _ _ _ _ (by omega)]

theorem readWords_writeWords_of_outside (n : Nat) : ∀ (m : Table Byte) (a b : Nat) (ws : List Word),
    (b + 4 * n ≤ a ∨ a + 4 * ws.length ≤ b) → readWords (writeWords m a ws) b n = readWords m b n := by
  induction n with
  | zero => intro m a b ws _; rfl
  | succ n ih =>
    intro m a b ws h
    rw [readWords, readWords, ih _ _ _ _ (by omega), readWord_writeWords_of_outside _ _ _ _ (by omega)]

/-- The first n words read where a list was written are the list's first n. -/
theorem readWords_writeWords (ws : List Word) : ∀ (n : Nat) (m : Table Byte) (a : Nat), n ≤ ws.length →
    readWords (writeWords m a ws) a n = ws.take n := by
  induction ws with
  | nil => intro n m a h; obtain rfl : n = 0 := by simpa using h
           rfl
  | cons w ws ih =>
    intro n m a h
    cases n with
    | zero => rfl
    | succ n =>
      rw [writeWords, readWords, ih n _ _ (by simpa using h), readWord_writeWords_of_outside _ _ _ _ (by omega), readWord_writeWord,
        List.take_succ_cons]

/-- Word i read where a list was written is the list's element i. -/
theorem readWord_writeWords (ws : List Word) : ∀ (i : Nat) (m : Table Byte) (a : Nat), i < ws.length →
    readWord (writeWords m a ws) (a + 4 * i) = nthW ws i := by
  induction ws with
  | nil => intro i m a h; simp at h
  | cons w ws ih =>
    intro i m a h
    cases i with
    | zero => rw [writeWords, readWord_writeWords_of_outside _ _ _ _ (by omega), Nat.mul_zero, Nat.add_zero, readWord_writeWord]; rfl
    | succ i =>
      rw [writeWords, show a + 4 * (i + 1) = a + 4 + 4 * i by omega, ih i _ _ (by simpa using h)]
      rfl

end Sys2Proof
end

