-- ==== Sys2Proof/Laws/State.lean ====
section
/-! SUPPORT. What each writing operation of Access.lean leaves in each field of the state, true by rfl, and the read after each write
of an indexed group. -/

namespace Sys2Proof.Machine

open Sys2Proof

variable (s : State)

@[simp] theorem State.setCtx_cores (i : Nat) (v : Ctx) : (s.setCtx i v).cores = s.cores := rfl
@[simp] theorem State.setCtx_clk (i : Nat) (v : Ctx) : (s.setCtx i v).clk = s.clk := rfl
@[simp] theorem State.setCtx_fab (i : Nat) (v : Ctx) : (s.setCtx i v).fab = s.fab := rfl
@[simp] theorem State.setCtx_cx (i : Nat) (v : Ctx) : (s.setCtx i v).cx = s.cx := rfl
@[simp] theorem State.setCtx_thorn (i : Nat) (v : Ctx) : (s.setCtx i v).thorn = s.thorn := rfl
@[simp] theorem State.setCtx_mill (i : Nat) (v : Ctx) : (s.setCtx i v).mill = s.mill := rfl
@[simp] theorem State.setCtx_host (i : Nat) (v : Ctx) : (s.setCtx i v).host = s.host := rfl
@[simp] theorem State.setCtx_twin (i : Nat) (v : Ctx) : (s.setCtx i v).twin = s.twin := rfl
@[simp] theorem State.setCtx_prot (i : Nat) (v : Ctx) : (s.setCtx i v).prot = s.prot := rfl
@[simp] theorem State.setCtx_pass (i : Nat) (v : Ctx) : (s.setCtx i v).pass = s.pass := rfl
@[simp] theorem State.setCtx_hearth (i : Nat) (v : Ctx) : (s.setCtx i v).hearth = s.hearth := rfl
@[simp] theorem State.setCtx_boot (i : Nat) (v : Ctx) : (s.setCtx i v).boot = s.boot := rfl
@[simp] theorem State.setCtx_faults (i : Nat) (v : Ctx) : (s.setCtx i v).faults = s.faults := rfl
@[simp] theorem State.setCtx_util (i : Nat) (v : Ctx) : (s.setCtx i v).util = s.util := rfl
@[simp] theorem State.setCtx_pending (i : Nat) (v : Ctx) : (s.setCtx i v).pending = s.pending := rfl
@[simp] theorem State.setCtx_nowUs (i : Nat) (v : Ctx) : (s.setCtx i v).nowUs = s.nowUs := rfl
@[simp] theorem State.setCtx_free (i : Nat) (v : Ctx) : (s.setCtx i v).free = s.free := rfl
@[simp] theorem State.setCtx_rdata (i : Nat) (v : Ctx) : (s.setCtx i v).rdata = s.rdata := rfl

@[simp] theorem State.modCtx_cores (i : Nat) (f : Ctx → Ctx) : (s.modCtx i f).cores = s.cores := rfl
@[simp] theorem State.modCtx_clk (i : Nat) (f : Ctx → Ctx) : (s.modCtx i f).clk = s.clk := rfl
@[simp] theorem State.modCtx_fab (i : Nat) (f : Ctx → Ctx) : (s.modCtx i f).fab = s.fab := rfl
@[simp] theorem State.modCtx_cx (i : Nat) (f : Ctx → Ctx) : (s.modCtx i f).cx = s.cx := rfl
@[simp] theorem State.modCtx_thorn (i : Nat) (f : Ctx → Ctx) : (s.modCtx i f).thorn = s.thorn := rfl
@[simp] theorem State.modCtx_mill (i : Nat) (f : Ctx → Ctx) : (s.modCtx i f).mill = s.mill := rfl
@[simp] theorem State.modCtx_host (i : Nat) (f : Ctx → Ctx) : (s.modCtx i f).host = s.host := rfl
@[simp] theorem State.modCtx_twin (i : Nat) (f : Ctx → Ctx) : (s.modCtx i f).twin = s.twin := rfl
@[simp] theorem State.modCtx_prot (i : Nat) (f : Ctx → Ctx) : (s.modCtx i f).prot = s.prot := rfl
@[simp] theorem State.modCtx_pass (i : Nat) (f : Ctx → Ctx) : (s.modCtx i f).pass = s.pass := rfl
@[simp] theorem State.modCtx_hearth (i : Nat) (f : Ctx → Ctx) : (s.modCtx i f).hearth = s.hearth := rfl
@[simp] theorem State.modCtx_boot (i : Nat) (f : Ctx → Ctx) : (s.modCtx i f).boot = s.boot := rfl
@[simp] theorem State.modCtx_faults (i : Nat) (f : Ctx → Ctx) : (s.modCtx i f).faults = s.faults := rfl
@[simp] theorem State.modCtx_util (i : Nat) (f : Ctx → Ctx) : (s.modCtx i f).util = s.util := rfl
@[simp] theorem State.modCtx_pending (i : Nat) (f : Ctx → Ctx) : (s.modCtx i f).pending = s.pending := rfl
@[simp] theorem State.modCtx_nowUs (i : Nat) (f : Ctx → Ctx) : (s.modCtx i f).nowUs = s.nowUs := rfl
@[simp] theorem State.modCtx_free (i : Nat) (f : Ctx → Ctx) : (s.modCtx i f).free = s.free := rfl
@[simp] theorem State.modCtx_rdata (i : Nat) (f : Ctx → Ctx) : (s.modCtx i f).rdata = s.rdata := rfl

@[simp] theorem State.setCore_ctxs (i : Nat) (v : Core) : (s.setCore i v).ctxs = s.ctxs := rfl
@[simp] theorem State.setCore_clk (i : Nat) (v : Core) : (s.setCore i v).clk = s.clk := rfl
@[simp] theorem State.setCore_fab (i : Nat) (v : Core) : (s.setCore i v).fab = s.fab := rfl
@[simp] theorem State.setCore_cx (i : Nat) (v : Core) : (s.setCore i v).cx = s.cx := rfl
@[simp] theorem State.setCore_thorn (i : Nat) (v : Core) : (s.setCore i v).thorn = s.thorn := rfl
@[simp] theorem State.setCore_mill (i : Nat) (v : Core) : (s.setCore i v).mill = s.mill := rfl
@[simp] theorem State.setCore_host (i : Nat) (v : Core) : (s.setCore i v).host = s.host := rfl
@[simp] theorem State.setCore_twin (i : Nat) (v : Core) : (s.setCore i v).twin = s.twin := rfl
@[simp] theorem State.setCore_prot (i : Nat) (v : Core) : (s.setCore i v).prot = s.prot := rfl
@[simp] theorem State.setCore_pass (i : Nat) (v : Core) : (s.setCore i v).pass = s.pass := rfl
@[simp] theorem State.setCore_hearth (i : Nat) (v : Core) : (s.setCore i v).hearth = s.hearth := rfl
@[simp] theorem State.setCore_boot (i : Nat) (v : Core) : (s.setCore i v).boot = s.boot := rfl
@[simp] theorem State.setCore_faults (i : Nat) (v : Core) : (s.setCore i v).faults = s.faults := rfl
@[simp] theorem State.setCore_util (i : Nat) (v : Core) : (s.setCore i v).util = s.util := rfl
@[simp] theorem State.setCore_pending (i : Nat) (v : Core) : (s.setCore i v).pending = s.pending := rfl
@[simp] theorem State.setCore_nowUs (i : Nat) (v : Core) : (s.setCore i v).nowUs = s.nowUs := rfl
@[simp] theorem State.setCore_free (i : Nat) (v : Core) : (s.setCore i v).free = s.free := rfl
@[simp] theorem State.setCore_rdata (i : Nat) (v : Core) : (s.setCore i v).rdata = s.rdata := rfl

@[simp] theorem State.modCore_ctxs (i : Nat) (f : Core → Core) : (s.modCore i f).ctxs = s.ctxs := rfl
@[simp] theorem State.modCore_clk (i : Nat) (f : Core → Core) : (s.modCore i f).clk = s.clk := rfl
@[simp] theorem State.modCore_fab (i : Nat) (f : Core → Core) : (s.modCore i f).fab = s.fab := rfl
@[simp] theorem State.modCore_cx (i : Nat) (f : Core → Core) : (s.modCore i f).cx = s.cx := rfl
@[simp] theorem State.modCore_thorn (i : Nat) (f : Core → Core) : (s.modCore i f).thorn = s.thorn := rfl
@[simp] theorem State.modCore_mill (i : Nat) (f : Core → Core) : (s.modCore i f).mill = s.mill := rfl
@[simp] theorem State.modCore_host (i : Nat) (f : Core → Core) : (s.modCore i f).host = s.host := rfl
@[simp] theorem State.modCore_twin (i : Nat) (f : Core → Core) : (s.modCore i f).twin = s.twin := rfl
@[simp] theorem State.modCore_prot (i : Nat) (f : Core → Core) : (s.modCore i f).prot = s.prot := rfl
@[simp] theorem State.modCore_pass (i : Nat) (f : Core → Core) : (s.modCore i f).pass = s.pass := rfl
@[simp] theorem State.modCore_hearth (i : Nat) (f : Core → Core) : (s.modCore i f).hearth = s.hearth := rfl
@[simp] theorem State.modCore_boot (i : Nat) (f : Core → Core) : (s.modCore i f).boot = s.boot := rfl
@[simp] theorem State.modCore_faults (i : Nat) (f : Core → Core) : (s.modCore i f).faults = s.faults := rfl
@[simp] theorem State.modCore_util (i : Nat) (f : Core → Core) : (s.modCore i f).util = s.util := rfl
@[simp] theorem State.modCore_pending (i : Nat) (f : Core → Core) : (s.modCore i f).pending = s.pending := rfl
@[simp] theorem State.modCore_nowUs (i : Nat) (f : Core → Core) : (s.modCore i f).nowUs = s.nowUs := rfl
@[simp] theorem State.modCore_free (i : Nat) (f : Core → Core) : (s.modCore i f).free = s.free := rfl
@[simp] theorem State.modCore_rdata (i : Nat) (f : Core → Core) : (s.modCore i f).rdata = s.rdata := rfl

@[simp] theorem State.modClk_ctxs (f : Clk → Clk) : (s.modClk f).ctxs = s.ctxs := rfl
@[simp] theorem State.modClk_cores (f : Clk → Clk) : (s.modClk f).cores = s.cores := rfl
@[simp] theorem State.modClk_fab (f : Clk → Clk) : (s.modClk f).fab = s.fab := rfl
@[simp] theorem State.modClk_cx (f : Clk → Clk) : (s.modClk f).cx = s.cx := rfl
@[simp] theorem State.modClk_thorn (f : Clk → Clk) : (s.modClk f).thorn = s.thorn := rfl
@[simp] theorem State.modClk_mill (f : Clk → Clk) : (s.modClk f).mill = s.mill := rfl
@[simp] theorem State.modClk_host (f : Clk → Clk) : (s.modClk f).host = s.host := rfl
@[simp] theorem State.modClk_twin (f : Clk → Clk) : (s.modClk f).twin = s.twin := rfl
@[simp] theorem State.modClk_prot (f : Clk → Clk) : (s.modClk f).prot = s.prot := rfl
@[simp] theorem State.modClk_pass (f : Clk → Clk) : (s.modClk f).pass = s.pass := rfl
@[simp] theorem State.modClk_hearth (f : Clk → Clk) : (s.modClk f).hearth = s.hearth := rfl
@[simp] theorem State.modClk_boot (f : Clk → Clk) : (s.modClk f).boot = s.boot := rfl
@[simp] theorem State.modClk_faults (f : Clk → Clk) : (s.modClk f).faults = s.faults := rfl
@[simp] theorem State.modClk_util (f : Clk → Clk) : (s.modClk f).util = s.util := rfl
@[simp] theorem State.modClk_pending (f : Clk → Clk) : (s.modClk f).pending = s.pending := rfl
@[simp] theorem State.modClk_nowUs (f : Clk → Clk) : (s.modClk f).nowUs = s.nowUs := rfl
@[simp] theorem State.modClk_free (f : Clk → Clk) : (s.modClk f).free = s.free := rfl
@[simp] theorem State.modClk_rdata (f : Clk → Clk) : (s.modClk f).rdata = s.rdata := rfl

@[simp] theorem State.setDom_ctxs (i : Nat) (v : Dom) : (s.setDom i v).ctxs = s.ctxs := rfl
@[simp] theorem State.setDom_cores (i : Nat) (v : Dom) : (s.setDom i v).cores = s.cores := rfl
@[simp] theorem State.setDom_fab (i : Nat) (v : Dom) : (s.setDom i v).fab = s.fab := rfl
@[simp] theorem State.setDom_cx (i : Nat) (v : Dom) : (s.setDom i v).cx = s.cx := rfl
@[simp] theorem State.setDom_thorn (i : Nat) (v : Dom) : (s.setDom i v).thorn = s.thorn := rfl
@[simp] theorem State.setDom_mill (i : Nat) (v : Dom) : (s.setDom i v).mill = s.mill := rfl
@[simp] theorem State.setDom_host (i : Nat) (v : Dom) : (s.setDom i v).host = s.host := rfl
@[simp] theorem State.setDom_twin (i : Nat) (v : Dom) : (s.setDom i v).twin = s.twin := rfl
@[simp] theorem State.setDom_prot (i : Nat) (v : Dom) : (s.setDom i v).prot = s.prot := rfl
@[simp] theorem State.setDom_pass (i : Nat) (v : Dom) : (s.setDom i v).pass = s.pass := rfl
@[simp] theorem State.setDom_hearth (i : Nat) (v : Dom) : (s.setDom i v).hearth = s.hearth := rfl
@[simp] theorem State.setDom_boot (i : Nat) (v : Dom) : (s.setDom i v).boot = s.boot := rfl
@[simp] theorem State.setDom_faults (i : Nat) (v : Dom) : (s.setDom i v).faults = s.faults := rfl
@[simp] theorem State.setDom_util (i : Nat) (v : Dom) : (s.setDom i v).util = s.util := rfl
@[simp] theorem State.setDom_pending (i : Nat) (v : Dom) : (s.setDom i v).pending = s.pending := rfl
@[simp] theorem State.setDom_nowUs (i : Nat) (v : Dom) : (s.setDom i v).nowUs = s.nowUs := rfl
@[simp] theorem State.setDom_free (i : Nat) (v : Dom) : (s.setDom i v).free = s.free := rfl
@[simp] theorem State.setDom_rdata (i : Nat) (v : Dom) : (s.setDom i v).rdata = s.rdata := rfl

@[simp] theorem State.modDom_ctxs (i : Nat) (f : Dom → Dom) : (s.modDom i f).ctxs = s.ctxs := rfl
@[simp] theorem State.modDom_cores (i : Nat) (f : Dom → Dom) : (s.modDom i f).cores = s.cores := rfl
@[simp] theorem State.modDom_fab (i : Nat) (f : Dom → Dom) : (s.modDom i f).fab = s.fab := rfl
@[simp] theorem State.modDom_cx (i : Nat) (f : Dom → Dom) : (s.modDom i f).cx = s.cx := rfl
@[simp] theorem State.modDom_thorn (i : Nat) (f : Dom → Dom) : (s.modDom i f).thorn = s.thorn := rfl
@[simp] theorem State.modDom_mill (i : Nat) (f : Dom → Dom) : (s.modDom i f).mill = s.mill := rfl
@[simp] theorem State.modDom_host (i : Nat) (f : Dom → Dom) : (s.modDom i f).host = s.host := rfl
@[simp] theorem State.modDom_twin (i : Nat) (f : Dom → Dom) : (s.modDom i f).twin = s.twin := rfl
@[simp] theorem State.modDom_prot (i : Nat) (f : Dom → Dom) : (s.modDom i f).prot = s.prot := rfl
@[simp] theorem State.modDom_pass (i : Nat) (f : Dom → Dom) : (s.modDom i f).pass = s.pass := rfl
@[simp] theorem State.modDom_hearth (i : Nat) (f : Dom → Dom) : (s.modDom i f).hearth = s.hearth := rfl
@[simp] theorem State.modDom_boot (i : Nat) (f : Dom → Dom) : (s.modDom i f).boot = s.boot := rfl
@[simp] theorem State.modDom_faults (i : Nat) (f : Dom → Dom) : (s.modDom i f).faults = s.faults := rfl
@[simp] theorem State.modDom_util (i : Nat) (f : Dom → Dom) : (s.modDom i f).util = s.util := rfl
@[simp] theorem State.modDom_pending (i : Nat) (f : Dom → Dom) : (s.modDom i f).pending = s.pending := rfl
@[simp] theorem State.modDom_nowUs (i : Nat) (f : Dom → Dom) : (s.modDom i f).nowUs = s.nowUs := rfl
@[simp] theorem State.modDom_free (i : Nat) (f : Dom → Dom) : (s.modDom i f).free = s.free := rfl
@[simp] theorem State.modDom_rdata (i : Nat) (f : Dom → Dom) : (s.modDom i f).rdata = s.rdata := rfl

@[simp] theorem State.setXing_ctxs (i : Nat) (v : Xing) : (s.setXing i v).ctxs = s.ctxs := rfl
@[simp] theorem State.setXing_cores (i : Nat) (v : Xing) : (s.setXing i v).cores = s.cores := rfl
@[simp] theorem State.setXing_fab (i : Nat) (v : Xing) : (s.setXing i v).fab = s.fab := rfl
@[simp] theorem State.setXing_cx (i : Nat) (v : Xing) : (s.setXing i v).cx = s.cx := rfl
@[simp] theorem State.setXing_thorn (i : Nat) (v : Xing) : (s.setXing i v).thorn = s.thorn := rfl
@[simp] theorem State.setXing_mill (i : Nat) (v : Xing) : (s.setXing i v).mill = s.mill := rfl
@[simp] theorem State.setXing_host (i : Nat) (v : Xing) : (s.setXing i v).host = s.host := rfl
@[simp] theorem State.setXing_twin (i : Nat) (v : Xing) : (s.setXing i v).twin = s.twin := rfl
@[simp] theorem State.setXing_prot (i : Nat) (v : Xing) : (s.setXing i v).prot = s.prot := rfl
@[simp] theorem State.setXing_pass (i : Nat) (v : Xing) : (s.setXing i v).pass = s.pass := rfl
@[simp] theorem State.setXing_hearth (i : Nat) (v : Xing) : (s.setXing i v).hearth = s.hearth := rfl
@[simp] theorem State.setXing_boot (i : Nat) (v : Xing) : (s.setXing i v).boot = s.boot := rfl
@[simp] theorem State.setXing_faults (i : Nat) (v : Xing) : (s.setXing i v).faults = s.faults := rfl
@[simp] theorem State.setXing_util (i : Nat) (v : Xing) : (s.setXing i v).util = s.util := rfl
@[simp] theorem State.setXing_pending (i : Nat) (v : Xing) : (s.setXing i v).pending = s.pending := rfl
@[simp] theorem State.setXing_nowUs (i : Nat) (v : Xing) : (s.setXing i v).nowUs = s.nowUs := rfl
@[simp] theorem State.setXing_free (i : Nat) (v : Xing) : (s.setXing i v).free = s.free := rfl
@[simp] theorem State.setXing_rdata (i : Nat) (v : Xing) : (s.setXing i v).rdata = s.rdata := rfl

@[simp] theorem State.modXing_ctxs (i : Nat) (f : Xing → Xing) : (s.modXing i f).ctxs = s.ctxs := rfl
@[simp] theorem State.modXing_cores (i : Nat) (f : Xing → Xing) : (s.modXing i f).cores = s.cores := rfl
@[simp] theorem State.modXing_fab (i : Nat) (f : Xing → Xing) : (s.modXing i f).fab = s.fab := rfl
@[simp] theorem State.modXing_cx (i : Nat) (f : Xing → Xing) : (s.modXing i f).cx = s.cx := rfl
@[simp] theorem State.modXing_thorn (i : Nat) (f : Xing → Xing) : (s.modXing i f).thorn = s.thorn := rfl
@[simp] theorem State.modXing_mill (i : Nat) (f : Xing → Xing) : (s.modXing i f).mill = s.mill := rfl
@[simp] theorem State.modXing_host (i : Nat) (f : Xing → Xing) : (s.modXing i f).host = s.host := rfl
@[simp] theorem State.modXing_twin (i : Nat) (f : Xing → Xing) : (s.modXing i f).twin = s.twin := rfl
@[simp] theorem State.modXing_prot (i : Nat) (f : Xing → Xing) : (s.modXing i f).prot = s.prot := rfl
@[simp] theorem State.modXing_pass (i : Nat) (f : Xing → Xing) : (s.modXing i f).pass = s.pass := rfl
@[simp] theorem State.modXing_hearth (i : Nat) (f : Xing → Xing) : (s.modXing i f).hearth = s.hearth := rfl
@[simp] theorem State.modXing_boot (i : Nat) (f : Xing → Xing) : (s.modXing i f).boot = s.boot := rfl
@[simp] theorem State.modXing_faults (i : Nat) (f : Xing → Xing) : (s.modXing i f).faults = s.faults := rfl
@[simp] theorem State.modXing_util (i : Nat) (f : Xing → Xing) : (s.modXing i f).util = s.util := rfl
@[simp] theorem State.modXing_pending (i : Nat) (f : Xing → Xing) : (s.modXing i f).pending = s.pending := rfl
@[simp] theorem State.modXing_nowUs (i : Nat) (f : Xing → Xing) : (s.modXing i f).nowUs = s.nowUs := rfl
@[simp] theorem State.modXing_free (i : Nat) (f : Xing → Xing) : (s.modXing i f).free = s.free := rfl
@[simp] theorem State.modXing_rdata (i : Nat) (f : Xing → Xing) : (s.modXing i f).rdata = s.rdata := rfl

@[simp] theorem State.modFab_ctxs (f : Fab → Fab) : (s.modFab f).ctxs = s.ctxs := rfl
@[simp] theorem State.modFab_cores (f : Fab → Fab) : (s.modFab f).cores = s.cores := rfl
@[simp] theorem State.modFab_clk (f : Fab → Fab) : (s.modFab f).clk = s.clk := rfl
@[simp] theorem State.modFab_cx (f : Fab → Fab) : (s.modFab f).cx = s.cx := rfl
@[simp] theorem State.modFab_thorn (f : Fab → Fab) : (s.modFab f).thorn = s.thorn := rfl
@[simp] theorem State.modFab_mill (f : Fab → Fab) : (s.modFab f).mill = s.mill := rfl
@[simp] theorem State.modFab_host (f : Fab → Fab) : (s.modFab f).host = s.host := rfl
@[simp] theorem State.modFab_twin (f : Fab → Fab) : (s.modFab f).twin = s.twin := rfl
@[simp] theorem State.modFab_prot (f : Fab → Fab) : (s.modFab f).prot = s.prot := rfl
@[simp] theorem State.modFab_pass (f : Fab → Fab) : (s.modFab f).pass = s.pass := rfl
@[simp] theorem State.modFab_hearth (f : Fab → Fab) : (s.modFab f).hearth = s.hearth := rfl
@[simp] theorem State.modFab_boot (f : Fab → Fab) : (s.modFab f).boot = s.boot := rfl
@[simp] theorem State.modFab_faults (f : Fab → Fab) : (s.modFab f).faults = s.faults := rfl
@[simp] theorem State.modFab_util (f : Fab → Fab) : (s.modFab f).util = s.util := rfl
@[simp] theorem State.modFab_pending (f : Fab → Fab) : (s.modFab f).pending = s.pending := rfl
@[simp] theorem State.modFab_nowUs (f : Fab → Fab) : (s.modFab f).nowUs = s.nowUs := rfl
@[simp] theorem State.modFab_free (f : Fab → Fab) : (s.modFab f).free = s.free := rfl
@[simp] theorem State.modFab_rdata (f : Fab → Fab) : (s.modFab f).rdata = s.rdata := rfl

@[simp] theorem State.setFe_ctxs (i : Nat) (v : Fe) : (s.setFe i v).ctxs = s.ctxs := rfl
@[simp] theorem State.setFe_cores (i : Nat) (v : Fe) : (s.setFe i v).cores = s.cores := rfl
@[simp] theorem State.setFe_clk (i : Nat) (v : Fe) : (s.setFe i v).clk = s.clk := rfl
@[simp] theorem State.setFe_cx (i : Nat) (v : Fe) : (s.setFe i v).cx = s.cx := rfl
@[simp] theorem State.setFe_thorn (i : Nat) (v : Fe) : (s.setFe i v).thorn = s.thorn := rfl
@[simp] theorem State.setFe_mill (i : Nat) (v : Fe) : (s.setFe i v).mill = s.mill := rfl
@[simp] theorem State.setFe_host (i : Nat) (v : Fe) : (s.setFe i v).host = s.host := rfl
@[simp] theorem State.setFe_twin (i : Nat) (v : Fe) : (s.setFe i v).twin = s.twin := rfl
@[simp] theorem State.setFe_prot (i : Nat) (v : Fe) : (s.setFe i v).prot = s.prot := rfl
@[simp] theorem State.setFe_pass (i : Nat) (v : Fe) : (s.setFe i v).pass = s.pass := rfl
@[simp] theorem State.setFe_hearth (i : Nat) (v : Fe) : (s.setFe i v).hearth = s.hearth := rfl
@[simp] theorem State.setFe_boot (i : Nat) (v : Fe) : (s.setFe i v).boot = s.boot := rfl
@[simp] theorem State.setFe_faults (i : Nat) (v : Fe) : (s.setFe i v).faults = s.faults := rfl
@[simp] theorem State.setFe_util (i : Nat) (v : Fe) : (s.setFe i v).util = s.util := rfl
@[simp] theorem State.setFe_pending (i : Nat) (v : Fe) : (s.setFe i v).pending = s.pending := rfl
@[simp] theorem State.setFe_nowUs (i : Nat) (v : Fe) : (s.setFe i v).nowUs = s.nowUs := rfl
@[simp] theorem State.setFe_free (i : Nat) (v : Fe) : (s.setFe i v).free = s.free := rfl
@[simp] theorem State.setFe_rdata (i : Nat) (v : Fe) : (s.setFe i v).rdata = s.rdata := rfl

@[simp] theorem State.modFe_ctxs (i : Nat) (f : Fe → Fe) : (s.modFe i f).ctxs = s.ctxs := rfl
@[simp] theorem State.modFe_cores (i : Nat) (f : Fe → Fe) : (s.modFe i f).cores = s.cores := rfl
@[simp] theorem State.modFe_clk (i : Nat) (f : Fe → Fe) : (s.modFe i f).clk = s.clk := rfl
@[simp] theorem State.modFe_cx (i : Nat) (f : Fe → Fe) : (s.modFe i f).cx = s.cx := rfl
@[simp] theorem State.modFe_thorn (i : Nat) (f : Fe → Fe) : (s.modFe i f).thorn = s.thorn := rfl
@[simp] theorem State.modFe_mill (i : Nat) (f : Fe → Fe) : (s.modFe i f).mill = s.mill := rfl
@[simp] theorem State.modFe_host (i : Nat) (f : Fe → Fe) : (s.modFe i f).host = s.host := rfl
@[simp] theorem State.modFe_twin (i : Nat) (f : Fe → Fe) : (s.modFe i f).twin = s.twin := rfl
@[simp] theorem State.modFe_prot (i : Nat) (f : Fe → Fe) : (s.modFe i f).prot = s.prot := rfl
@[simp] theorem State.modFe_pass (i : Nat) (f : Fe → Fe) : (s.modFe i f).pass = s.pass := rfl
@[simp] theorem State.modFe_hearth (i : Nat) (f : Fe → Fe) : (s.modFe i f).hearth = s.hearth := rfl
@[simp] theorem State.modFe_boot (i : Nat) (f : Fe → Fe) : (s.modFe i f).boot = s.boot := rfl
@[simp] theorem State.modFe_faults (i : Nat) (f : Fe → Fe) : (s.modFe i f).faults = s.faults := rfl
@[simp] theorem State.modFe_util (i : Nat) (f : Fe → Fe) : (s.modFe i f).util = s.util := rfl
@[simp] theorem State.modFe_pending (i : Nat) (f : Fe → Fe) : (s.modFe i f).pending = s.pending := rfl
@[simp] theorem State.modFe_nowUs (i : Nat) (f : Fe → Fe) : (s.modFe i f).nowUs = s.nowUs := rfl
@[simp] theorem State.modFe_free (i : Nat) (f : Fe → Fe) : (s.modFe i f).free = s.free := rfl
@[simp] theorem State.modFe_rdata (i : Nat) (f : Fe → Fe) : (s.modFe i f).rdata = s.rdata := rfl

@[simp] theorem State.setMbox_ctxs (i : Nat) (v : Mailbox) : (s.setMbox i v).ctxs = s.ctxs := rfl
@[simp] theorem State.setMbox_cores (i : Nat) (v : Mailbox) : (s.setMbox i v).cores = s.cores := rfl
@[simp] theorem State.setMbox_clk (i : Nat) (v : Mailbox) : (s.setMbox i v).clk = s.clk := rfl
@[simp] theorem State.setMbox_cx (i : Nat) (v : Mailbox) : (s.setMbox i v).cx = s.cx := rfl
@[simp] theorem State.setMbox_thorn (i : Nat) (v : Mailbox) : (s.setMbox i v).thorn = s.thorn := rfl
@[simp] theorem State.setMbox_mill (i : Nat) (v : Mailbox) : (s.setMbox i v).mill = s.mill := rfl
@[simp] theorem State.setMbox_host (i : Nat) (v : Mailbox) : (s.setMbox i v).host = s.host := rfl
@[simp] theorem State.setMbox_twin (i : Nat) (v : Mailbox) : (s.setMbox i v).twin = s.twin := rfl
@[simp] theorem State.setMbox_prot (i : Nat) (v : Mailbox) : (s.setMbox i v).prot = s.prot := rfl
@[simp] theorem State.setMbox_pass (i : Nat) (v : Mailbox) : (s.setMbox i v).pass = s.pass := rfl
@[simp] theorem State.setMbox_hearth (i : Nat) (v : Mailbox) : (s.setMbox i v).hearth = s.hearth := rfl
@[simp] theorem State.setMbox_boot (i : Nat) (v : Mailbox) : (s.setMbox i v).boot = s.boot := rfl
@[simp] theorem State.setMbox_faults (i : Nat) (v : Mailbox) : (s.setMbox i v).faults = s.faults := rfl
@[simp] theorem State.setMbox_util (i : Nat) (v : Mailbox) : (s.setMbox i v).util = s.util := rfl
@[simp] theorem State.setMbox_pending (i : Nat) (v : Mailbox) : (s.setMbox i v).pending = s.pending := rfl
@[simp] theorem State.setMbox_nowUs (i : Nat) (v : Mailbox) : (s.setMbox i v).nowUs = s.nowUs := rfl
@[simp] theorem State.setMbox_free (i : Nat) (v : Mailbox) : (s.setMbox i v).free = s.free := rfl
@[simp] theorem State.setMbox_rdata (i : Nat) (v : Mailbox) : (s.setMbox i v).rdata = s.rdata := rfl

@[simp] theorem State.setBank_ctxs (i : Nat) (v : Option Holder) : (s.setBank i v).ctxs = s.ctxs := rfl
@[simp] theorem State.setBank_cores (i : Nat) (v : Option Holder) : (s.setBank i v).cores = s.cores := rfl
@[simp] theorem State.setBank_clk (i : Nat) (v : Option Holder) : (s.setBank i v).clk = s.clk := rfl
@[simp] theorem State.setBank_cx (i : Nat) (v : Option Holder) : (s.setBank i v).cx = s.cx := rfl
@[simp] theorem State.setBank_thorn (i : Nat) (v : Option Holder) : (s.setBank i v).thorn = s.thorn := rfl
@[simp] theorem State.setBank_mill (i : Nat) (v : Option Holder) : (s.setBank i v).mill = s.mill := rfl
@[simp] theorem State.setBank_host (i : Nat) (v : Option Holder) : (s.setBank i v).host = s.host := rfl
@[simp] theorem State.setBank_twin (i : Nat) (v : Option Holder) : (s.setBank i v).twin = s.twin := rfl
@[simp] theorem State.setBank_prot (i : Nat) (v : Option Holder) : (s.setBank i v).prot = s.prot := rfl
@[simp] theorem State.setBank_pass (i : Nat) (v : Option Holder) : (s.setBank i v).pass = s.pass := rfl
@[simp] theorem State.setBank_hearth (i : Nat) (v : Option Holder) : (s.setBank i v).hearth = s.hearth := rfl
@[simp] theorem State.setBank_boot (i : Nat) (v : Option Holder) : (s.setBank i v).boot = s.boot := rfl
@[simp] theorem State.setBank_faults (i : Nat) (v : Option Holder) : (s.setBank i v).faults = s.faults := rfl
@[simp] theorem State.setBank_util (i : Nat) (v : Option Holder) : (s.setBank i v).util = s.util := rfl
@[simp] theorem State.setBank_pending (i : Nat) (v : Option Holder) : (s.setBank i v).pending = s.pending := rfl
@[simp] theorem State.setBank_nowUs (i : Nat) (v : Option Holder) : (s.setBank i v).nowUs = s.nowUs := rfl
@[simp] theorem State.setBank_free (i : Nat) (v : Option Holder) : (s.setBank i v).free = s.free := rfl
@[simp] theorem State.setBank_rdata (i : Nat) (v : Option Holder) : (s.setBank i v).rdata = s.rdata := rfl

@[simp] theorem State.setTag_ctxs (i : Nat) (v : Option HbTag) : (s.setTag i v).ctxs = s.ctxs := rfl
@[simp] theorem State.setTag_cores (i : Nat) (v : Option HbTag) : (s.setTag i v).cores = s.cores := rfl
@[simp] theorem State.setTag_clk (i : Nat) (v : Option HbTag) : (s.setTag i v).clk = s.clk := rfl
@[simp] theorem State.setTag_cx (i : Nat) (v : Option HbTag) : (s.setTag i v).cx = s.cx := rfl
@[simp] theorem State.setTag_thorn (i : Nat) (v : Option HbTag) : (s.setTag i v).thorn = s.thorn := rfl
@[simp] theorem State.setTag_mill (i : Nat) (v : Option HbTag) : (s.setTag i v).mill = s.mill := rfl
@[simp] theorem State.setTag_host (i : Nat) (v : Option HbTag) : (s.setTag i v).host = s.host := rfl
@[simp] theorem State.setTag_twin (i : Nat) (v : Option HbTag) : (s.setTag i v).twin = s.twin := rfl
@[simp] theorem State.setTag_prot (i : Nat) (v : Option HbTag) : (s.setTag i v).prot = s.prot := rfl
@[simp] theorem State.setTag_pass (i : Nat) (v : Option HbTag) : (s.setTag i v).pass = s.pass := rfl
@[simp] theorem State.setTag_hearth (i : Nat) (v : Option HbTag) : (s.setTag i v).hearth = s.hearth := rfl
@[simp] theorem State.setTag_boot (i : Nat) (v : Option HbTag) : (s.setTag i v).boot = s.boot := rfl
@[simp] theorem State.setTag_faults (i : Nat) (v : Option HbTag) : (s.setTag i v).faults = s.faults := rfl
@[simp] theorem State.setTag_util (i : Nat) (v : Option HbTag) : (s.setTag i v).util = s.util := rfl
@[simp] theorem State.setTag_pending (i : Nat) (v : Option HbTag) : (s.setTag i v).pending = s.pending := rfl
@[simp] theorem State.setTag_nowUs (i : Nat) (v : Option HbTag) : (s.setTag i v).nowUs = s.nowUs := rfl
@[simp] theorem State.setTag_free (i : Nat) (v : Option HbTag) : (s.setTag i v).free = s.free := rfl
@[simp] theorem State.setTag_rdata (i : Nat) (v : Option HbTag) : (s.setTag i v).rdata = s.rdata := rfl

@[simp] theorem State.modCx_ctxs (f : Cx → Cx) : (s.modCx f).ctxs = s.ctxs := rfl
@[simp] theorem State.modCx_cores (f : Cx → Cx) : (s.modCx f).cores = s.cores := rfl
@[simp] theorem State.modCx_clk (f : Cx → Cx) : (s.modCx f).clk = s.clk := rfl
@[simp] theorem State.modCx_fab (f : Cx → Cx) : (s.modCx f).fab = s.fab := rfl
@[simp] theorem State.modCx_thorn (f : Cx → Cx) : (s.modCx f).thorn = s.thorn := rfl
@[simp] theorem State.modCx_mill (f : Cx → Cx) : (s.modCx f).mill = s.mill := rfl
@[simp] theorem State.modCx_host (f : Cx → Cx) : (s.modCx f).host = s.host := rfl
@[simp] theorem State.modCx_twin (f : Cx → Cx) : (s.modCx f).twin = s.twin := rfl
@[simp] theorem State.modCx_prot (f : Cx → Cx) : (s.modCx f).prot = s.prot := rfl
@[simp] theorem State.modCx_pass (f : Cx → Cx) : (s.modCx f).pass = s.pass := rfl
@[simp] theorem State.modCx_hearth (f : Cx → Cx) : (s.modCx f).hearth = s.hearth := rfl
@[simp] theorem State.modCx_boot (f : Cx → Cx) : (s.modCx f).boot = s.boot := rfl
@[simp] theorem State.modCx_faults (f : Cx → Cx) : (s.modCx f).faults = s.faults := rfl
@[simp] theorem State.modCx_util (f : Cx → Cx) : (s.modCx f).util = s.util := rfl
@[simp] theorem State.modCx_pending (f : Cx → Cx) : (s.modCx f).pending = s.pending := rfl
@[simp] theorem State.modCx_nowUs (f : Cx → Cx) : (s.modCx f).nowUs = s.nowUs := rfl
@[simp] theorem State.modCx_free (f : Cx → Cx) : (s.modCx f).free = s.free := rfl
@[simp] theorem State.modCx_rdata (f : Cx → Cx) : (s.modCx f).rdata = s.rdata := rfl

@[simp] theorem State.setAcc_ctxs (i : Nat) (v : Acc) : (s.setAcc i v).ctxs = s.ctxs := rfl
@[simp] theorem State.setAcc_cores (i : Nat) (v : Acc) : (s.setAcc i v).cores = s.cores := rfl
@[simp] theorem State.setAcc_clk (i : Nat) (v : Acc) : (s.setAcc i v).clk = s.clk := rfl
@[simp] theorem State.setAcc_fab (i : Nat) (v : Acc) : (s.setAcc i v).fab = s.fab := rfl
@[simp] theorem State.setAcc_thorn (i : Nat) (v : Acc) : (s.setAcc i v).thorn = s.thorn := rfl
@[simp] theorem State.setAcc_mill (i : Nat) (v : Acc) : (s.setAcc i v).mill = s.mill := rfl
@[simp] theorem State.setAcc_host (i : Nat) (v : Acc) : (s.setAcc i v).host = s.host := rfl
@[simp] theorem State.setAcc_twin (i : Nat) (v : Acc) : (s.setAcc i v).twin = s.twin := rfl
@[simp] theorem State.setAcc_prot (i : Nat) (v : Acc) : (s.setAcc i v).prot = s.prot := rfl
@[simp] theorem State.setAcc_pass (i : Nat) (v : Acc) : (s.setAcc i v).pass = s.pass := rfl
@[simp] theorem State.setAcc_hearth (i : Nat) (v : Acc) : (s.setAcc i v).hearth = s.hearth := rfl
@[simp] theorem State.setAcc_boot (i : Nat) (v : Acc) : (s.setAcc i v).boot = s.boot := rfl
@[simp] theorem State.setAcc_faults (i : Nat) (v : Acc) : (s.setAcc i v).faults = s.faults := rfl
@[simp] theorem State.setAcc_util (i : Nat) (v : Acc) : (s.setAcc i v).util = s.util := rfl
@[simp] theorem State.setAcc_pending (i : Nat) (v : Acc) : (s.setAcc i v).pending = s.pending := rfl
@[simp] theorem State.setAcc_nowUs (i : Nat) (v : Acc) : (s.setAcc i v).nowUs = s.nowUs := rfl
@[simp] theorem State.setAcc_free (i : Nat) (v : Acc) : (s.setAcc i v).free = s.free := rfl
@[simp] theorem State.setAcc_rdata (i : Nat) (v : Acc) : (s.setAcc i v).rdata = s.rdata := rfl

@[simp] theorem State.setGroup_ctxs (i : Nat) (v : Group) : (s.setGroup i v).ctxs = s.ctxs := rfl
@[simp] theorem State.setGroup_cores (i : Nat) (v : Group) : (s.setGroup i v).cores = s.cores := rfl
@[simp] theorem State.setGroup_clk (i : Nat) (v : Group) : (s.setGroup i v).clk = s.clk := rfl
@[simp] theorem State.setGroup_fab (i : Nat) (v : Group) : (s.setGroup i v).fab = s.fab := rfl
@[simp] theorem State.setGroup_cx (i : Nat) (v : Group) : (s.setGroup i v).cx = s.cx := rfl
@[simp] theorem State.setGroup_mill (i : Nat) (v : Group) : (s.setGroup i v).mill = s.mill := rfl
@[simp] theorem State.setGroup_host (i : Nat) (v : Group) : (s.setGroup i v).host = s.host := rfl
@[simp] theorem State.setGroup_twin (i : Nat) (v : Group) : (s.setGroup i v).twin = s.twin := rfl
@[simp] theorem State.setGroup_prot (i : Nat) (v : Group) : (s.setGroup i v).prot = s.prot := rfl
@[simp] theorem State.setGroup_pass (i : Nat) (v : Group) : (s.setGroup i v).pass = s.pass := rfl
@[simp] theorem State.setGroup_hearth (i : Nat) (v : Group) : (s.setGroup i v).hearth = s.hearth := rfl
@[simp] theorem State.setGroup_boot (i : Nat) (v : Group) : (s.setGroup i v).boot = s.boot := rfl
@[simp] theorem State.setGroup_faults (i : Nat) (v : Group) : (s.setGroup i v).faults = s.faults := rfl
@[simp] theorem State.setGroup_util (i : Nat) (v : Group) : (s.setGroup i v).util = s.util := rfl
@[simp] theorem State.setGroup_pending (i : Nat) (v : Group) : (s.setGroup i v).pending = s.pending := rfl
@[simp] theorem State.setGroup_nowUs (i : Nat) (v : Group) : (s.setGroup i v).nowUs = s.nowUs := rfl
@[simp] theorem State.setGroup_free (i : Nat) (v : Group) : (s.setGroup i v).free = s.free := rfl
@[simp] theorem State.setGroup_rdata (i : Nat) (v : Group) : (s.setGroup i v).rdata = s.rdata := rfl

@[simp] theorem State.modGroup_ctxs (i : Nat) (f : Group → Group) : (s.modGroup i f).ctxs = s.ctxs := rfl
@[simp] theorem State.modGroup_cores (i : Nat) (f : Group → Group) : (s.modGroup i f).cores = s.cores := rfl
@[simp] theorem State.modGroup_clk (i : Nat) (f : Group → Group) : (s.modGroup i f).clk = s.clk := rfl
@[simp] theorem State.modGroup_fab (i : Nat) (f : Group → Group) : (s.modGroup i f).fab = s.fab := rfl
@[simp] theorem State.modGroup_cx (i : Nat) (f : Group → Group) : (s.modGroup i f).cx = s.cx := rfl
@[simp] theorem State.modGroup_mill (i : Nat) (f : Group → Group) : (s.modGroup i f).mill = s.mill := rfl
@[simp] theorem State.modGroup_host (i : Nat) (f : Group → Group) : (s.modGroup i f).host = s.host := rfl
@[simp] theorem State.modGroup_twin (i : Nat) (f : Group → Group) : (s.modGroup i f).twin = s.twin := rfl
@[simp] theorem State.modGroup_prot (i : Nat) (f : Group → Group) : (s.modGroup i f).prot = s.prot := rfl
@[simp] theorem State.modGroup_pass (i : Nat) (f : Group → Group) : (s.modGroup i f).pass = s.pass := rfl
@[simp] theorem State.modGroup_hearth (i : Nat) (f : Group → Group) : (s.modGroup i f).hearth = s.hearth := rfl
@[simp] theorem State.modGroup_boot (i : Nat) (f : Group → Group) : (s.modGroup i f).boot = s.boot := rfl
@[simp] theorem State.modGroup_faults (i : Nat) (f : Group → Group) : (s.modGroup i f).faults = s.faults := rfl
@[simp] theorem State.modGroup_util (i : Nat) (f : Group → Group) : (s.modGroup i f).util = s.util := rfl
@[simp] theorem State.modGroup_pending (i : Nat) (f : Group → Group) : (s.modGroup i f).pending = s.pending := rfl
@[simp] theorem State.modGroup_nowUs (i : Nat) (f : Group → Group) : (s.modGroup i f).nowUs = s.nowUs := rfl
@[simp] theorem State.modGroup_free (i : Nat) (f : Group → Group) : (s.modGroup i f).free = s.free := rfl
@[simp] theorem State.modGroup_rdata (i : Nat) (f : Group → Group) : (s.modGroup i f).rdata = s.rdata := rfl

@[simp] theorem State.modThorn_ctxs (f : Thorn → Thorn) : (s.modThorn f).ctxs = s.ctxs := rfl
@[simp] theorem State.modThorn_cores (f : Thorn → Thorn) : (s.modThorn f).cores = s.cores := rfl
@[simp] theorem State.modThorn_clk (f : Thorn → Thorn) : (s.modThorn f).clk = s.clk := rfl
@[simp] theorem State.modThorn_fab (f : Thorn → Thorn) : (s.modThorn f).fab = s.fab := rfl
@[simp] theorem State.modThorn_cx (f : Thorn → Thorn) : (s.modThorn f).cx = s.cx := rfl
@[simp] theorem State.modThorn_mill (f : Thorn → Thorn) : (s.modThorn f).mill = s.mill := rfl
@[simp] theorem State.modThorn_host (f : Thorn → Thorn) : (s.modThorn f).host = s.host := rfl
@[simp] theorem State.modThorn_twin (f : Thorn → Thorn) : (s.modThorn f).twin = s.twin := rfl
@[simp] theorem State.modThorn_prot (f : Thorn → Thorn) : (s.modThorn f).prot = s.prot := rfl
@[simp] theorem State.modThorn_pass (f : Thorn → Thorn) : (s.modThorn f).pass = s.pass := rfl
@[simp] theorem State.modThorn_hearth (f : Thorn → Thorn) : (s.modThorn f).hearth = s.hearth := rfl
@[simp] theorem State.modThorn_boot (f : Thorn → Thorn) : (s.modThorn f).boot = s.boot := rfl
@[simp] theorem State.modThorn_faults (f : Thorn → Thorn) : (s.modThorn f).faults = s.faults := rfl
@[simp] theorem State.modThorn_util (f : Thorn → Thorn) : (s.modThorn f).util = s.util := rfl
@[simp] theorem State.modThorn_pending (f : Thorn → Thorn) : (s.modThorn f).pending = s.pending := rfl
@[simp] theorem State.modThorn_nowUs (f : Thorn → Thorn) : (s.modThorn f).nowUs = s.nowUs := rfl
@[simp] theorem State.modThorn_free (f : Thorn → Thorn) : (s.modThorn f).free = s.free := rfl
@[simp] theorem State.modThorn_rdata (f : Thorn → Thorn) : (s.modThorn f).rdata = s.rdata := rfl

@[simp] theorem State.modMill_ctxs (f : Mill → Mill) : (s.modMill f).ctxs = s.ctxs := rfl
@[simp] theorem State.modMill_cores (f : Mill → Mill) : (s.modMill f).cores = s.cores := rfl
@[simp] theorem State.modMill_clk (f : Mill → Mill) : (s.modMill f).clk = s.clk := rfl
@[simp] theorem State.modMill_fab (f : Mill → Mill) : (s.modMill f).fab = s.fab := rfl
@[simp] theorem State.modMill_cx (f : Mill → Mill) : (s.modMill f).cx = s.cx := rfl
@[simp] theorem State.modMill_thorn (f : Mill → Mill) : (s.modMill f).thorn = s.thorn := rfl
@[simp] theorem State.modMill_host (f : Mill → Mill) : (s.modMill f).host = s.host := rfl
@[simp] theorem State.modMill_twin (f : Mill → Mill) : (s.modMill f).twin = s.twin := rfl
@[simp] theorem State.modMill_prot (f : Mill → Mill) : (s.modMill f).prot = s.prot := rfl
@[simp] theorem State.modMill_pass (f : Mill → Mill) : (s.modMill f).pass = s.pass := rfl
@[simp] theorem State.modMill_hearth (f : Mill → Mill) : (s.modMill f).hearth = s.hearth := rfl
@[simp] theorem State.modMill_boot (f : Mill → Mill) : (s.modMill f).boot = s.boot := rfl
@[simp] theorem State.modMill_faults (f : Mill → Mill) : (s.modMill f).faults = s.faults := rfl
@[simp] theorem State.modMill_util (f : Mill → Mill) : (s.modMill f).util = s.util := rfl
@[simp] theorem State.modMill_pending (f : Mill → Mill) : (s.modMill f).pending = s.pending := rfl
@[simp] theorem State.modMill_nowUs (f : Mill → Mill) : (s.modMill f).nowUs = s.nowUs := rfl
@[simp] theorem State.modMill_free (f : Mill → Mill) : (s.modMill f).free = s.free := rfl
@[simp] theorem State.modMill_rdata (f : Mill → Mill) : (s.modMill f).rdata = s.rdata := rfl

@[simp] theorem State.setAcct_ctxs (i : Nat) (v : Acct) : (s.setAcct i v).ctxs = s.ctxs := rfl
@[simp] theorem State.setAcct_cores (i : Nat) (v : Acct) : (s.setAcct i v).cores = s.cores := rfl
@[simp] theorem State.setAcct_clk (i : Nat) (v : Acct) : (s.setAcct i v).clk = s.clk := rfl
@[simp] theorem State.setAcct_fab (i : Nat) (v : Acct) : (s.setAcct i v).fab = s.fab := rfl
@[simp] theorem State.setAcct_cx (i : Nat) (v : Acct) : (s.setAcct i v).cx = s.cx := rfl
@[simp] theorem State.setAcct_thorn (i : Nat) (v : Acct) : (s.setAcct i v).thorn = s.thorn := rfl
@[simp] theorem State.setAcct_host (i : Nat) (v : Acct) : (s.setAcct i v).host = s.host := rfl
@[simp] theorem State.setAcct_twin (i : Nat) (v : Acct) : (s.setAcct i v).twin = s.twin := rfl
@[simp] theorem State.setAcct_prot (i : Nat) (v : Acct) : (s.setAcct i v).prot = s.prot := rfl
@[simp] theorem State.setAcct_pass (i : Nat) (v : Acct) : (s.setAcct i v).pass = s.pass := rfl
@[simp] theorem State.setAcct_hearth (i : Nat) (v : Acct) : (s.setAcct i v).hearth = s.hearth := rfl
@[simp] theorem State.setAcct_boot (i : Nat) (v : Acct) : (s.setAcct i v).boot = s.boot := rfl
@[simp] theorem State.setAcct_faults (i : Nat) (v : Acct) : (s.setAcct i v).faults = s.faults := rfl
@[simp] theorem State.setAcct_util (i : Nat) (v : Acct) : (s.setAcct i v).util = s.util := rfl
@[simp] theorem State.setAcct_pending (i : Nat) (v : Acct) : (s.setAcct i v).pending = s.pending := rfl
@[simp] theorem State.setAcct_nowUs (i : Nat) (v : Acct) : (s.setAcct i v).nowUs = s.nowUs := rfl
@[simp] theorem State.setAcct_free (i : Nat) (v : Acct) : (s.setAcct i v).free = s.free := rfl
@[simp] theorem State.setAcct_rdata (i : Nat) (v : Acct) : (s.setAcct i v).rdata = s.rdata := rfl

@[simp] theorem State.modAcct_ctxs (i : Nat) (f : Acct → Acct) : (s.modAcct i f).ctxs = s.ctxs := rfl
@[simp] theorem State.modAcct_cores (i : Nat) (f : Acct → Acct) : (s.modAcct i f).cores = s.cores := rfl
@[simp] theorem State.modAcct_clk (i : Nat) (f : Acct → Acct) : (s.modAcct i f).clk = s.clk := rfl
@[simp] theorem State.modAcct_fab (i : Nat) (f : Acct → Acct) : (s.modAcct i f).fab = s.fab := rfl
@[simp] theorem State.modAcct_cx (i : Nat) (f : Acct → Acct) : (s.modAcct i f).cx = s.cx := rfl
@[simp] theorem State.modAcct_thorn (i : Nat) (f : Acct → Acct) : (s.modAcct i f).thorn = s.thorn := rfl
@[simp] theorem State.modAcct_host (i : Nat) (f : Acct → Acct) : (s.modAcct i f).host = s.host := rfl
@[simp] theorem State.modAcct_twin (i : Nat) (f : Acct → Acct) : (s.modAcct i f).twin = s.twin := rfl
@[simp] theorem State.modAcct_prot (i : Nat) (f : Acct → Acct) : (s.modAcct i f).prot = s.prot := rfl
@[simp] theorem State.modAcct_pass (i : Nat) (f : Acct → Acct) : (s.modAcct i f).pass = s.pass := rfl
@[simp] theorem State.modAcct_hearth (i : Nat) (f : Acct → Acct) : (s.modAcct i f).hearth = s.hearth := rfl
@[simp] theorem State.modAcct_boot (i : Nat) (f : Acct → Acct) : (s.modAcct i f).boot = s.boot := rfl
@[simp] theorem State.modAcct_faults (i : Nat) (f : Acct → Acct) : (s.modAcct i f).faults = s.faults := rfl
@[simp] theorem State.modAcct_util (i : Nat) (f : Acct → Acct) : (s.modAcct i f).util = s.util := rfl
@[simp] theorem State.modAcct_pending (i : Nat) (f : Acct → Acct) : (s.modAcct i f).pending = s.pending := rfl
@[simp] theorem State.modAcct_nowUs (i : Nat) (f : Acct → Acct) : (s.modAcct i f).nowUs = s.nowUs := rfl
@[simp] theorem State.modAcct_free (i : Nat) (f : Acct → Acct) : (s.modAcct i f).free = s.free := rfl
@[simp] theorem State.modAcct_rdata (i : Nat) (f : Acct → Acct) : (s.modAcct i f).rdata = s.rdata := rfl

@[simp] theorem State.modHost_ctxs (f : HostP → HostP) : (s.modHost f).ctxs = s.ctxs := rfl
@[simp] theorem State.modHost_cores (f : HostP → HostP) : (s.modHost f).cores = s.cores := rfl
@[simp] theorem State.modHost_clk (f : HostP → HostP) : (s.modHost f).clk = s.clk := rfl
@[simp] theorem State.modHost_fab (f : HostP → HostP) : (s.modHost f).fab = s.fab := rfl
@[simp] theorem State.modHost_cx (f : HostP → HostP) : (s.modHost f).cx = s.cx := rfl
@[simp] theorem State.modHost_thorn (f : HostP → HostP) : (s.modHost f).thorn = s.thorn := rfl
@[simp] theorem State.modHost_mill (f : HostP → HostP) : (s.modHost f).mill = s.mill := rfl
@[simp] theorem State.modHost_twin (f : HostP → HostP) : (s.modHost f).twin = s.twin := rfl
@[simp] theorem State.modHost_prot (f : HostP → HostP) : (s.modHost f).prot = s.prot := rfl
@[simp] theorem State.modHost_pass (f : HostP → HostP) : (s.modHost f).pass = s.pass := rfl
@[simp] theorem State.modHost_hearth (f : HostP → HostP) : (s.modHost f).hearth = s.hearth := rfl
@[simp] theorem State.modHost_boot (f : HostP → HostP) : (s.modHost f).boot = s.boot := rfl
@[simp] theorem State.modHost_faults (f : HostP → HostP) : (s.modHost f).faults = s.faults := rfl
@[simp] theorem State.modHost_util (f : HostP → HostP) : (s.modHost f).util = s.util := rfl
@[simp] theorem State.modHost_pending (f : HostP → HostP) : (s.modHost f).pending = s.pending := rfl
@[simp] theorem State.modHost_nowUs (f : HostP → HostP) : (s.modHost f).nowUs = s.nowUs := rfl
@[simp] theorem State.modHost_free (f : HostP → HostP) : (s.modHost f).free = s.free := rfl
@[simp] theorem State.modHost_rdata (f : HostP → HostP) : (s.modHost f).rdata = s.rdata := rfl

@[simp] theorem State.setRing_ctxs (i : Nat) (v : Ring) : (s.setRing i v).ctxs = s.ctxs := rfl
@[simp] theorem State.setRing_cores (i : Nat) (v : Ring) : (s.setRing i v).cores = s.cores := rfl
@[simp] theorem State.setRing_clk (i : Nat) (v : Ring) : (s.setRing i v).clk = s.clk := rfl
@[simp] theorem State.setRing_fab (i : Nat) (v : Ring) : (s.setRing i v).fab = s.fab := rfl
@[simp] theorem State.setRing_cx (i : Nat) (v : Ring) : (s.setRing i v).cx = s.cx := rfl
@[simp] theorem State.setRing_thorn (i : Nat) (v : Ring) : (s.setRing i v).thorn = s.thorn := rfl
@[simp] theorem State.setRing_mill (i : Nat) (v : Ring) : (s.setRing i v).mill = s.mill := rfl
@[simp] theorem State.setRing_twin (i : Nat) (v : Ring) : (s.setRing i v).twin = s.twin := rfl
@[simp] theorem State.setRing_prot (i : Nat) (v : Ring) : (s.setRing i v).prot = s.prot := rfl
@[simp] theorem State.setRing_pass (i : Nat) (v : Ring) : (s.setRing i v).pass = s.pass := rfl
@[simp] theorem State.setRing_hearth (i : Nat) (v : Ring) : (s.setRing i v).hearth = s.hearth := rfl
@[simp] theorem State.setRing_boot (i : Nat) (v : Ring) : (s.setRing i v).boot = s.boot := rfl
@[simp] theorem State.setRing_faults (i : Nat) (v : Ring) : (s.setRing i v).faults = s.faults := rfl
@[simp] theorem State.setRing_util (i : Nat) (v : Ring) : (s.setRing i v).util = s.util := rfl
@[simp] theorem State.setRing_pending (i : Nat) (v : Ring) : (s.setRing i v).pending = s.pending := rfl
@[simp] theorem State.setRing_nowUs (i : Nat) (v : Ring) : (s.setRing i v).nowUs = s.nowUs := rfl
@[simp] theorem State.setRing_free (i : Nat) (v : Ring) : (s.setRing i v).free = s.free := rfl
@[simp] theorem State.setRing_rdata (i : Nat) (v : Ring) : (s.setRing i v).rdata = s.rdata := rfl

@[simp] theorem State.modRing_ctxs (i : Nat) (f : Ring → Ring) : (s.modRing i f).ctxs = s.ctxs := rfl
@[simp] theorem State.modRing_cores (i : Nat) (f : Ring → Ring) : (s.modRing i f).cores = s.cores := rfl
@[simp] theorem State.modRing_clk (i : Nat) (f : Ring → Ring) : (s.modRing i f).clk = s.clk := rfl
@[simp] theorem State.modRing_fab (i : Nat) (f : Ring → Ring) : (s.modRing i f).fab = s.fab := rfl
@[simp] theorem State.modRing_cx (i : Nat) (f : Ring → Ring) : (s.modRing i f).cx = s.cx := rfl
@[simp] theorem State.modRing_thorn (i : Nat) (f : Ring → Ring) : (s.modRing i f).thorn = s.thorn := rfl
@[simp] theorem State.modRing_mill (i : Nat) (f : Ring → Ring) : (s.modRing i f).mill = s.mill := rfl
@[simp] theorem State.modRing_twin (i : Nat) (f : Ring → Ring) : (s.modRing i f).twin = s.twin := rfl
@[simp] theorem State.modRing_prot (i : Nat) (f : Ring → Ring) : (s.modRing i f).prot = s.prot := rfl
@[simp] theorem State.modRing_pass (i : Nat) (f : Ring → Ring) : (s.modRing i f).pass = s.pass := rfl
@[simp] theorem State.modRing_hearth (i : Nat) (f : Ring → Ring) : (s.modRing i f).hearth = s.hearth := rfl
@[simp] theorem State.modRing_boot (i : Nat) (f : Ring → Ring) : (s.modRing i f).boot = s.boot := rfl
@[simp] theorem State.modRing_faults (i : Nat) (f : Ring → Ring) : (s.modRing i f).faults = s.faults := rfl
@[simp] theorem State.modRing_util (i : Nat) (f : Ring → Ring) : (s.modRing i f).util = s.util := rfl
@[simp] theorem State.modRing_pending (i : Nat) (f : Ring → Ring) : (s.modRing i f).pending = s.pending := rfl
@[simp] theorem State.modRing_nowUs (i : Nat) (f : Ring → Ring) : (s.modRing i f).nowUs = s.nowUs := rfl
@[simp] theorem State.modRing_free (i : Nat) (f : Ring → Ring) : (s.modRing i f).free = s.free := rfl
@[simp] theorem State.modRing_rdata (i : Nat) (f : Ring → Ring) : (s.modRing i f).rdata = s.rdata := rfl

@[simp] theorem State.modTwin_ctxs (f : Twin → Twin) : (s.modTwin f).ctxs = s.ctxs := rfl
@[simp] theorem State.modTwin_cores (f : Twin → Twin) : (s.modTwin f).cores = s.cores := rfl
@[simp] theorem State.modTwin_clk (f : Twin → Twin) : (s.modTwin f).clk = s.clk := rfl
@[simp] theorem State.modTwin_fab (f : Twin → Twin) : (s.modTwin f).fab = s.fab := rfl
@[simp] theorem State.modTwin_cx (f : Twin → Twin) : (s.modTwin f).cx = s.cx := rfl
@[simp] theorem State.modTwin_thorn (f : Twin → Twin) : (s.modTwin f).thorn = s.thorn := rfl
@[simp] theorem State.modTwin_mill (f : Twin → Twin) : (s.modTwin f).mill = s.mill := rfl
@[simp] theorem State.modTwin_host (f : Twin → Twin) : (s.modTwin f).host = s.host := rfl
@[simp] theorem State.modTwin_prot (f : Twin → Twin) : (s.modTwin f).prot = s.prot := rfl
@[simp] theorem State.modTwin_pass (f : Twin → Twin) : (s.modTwin f).pass = s.pass := rfl
@[simp] theorem State.modTwin_hearth (f : Twin → Twin) : (s.modTwin f).hearth = s.hearth := rfl
@[simp] theorem State.modTwin_boot (f : Twin → Twin) : (s.modTwin f).boot = s.boot := rfl
@[simp] theorem State.modTwin_faults (f : Twin → Twin) : (s.modTwin f).faults = s.faults := rfl
@[simp] theorem State.modTwin_util (f : Twin → Twin) : (s.modTwin f).util = s.util := rfl
@[simp] theorem State.modTwin_pending (f : Twin → Twin) : (s.modTwin f).pending = s.pending := rfl
@[simp] theorem State.modTwin_nowUs (f : Twin → Twin) : (s.modTwin f).nowUs = s.nowUs := rfl
@[simp] theorem State.modTwin_free (f : Twin → Twin) : (s.modTwin f).free = s.free := rfl
@[simp] theorem State.modTwin_rdata (f : Twin → Twin) : (s.modTwin f).rdata = s.rdata := rfl

@[simp] theorem State.modProt_ctxs (f : Prot → Prot) : (s.modProt f).ctxs = s.ctxs := rfl
@[simp] theorem State.modProt_cores (f : Prot → Prot) : (s.modProt f).cores = s.cores := rfl
@[simp] theorem State.modProt_clk (f : Prot → Prot) : (s.modProt f).clk = s.clk := rfl
@[simp] theorem State.modProt_fab (f : Prot → Prot) : (s.modProt f).fab = s.fab := rfl
@[simp] theorem State.modProt_cx (f : Prot → Prot) : (s.modProt f).cx = s.cx := rfl
@[simp] theorem State.modProt_thorn (f : Prot → Prot) : (s.modProt f).thorn = s.thorn := rfl
@[simp] theorem State.modProt_mill (f : Prot → Prot) : (s.modProt f).mill = s.mill := rfl
@[simp] theorem State.modProt_host (f : Prot → Prot) : (s.modProt f).host = s.host := rfl
@[simp] theorem State.modProt_twin (f : Prot → Prot) : (s.modProt f).twin = s.twin := rfl
@[simp] theorem State.modProt_pass (f : Prot → Prot) : (s.modProt f).pass = s.pass := rfl
@[simp] theorem State.modProt_hearth (f : Prot → Prot) : (s.modProt f).hearth = s.hearth := rfl
@[simp] theorem State.modProt_boot (f : Prot → Prot) : (s.modProt f).boot = s.boot := rfl
@[simp] theorem State.modProt_faults (f : Prot → Prot) : (s.modProt f).faults = s.faults := rfl
@[simp] theorem State.modProt_util (f : Prot → Prot) : (s.modProt f).util = s.util := rfl
@[simp] theorem State.modProt_pending (f : Prot → Prot) : (s.modProt f).pending = s.pending := rfl
@[simp] theorem State.modProt_nowUs (f : Prot → Prot) : (s.modProt f).nowUs = s.nowUs := rfl
@[simp] theorem State.modProt_free (f : Prot → Prot) : (s.modProt f).free = s.free := rfl
@[simp] theorem State.modProt_rdata (f : Prot → Prot) : (s.modProt f).rdata = s.rdata := rfl

@[simp] theorem State.modPass_ctxs (f : Pass → Pass) : (s.modPass f).ctxs = s.ctxs := rfl
@[simp] theorem State.modPass_cores (f : Pass → Pass) : (s.modPass f).cores = s.cores := rfl
@[simp] theorem State.modPass_clk (f : Pass → Pass) : (s.modPass f).clk = s.clk := rfl
@[simp] theorem State.modPass_fab (f : Pass → Pass) : (s.modPass f).fab = s.fab := rfl
@[simp] theorem State.modPass_cx (f : Pass → Pass) : (s.modPass f).cx = s.cx := rfl
@[simp] theorem State.modPass_thorn (f : Pass → Pass) : (s.modPass f).thorn = s.thorn := rfl
@[simp] theorem State.modPass_mill (f : Pass → Pass) : (s.modPass f).mill = s.mill := rfl
@[simp] theorem State.modPass_host (f : Pass → Pass) : (s.modPass f).host = s.host := rfl
@[simp] theorem State.modPass_twin (f : Pass → Pass) : (s.modPass f).twin = s.twin := rfl
@[simp] theorem State.modPass_prot (f : Pass → Pass) : (s.modPass f).prot = s.prot := rfl
@[simp] theorem State.modPass_hearth (f : Pass → Pass) : (s.modPass f).hearth = s.hearth := rfl
@[simp] theorem State.modPass_boot (f : Pass → Pass) : (s.modPass f).boot = s.boot := rfl
@[simp] theorem State.modPass_faults (f : Pass → Pass) : (s.modPass f).faults = s.faults := rfl
@[simp] theorem State.modPass_util (f : Pass → Pass) : (s.modPass f).util = s.util := rfl
@[simp] theorem State.modPass_pending (f : Pass → Pass) : (s.modPass f).pending = s.pending := rfl
@[simp] theorem State.modPass_nowUs (f : Pass → Pass) : (s.modPass f).nowUs = s.nowUs := rfl
@[simp] theorem State.modPass_free (f : Pass → Pass) : (s.modPass f).free = s.free := rfl
@[simp] theorem State.modPass_rdata (f : Pass → Pass) : (s.modPass f).rdata = s.rdata := rfl

@[simp] theorem State.setChan_ctxs (i : Nat) (v : Chan) : (s.setChan i v).ctxs = s.ctxs := rfl
@[simp] theorem State.setChan_cores (i : Nat) (v : Chan) : (s.setChan i v).cores = s.cores := rfl
@[simp] theorem State.setChan_clk (i : Nat) (v : Chan) : (s.setChan i v).clk = s.clk := rfl
@[simp] theorem State.setChan_fab (i : Nat) (v : Chan) : (s.setChan i v).fab = s.fab := rfl
@[simp] theorem State.setChan_cx (i : Nat) (v : Chan) : (s.setChan i v).cx = s.cx := rfl
@[simp] theorem State.setChan_thorn (i : Nat) (v : Chan) : (s.setChan i v).thorn = s.thorn := rfl
@[simp] theorem State.setChan_mill (i : Nat) (v : Chan) : (s.setChan i v).mill = s.mill := rfl
@[simp] theorem State.setChan_host (i : Nat) (v : Chan) : (s.setChan i v).host = s.host := rfl
@[simp] theorem State.setChan_twin (i : Nat) (v : Chan) : (s.setChan i v).twin = s.twin := rfl
@[simp] theorem State.setChan_prot (i : Nat) (v : Chan) : (s.setChan i v).prot = s.prot := rfl
@[simp] theorem State.setChan_hearth (i : Nat) (v : Chan) : (s.setChan i v).hearth = s.hearth := rfl
@[simp] theorem State.setChan_boot (i : Nat) (v : Chan) : (s.setChan i v).boot = s.boot := rfl
@[simp] theorem State.setChan_faults (i : Nat) (v : Chan) : (s.setChan i v).faults = s.faults := rfl
@[simp] theorem State.setChan_util (i : Nat) (v : Chan) : (s.setChan i v).util = s.util := rfl
@[simp] theorem State.setChan_pending (i : Nat) (v : Chan) : (s.setChan i v).pending = s.pending := rfl
@[simp] theorem State.setChan_nowUs (i : Nat) (v : Chan) : (s.setChan i v).nowUs = s.nowUs := rfl
@[simp] theorem State.setChan_free (i : Nat) (v : Chan) : (s.setChan i v).free = s.free := rfl
@[simp] theorem State.setChan_rdata (i : Nat) (v : Chan) : (s.setChan i v).rdata = s.rdata := rfl

@[simp] theorem State.modHearth_ctxs (f : Hearth → Hearth) : (s.modHearth f).ctxs = s.ctxs := rfl
@[simp] theorem State.modHearth_cores (f : Hearth → Hearth) : (s.modHearth f).cores = s.cores := rfl
@[simp] theorem State.modHearth_clk (f : Hearth → Hearth) : (s.modHearth f).clk = s.clk := rfl
@[simp] theorem State.modHearth_fab (f : Hearth → Hearth) : (s.modHearth f).fab = s.fab := rfl
@[simp] theorem State.modHearth_cx (f : Hearth → Hearth) : (s.modHearth f).cx = s.cx := rfl
@[simp] theorem State.modHearth_thorn (f : Hearth → Hearth) : (s.modHearth f).thorn = s.thorn := rfl
@[simp] theorem State.modHearth_mill (f : Hearth → Hearth) : (s.modHearth f).mill = s.mill := rfl
@[simp] theorem State.modHearth_host (f : Hearth → Hearth) : (s.modHearth f).host = s.host := rfl
@[simp] theorem State.modHearth_twin (f : Hearth → Hearth) : (s.modHearth f).twin = s.twin := rfl
@[simp] theorem State.modHearth_prot (f : Hearth → Hearth) : (s.modHearth f).prot = s.prot := rfl
@[simp] theorem State.modHearth_pass (f : Hearth → Hearth) : (s.modHearth f).pass = s.pass := rfl
@[simp] theorem State.modHearth_boot (f : Hearth → Hearth) : (s.modHearth f).boot = s.boot := rfl
@[simp] theorem State.modHearth_faults (f : Hearth → Hearth) : (s.modHearth f).faults = s.faults := rfl
@[simp] theorem State.modHearth_util (f : Hearth → Hearth) : (s.modHearth f).util = s.util := rfl
@[simp] theorem State.modHearth_pending (f : Hearth → Hearth) : (s.modHearth f).pending = s.pending := rfl
@[simp] theorem State.modHearth_nowUs (f : Hearth → Hearth) : (s.modHearth f).nowUs = s.nowUs := rfl
@[simp] theorem State.modHearth_free (f : Hearth → Hearth) : (s.modHearth f).free = s.free := rfl
@[simp] theorem State.modHearth_rdata (f : Hearth → Hearth) : (s.modHearth f).rdata = s.rdata := rfl

@[simp] theorem State.modBoot_ctxs (f : Boot → Boot) : (s.modBoot f).ctxs = s.ctxs := rfl
@[simp] theorem State.modBoot_cores (f : Boot → Boot) : (s.modBoot f).cores = s.cores := rfl
@[simp] theorem State.modBoot_clk (f : Boot → Boot) : (s.modBoot f).clk = s.clk := rfl
@[simp] theorem State.modBoot_fab (f : Boot → Boot) : (s.modBoot f).fab = s.fab := rfl
@[simp] theorem State.modBoot_cx (f : Boot → Boot) : (s.modBoot f).cx = s.cx := rfl
@[simp] theorem State.modBoot_thorn (f : Boot → Boot) : (s.modBoot f).thorn = s.thorn := rfl
@[simp] theorem State.modBoot_mill (f : Boot → Boot) : (s.modBoot f).mill = s.mill := rfl
@[simp] theorem State.modBoot_host (f : Boot → Boot) : (s.modBoot f).host = s.host := rfl
@[simp] theorem State.modBoot_twin (f : Boot → Boot) : (s.modBoot f).twin = s.twin := rfl
@[simp] theorem State.modBoot_prot (f : Boot → Boot) : (s.modBoot f).prot = s.prot := rfl
@[simp] theorem State.modBoot_pass (f : Boot → Boot) : (s.modBoot f).pass = s.pass := rfl
@[simp] theorem State.modBoot_hearth (f : Boot → Boot) : (s.modBoot f).hearth = s.hearth := rfl
@[simp] theorem State.modBoot_faults (f : Boot → Boot) : (s.modBoot f).faults = s.faults := rfl
@[simp] theorem State.modBoot_util (f : Boot → Boot) : (s.modBoot f).util = s.util := rfl
@[simp] theorem State.modBoot_pending (f : Boot → Boot) : (s.modBoot f).pending = s.pending := rfl
@[simp] theorem State.modBoot_nowUs (f : Boot → Boot) : (s.modBoot f).nowUs = s.nowUs := rfl
@[simp] theorem State.modBoot_free (f : Boot → Boot) : (s.modBoot f).free = s.free := rfl
@[simp] theorem State.modBoot_rdata (f : Boot → Boot) : (s.modBoot f).rdata = s.rdata := rfl

@[simp] theorem State.modFaults_ctxs (f : Faults → Faults) : (s.modFaults f).ctxs = s.ctxs := rfl
@[simp] theorem State.modFaults_cores (f : Faults → Faults) : (s.modFaults f).cores = s.cores := rfl
@[simp] theorem State.modFaults_clk (f : Faults → Faults) : (s.modFaults f).clk = s.clk := rfl
@[simp] theorem State.modFaults_fab (f : Faults → Faults) : (s.modFaults f).fab = s.fab := rfl
@[simp] theorem State.modFaults_cx (f : Faults → Faults) : (s.modFaults f).cx = s.cx := rfl
@[simp] theorem State.modFaults_thorn (f : Faults → Faults) : (s.modFaults f).thorn = s.thorn := rfl
@[simp] theorem State.modFaults_mill (f : Faults → Faults) : (s.modFaults f).mill = s.mill := rfl
@[simp] theorem State.modFaults_host (f : Faults → Faults) : (s.modFaults f).host = s.host := rfl
@[simp] theorem State.modFaults_twin (f : Faults → Faults) : (s.modFaults f).twin = s.twin := rfl
@[simp] theorem State.modFaults_prot (f : Faults → Faults) : (s.modFaults f).prot = s.prot := rfl
@[simp] theorem State.modFaults_pass (f : Faults → Faults) : (s.modFaults f).pass = s.pass := rfl
@[simp] theorem State.modFaults_hearth (f : Faults → Faults) : (s.modFaults f).hearth = s.hearth := rfl
@[simp] theorem State.modFaults_boot (f : Faults → Faults) : (s.modFaults f).boot = s.boot := rfl
@[simp] theorem State.modFaults_util (f : Faults → Faults) : (s.modFaults f).util = s.util := rfl
@[simp] theorem State.modFaults_pending (f : Faults → Faults) : (s.modFaults f).pending = s.pending := rfl
@[simp] theorem State.modFaults_nowUs (f : Faults → Faults) : (s.modFaults f).nowUs = s.nowUs := rfl
@[simp] theorem State.modFaults_free (f : Faults → Faults) : (s.modFaults f).free = s.free := rfl
@[simp] theorem State.modFaults_rdata (f : Faults → Faults) : (s.modFaults f).rdata = s.rdata := rfl

@[simp] theorem State.modUtil_ctxs (f : Util → Util) : (s.modUtil f).ctxs = s.ctxs := rfl
@[simp] theorem State.modUtil_cores (f : Util → Util) : (s.modUtil f).cores = s.cores := rfl
@[simp] theorem State.modUtil_clk (f : Util → Util) : (s.modUtil f).clk = s.clk := rfl
@[simp] theorem State.modUtil_fab (f : Util → Util) : (s.modUtil f).fab = s.fab := rfl
@[simp] theorem State.modUtil_cx (f : Util → Util) : (s.modUtil f).cx = s.cx := rfl
@[simp] theorem State.modUtil_thorn (f : Util → Util) : (s.modUtil f).thorn = s.thorn := rfl
@[simp] theorem State.modUtil_mill (f : Util → Util) : (s.modUtil f).mill = s.mill := rfl
@[simp] theorem State.modUtil_host (f : Util → Util) : (s.modUtil f).host = s.host := rfl
@[simp] theorem State.modUtil_twin (f : Util → Util) : (s.modUtil f).twin = s.twin := rfl
@[simp] theorem State.modUtil_prot (f : Util → Util) : (s.modUtil f).prot = s.prot := rfl
@[simp] theorem State.modUtil_pass (f : Util → Util) : (s.modUtil f).pass = s.pass := rfl
@[simp] theorem State.modUtil_hearth (f : Util → Util) : (s.modUtil f).hearth = s.hearth := rfl
@[simp] theorem State.modUtil_boot (f : Util → Util) : (s.modUtil f).boot = s.boot := rfl
@[simp] theorem State.modUtil_faults (f : Util → Util) : (s.modUtil f).faults = s.faults := rfl
@[simp] theorem State.modUtil_pending (f : Util → Util) : (s.modUtil f).pending = s.pending := rfl
@[simp] theorem State.modUtil_nowUs (f : Util → Util) : (s.modUtil f).nowUs = s.nowUs := rfl
@[simp] theorem State.modUtil_free (f : Util → Util) : (s.modUtil f).free = s.free := rfl
@[simp] theorem State.modUtil_rdata (f : Util → Util) : (s.modUtil f).rdata = s.rdata := rfl

@[simp] theorem State.withRdata_ctxs (w : Word) : (s.withRdata w).ctxs = s.ctxs := rfl
@[simp] theorem State.withRdata_cores (w : Word) : (s.withRdata w).cores = s.cores := rfl
@[simp] theorem State.withRdata_clk (w : Word) : (s.withRdata w).clk = s.clk := rfl
@[simp] theorem State.withRdata_fab (w : Word) : (s.withRdata w).fab = s.fab := rfl
@[simp] theorem State.withRdata_cx (w : Word) : (s.withRdata w).cx = s.cx := rfl
@[simp] theorem State.withRdata_thorn (w : Word) : (s.withRdata w).thorn = s.thorn := rfl
@[simp] theorem State.withRdata_mill (w : Word) : (s.withRdata w).mill = s.mill := rfl
@[simp] theorem State.withRdata_host (w : Word) : (s.withRdata w).host = s.host := rfl
@[simp] theorem State.withRdata_twin (w : Word) : (s.withRdata w).twin = s.twin := rfl
@[simp] theorem State.withRdata_prot (w : Word) : (s.withRdata w).prot = s.prot := rfl
@[simp] theorem State.withRdata_pass (w : Word) : (s.withRdata w).pass = s.pass := rfl
@[simp] theorem State.withRdata_hearth (w : Word) : (s.withRdata w).hearth = s.hearth := rfl
@[simp] theorem State.withRdata_boot (w : Word) : (s.withRdata w).boot = s.boot := rfl
@[simp] theorem State.withRdata_faults (w : Word) : (s.withRdata w).faults = s.faults := rfl
@[simp] theorem State.withRdata_util (w : Word) : (s.withRdata w).util = s.util := rfl
@[simp] theorem State.withRdata_pending (w : Word) : (s.withRdata w).pending = s.pending := rfl
@[simp] theorem State.withRdata_nowUs (w : Word) : (s.withRdata w).nowUs = s.nowUs := rfl
@[simp] theorem State.withRdata_free (w : Word) : (s.withRdata w).free = s.free := rfl

@[simp] theorem State.modClk_clk (f : Clk → Clk) : (s.modClk f).clk = f s.clk := rfl
@[simp] theorem State.modFab_fab (f : Fab → Fab) : (s.modFab f).fab = f s.fab := rfl
@[simp] theorem State.modCx_cx (f : Cx → Cx) : (s.modCx f).cx = f s.cx := rfl
@[simp] theorem State.modThorn_thorn (f : Thorn → Thorn) : (s.modThorn f).thorn = f s.thorn := rfl
@[simp] theorem State.modMill_mill (f : Mill → Mill) : (s.modMill f).mill = f s.mill := rfl
@[simp] theorem State.modHost_host (f : HostP → HostP) : (s.modHost f).host = f s.host := rfl
@[simp] theorem State.modTwin_twin (f : Twin → Twin) : (s.modTwin f).twin = f s.twin := rfl
@[simp] theorem State.modProt_prot (f : Prot → Prot) : (s.modProt f).prot = f s.prot := rfl
@[simp] theorem State.modPass_pass (f : Pass → Pass) : (s.modPass f).pass = f s.pass := rfl
@[simp] theorem State.modHearth_hearth (f : Hearth → Hearth) : (s.modHearth f).hearth = f s.hearth := rfl
@[simp] theorem State.modBoot_boot (f : Boot → Boot) : (s.modBoot f).boot = f s.boot := rfl
@[simp] theorem State.modFaults_faults (f : Faults → Faults) : (s.modFaults f).faults = f s.faults := rfl
@[simp] theorem State.modUtil_util (f : Util → Util) : (s.modUtil f).util = f s.util := rfl
@[simp] theorem State.withRdata_rdata (w : Word) : (s.withRdata w).rdata = w := rfl

theorem State.ctx_setCtx (i j : Nat) (v : Ctx) : (s.setCtx i v).ctx j = if i = j then v else s.ctx j := tget_tput _ _ _ _ _
@[simp] theorem State.ctx_setCtx_self (i : Nat) (v : Ctx) : (s.setCtx i v).ctx i = v := by simp [State.ctx_setCtx]
theorem State.ctx_modCtx (i j : Nat) (f : Ctx → Ctx) : (s.modCtx i f).ctx j = if i = j then f (s.ctx i) else s.ctx j := tget_tput _ _ _ _ _
@[simp] theorem State.ctx_modCtx_self (i : Nat) (f : Ctx → Ctx) : (s.modCtx i f).ctx i = f (s.ctx i) := by simp [State.ctx_modCtx]
theorem State.core_setCore (i j : Nat) (v : Core) : (s.setCore i v).core j = if i = j then v else s.core j := tget_tput _ _ _ _ _
@[simp] theorem State.core_setCore_self (i : Nat) (v : Core) : (s.setCore i v).core i = v := by simp [State.core_setCore]
theorem State.core_modCore (i j : Nat) (f : Core → Core) : (s.modCore i f).core j = if i = j then f (s.core i) else s.core j := tget_tput _ _ _ _ _
@[simp] theorem State.core_modCore_self (i : Nat) (f : Core → Core) : (s.modCore i f).core i = f (s.core i) := by simp [State.core_modCore]
theorem State.dom_setDom (i j : Nat) (v : Dom) : (s.setDom i v).dom j = if i = j then v else s.dom j := tget_tput _ _ _ _ _
@[simp] theorem State.dom_setDom_self (i : Nat) (v : Dom) : (s.setDom i v).dom i = v := by simp [State.dom_setDom]
theorem State.dom_modDom (i j : Nat) (f : Dom → Dom) : (s.modDom i f).dom j = if i = j then f (s.dom i) else s.dom j := tget_tput _ _ _ _ _
@[simp] theorem State.dom_modDom_self (i : Nat) (f : Dom → Dom) : (s.modDom i f).dom i = f (s.dom i) := by simp [State.dom_modDom]
theorem State.xing_setXing (i j : Nat) (v : Xing) : (s.setXing i v).xing j = if i = j then v else s.xing j := tget_tput _ _ _ _ _
@[simp] theorem State.xing_setXing_self (i : Nat) (v : Xing) : (s.setXing i v).xing i = v := by simp [State.xing_setXing]
theorem State.xing_modXing (i j : Nat) (f : Xing → Xing) : (s.modXing i f).xing j = if i = j then f (s.xing i) else s.xing j := tget_tput _ _ _ _ _
@[simp] theorem State.xing_modXing_self (i : Nat) (f : Xing → Xing) : (s.modXing i f).xing i = f (s.xing i) := by simp [State.xing_modXing]
theorem State.fe_setFe (i j : Nat) (v : Fe) : (s.setFe i v).fe j = if i = j then v else s.fe j := tget_tput _ _ _ _ _
@[simp] theorem State.fe_setFe_self (i : Nat) (v : Fe) : (s.setFe i v).fe i = v := by simp [State.fe_setFe]
theorem State.fe_modFe (i j : Nat) (f : Fe → Fe) : (s.modFe i f).fe j = if i = j then f (s.fe i) else s.fe j := tget_tput _ _ _ _ _
@[simp] theorem State.fe_modFe_self (i : Nat) (f : Fe → Fe) : (s.modFe i f).fe i = f (s.fe i) := by simp [State.fe_modFe]
theorem State.mbox_setMbox (i j : Nat) (v : Mailbox) : (s.setMbox i v).mbox j = if i = j then v else s.mbox j := tget_tput _ _ _ _ _
@[simp] theorem State.mbox_setMbox_self (i : Nat) (v : Mailbox) : (s.setMbox i v).mbox i = v := by simp [State.mbox_setMbox]
theorem State.bankHolder_setBank (i j : Nat) (v : Option Holder) : (s.setBank i v).bankHolder j = if i = j then v else s.bankHolder j := tget_tput _ _ _ _ _
@[simp] theorem State.bankHolder_setBank_self (i : Nat) (v : Option Holder) : (s.setBank i v).bankHolder i = v := by simp [State.bankHolder_setBank]
theorem State.hbTag_setTag (i j : Nat) (v : Option HbTag) : (s.setTag i v).hbTag j = if i = j then v else s.hbTag j := tget_tput _ _ _ _ _
@[simp] theorem State.hbTag_setTag_self (i : Nat) (v : Option HbTag) : (s.setTag i v).hbTag i = v := by simp [State.hbTag_setTag]
theorem State.acc_setAcc (i j : Nat) (v : Acc) : (s.setAcc i v).acc j = if i = j then v else s.acc j := tget_tput _ _ _ _ _
@[simp] theorem State.acc_setAcc_self (i : Nat) (v : Acc) : (s.setAcc i v).acc i = v := by simp [State.acc_setAcc]
theorem State.group_setGroup (i j : Nat) (v : Group) : (s.setGroup i v).group j = if i = j then v else s.group j := tget_tput _ _ _ _ _
@[simp] theorem State.group_setGroup_self (i : Nat) (v : Group) : (s.setGroup i v).group i = v := by simp [State.group_setGroup]
theorem State.group_modGroup (i j : Nat) (f : Group → Group) : (s.modGroup i f).group j = if i = j then f (s.group i) else s.group j := tget_tput _ _ _ _ _
@[simp] theorem State.group_modGroup_self (i : Nat) (f : Group → Group) : (s.modGroup i f).group i = f (s.group i) := by simp [State.group_modGroup]
theorem State.acct_setAcct (i j : Nat) (v : Acct) : (s.setAcct i v).acct j = if i = j then v else s.acct j := tget_tput _ _ _ _ _
@[simp] theorem State.acct_setAcct_self (i : Nat) (v : Acct) : (s.setAcct i v).acct i = v := by simp [State.acct_setAcct]
theorem State.acct_modAcct (i j : Nat) (f : Acct → Acct) : (s.modAcct i f).acct j = if i = j then f (s.acct i) else s.acct j := tget_tput _ _ _ _ _
@[simp] theorem State.acct_modAcct_self (i : Nat) (f : Acct → Acct) : (s.modAcct i f).acct i = f (s.acct i) := by simp [State.acct_modAcct]
theorem State.ring_setRing (i j : Nat) (v : Ring) : (s.setRing i v).ring j = if i = j then v else s.ring j := tget_tput _ _ _ _ _
@[simp] theorem State.ring_setRing_self (i : Nat) (v : Ring) : (s.setRing i v).ring i = v := by simp [State.ring_setRing]
theorem State.ring_modRing (i j : Nat) (f : Ring → Ring) : (s.modRing i f).ring j = if i = j then f (s.ring i) else s.ring j := tget_tput _ _ _ _ _
@[simp] theorem State.ring_modRing_self (i : Nat) (f : Ring → Ring) : (s.modRing i f).ring i = f (s.ring i) := by simp [State.ring_modRing]
theorem State.chan_setChan (i j : Nat) (v : Chan) : (s.setChan i v).chan j = if i = j then v else s.chan j := tget_tput _ _ _ _ _
@[simp] theorem State.chan_setChan_self (i : Nat) (v : Chan) : (s.setChan i v).chan i = v := by simp [State.chan_setChan]

@[simp] theorem State.ctx_of_setCore (j : Nat) (i : Nat) (v : Core) : (s.setCore i v).ctx j = s.ctx j := rfl
@[simp] theorem State.ctx_of_modCore (j : Nat) (i : Nat) (f : Core → Core) : (s.modCore i f).ctx j = s.ctx j := rfl
@[simp] theorem State.ctx_of_modClk (j : Nat) (f : Clk → Clk) : (s.modClk f).ctx j = s.ctx j := rfl
@[simp] theorem State.ctx_of_setDom (j : Nat) (i : Nat) (v : Dom) : (s.setDom i v).ctx j = s.ctx j := rfl
@[simp] theorem State.ctx_of_modDom (j : Nat) (i : Nat) (f : Dom → Dom) : (s.modDom i f).ctx j = s.ctx j := rfl
@[simp] theorem State.ctx_of_setXing (j : Nat) (i : Nat) (v : Xing) : (s.setXing i v).ctx j = s.ctx j := rfl
@[simp] theorem State.ctx_of_modXing (j : Nat) (i : Nat) (f : Xing → Xing) : (s.modXing i f).ctx j = s.ctx j := rfl
@[simp] theorem State.ctx_of_modFab (j : Nat) (f : Fab → Fab) : (s.modFab f).ctx j = s.ctx j := rfl
@[simp] theorem State.ctx_of_setFe (j : Nat) (i : Nat) (v : Fe) : (s.setFe i v).ctx j = s.ctx j := rfl
@[simp] theorem State.ctx_of_modFe (j : Nat) (i : Nat) (f : Fe → Fe) : (s.modFe i f).ctx j = s.ctx j := rfl
@[simp] theorem State.ctx_of_setMbox (j : Nat) (i : Nat) (v : Mailbox) : (s.setMbox i v).ctx j = s.ctx j := rfl
@[simp] theorem State.ctx_of_setBank (j : Nat) (i : Nat) (v : Option Holder) : (s.setBank i v).ctx j = s.ctx j := rfl
@[simp] theorem State.ctx_of_setTag (j : Nat) (i : Nat) (v : Option HbTag) : (s.setTag i v).ctx j = s.ctx j := rfl
@[simp] theorem State.ctx_of_modCx (j : Nat) (f : Cx → Cx) : (s.modCx f).ctx j = s.ctx j := rfl
@[simp] theorem State.ctx_of_setAcc (j : Nat) (i : Nat) (v : Acc) : (s.setAcc i v).ctx j = s.ctx j := rfl
@[simp] theorem State.ctx_of_setGroup (j : Nat) (i : Nat) (v : Group) : (s.setGroup i v).ctx j = s.ctx j := rfl
@[simp] theorem State.ctx_of_modGroup (j : Nat) (i : Nat) (f : Group → Group) : (s.modGroup i f).ctx j = s.ctx j := rfl
@[simp] theorem State.ctx_of_modThorn (j : Nat) (f : Thorn → Thorn) : (s.modThorn f).ctx j = s.ctx j := rfl
@[simp] theorem State.ctx_of_modMill (j : Nat) (f : Mill → Mill) : (s.modMill f).ctx j = s.ctx j := rfl
@[simp] theorem State.ctx_of_setAcct (j : Nat) (i : Nat) (v : Acct) : (s.setAcct i v).ctx j = s.ctx j := rfl
@[simp] theorem State.ctx_of_modAcct (j : Nat) (i : Nat) (f : Acct → Acct) : (s.modAcct i f).ctx j = s.ctx j := rfl
@[simp] theorem State.ctx_of_modHost (j : Nat) (f : HostP → HostP) : (s.modHost f).ctx j = s.ctx j := rfl
@[simp] theorem State.ctx_of_setRing (j : Nat) (i : Nat) (v : Ring) : (s.setRing i v).ctx j = s.ctx j := rfl
@[simp] theorem State.ctx_of_modRing (j : Nat) (i : Nat) (f : Ring → Ring) : (s.modRing i f).ctx j = s.ctx j := rfl
@[simp] theorem State.ctx_of_modTwin (j : Nat) (f : Twin → Twin) : (s.modTwin f).ctx j = s.ctx j := rfl
@[simp] theorem State.ctx_of_modProt (j : Nat) (f : Prot → Prot) : (s.modProt f).ctx j = s.ctx j := rfl
@[simp] theorem State.ctx_of_modPass (j : Nat) (f : Pass → Pass) : (s.modPass f).ctx j = s.ctx j := rfl
@[simp] theorem State.ctx_of_setChan (j : Nat) (i : Nat) (v : Chan) : (s.setChan i v).ctx j = s.ctx j := rfl
@[simp] theorem State.ctx_of_modHearth (j : Nat) (f : Hearth → Hearth) : (s.modHearth f).ctx j = s.ctx j := rfl
@[simp] theorem State.ctx_of_modBoot (j : Nat) (f : Boot → Boot) : (s.modBoot f).ctx j = s.ctx j := rfl
@[simp] theorem State.ctx_of_modFaults (j : Nat) (f : Faults → Faults) : (s.modFaults f).ctx j = s.ctx j := rfl
@[simp] theorem State.ctx_of_modUtil (j : Nat) (f : Util → Util) : (s.modUtil f).ctx j = s.ctx j := rfl
@[simp] theorem State.ctx_of_withRdata (j : Nat) (w : Word) : (s.withRdata w).ctx j = s.ctx j := rfl

@[simp] theorem State.core_of_setCtx (j : Nat) (i : Nat) (v : Ctx) : (s.setCtx i v).core j = s.core j := rfl
@[simp] theorem State.core_of_modCtx (j : Nat) (i : Nat) (f : Ctx → Ctx) : (s.modCtx i f).core j = s.core j := rfl
@[simp] theorem State.core_of_modClk (j : Nat) (f : Clk → Clk) : (s.modClk f).core j = s.core j := rfl
@[simp] theorem State.core_of_setDom (j : Nat) (i : Nat) (v : Dom) : (s.setDom i v).core j = s.core j := rfl
@[simp] theorem State.core_of_modDom (j : Nat) (i : Nat) (f : Dom → Dom) : (s.modDom i f).core j = s.core j := rfl
@[simp] theorem State.core_of_setXing (j : Nat) (i : Nat) (v : Xing) : (s.setXing i v).core j = s.core j := rfl
@[simp] theorem State.core_of_modXing (j : Nat) (i : Nat) (f : Xing → Xing) : (s.modXing i f).core j = s.core j := rfl
@[simp] theorem State.core_of_modFab (j : Nat) (f : Fab → Fab) : (s.modFab f).core j = s.core j := rfl
@[simp] theorem State.core_of_setFe (j : Nat) (i : Nat) (v : Fe) : (s.setFe i v).core j = s.core j := rfl
@[simp] theorem State.core_of_modFe (j : Nat) (i : Nat) (f : Fe → Fe) : (s.modFe i f).core j = s.core j := rfl
@[simp] theorem State.core_of_setMbox (j : Nat) (i : Nat) (v : Mailbox) : (s.setMbox i v).core j = s.core j := rfl
@[simp] theorem State.core_of_setBank (j : Nat) (i : Nat) (v : Option Holder) : (s.setBank i v).core j = s.core j := rfl
@[simp] theorem State.core_of_setTag (j : Nat) (i : Nat) (v : Option HbTag) : (s.setTag i v).core j = s.core j := rfl
@[simp] theorem State.core_of_modCx (j : Nat) (f : Cx → Cx) : (s.modCx f).core j = s.core j := rfl
@[simp] theorem State.core_of_setAcc (j : Nat) (i : Nat) (v : Acc) : (s.setAcc i v).core j = s.core j := rfl
@[simp] theorem State.core_of_setGroup (j : Nat) (i : Nat) (v : Group) : (s.setGroup i v).core j = s.core j := rfl
@[simp] theorem State.core_of_modGroup (j : Nat) (i : Nat) (f : Group → Group) : (s.modGroup i f).core j = s.core j := rfl
@[simp] theorem State.core_of_modThorn (j : Nat) (f : Thorn → Thorn) : (s.modThorn f).core j = s.core j := rfl
@[simp] theorem State.core_of_modMill (j : Nat) (f : Mill → Mill) : (s.modMill f).core j = s.core j := rfl
@[simp] theorem State.core_of_setAcct (j : Nat) (i : Nat) (v : Acct) : (s.setAcct i v).core j = s.core j := rfl
@[simp] theorem State.core_of_modAcct (j : Nat) (i : Nat) (f : Acct → Acct) : (s.modAcct i f).core j = s.core j := rfl
@[simp] theorem State.core_of_modHost (j : Nat) (f : HostP → HostP) : (s.modHost f).core j = s.core j := rfl
@[simp] theorem State.core_of_setRing (j : Nat) (i : Nat) (v : Ring) : (s.setRing i v).core j = s.core j := rfl
@[simp] theorem State.core_of_modRing (j : Nat) (i : Nat) (f : Ring → Ring) : (s.modRing i f).core j = s.core j := rfl
@[simp] theorem State.core_of_modTwin (j : Nat) (f : Twin → Twin) : (s.modTwin f).core j = s.core j := rfl
@[simp] theorem State.core_of_modProt (j : Nat) (f : Prot → Prot) : (s.modProt f).core j = s.core j := rfl
@[simp] theorem State.core_of_modPass (j : Nat) (f : Pass → Pass) : (s.modPass f).core j = s.core j := rfl
@[simp] theorem State.core_of_setChan (j : Nat) (i : Nat) (v : Chan) : (s.setChan i v).core j = s.core j := rfl
@[simp] theorem State.core_of_modHearth (j : Nat) (f : Hearth → Hearth) : (s.modHearth f).core j = s.core j := rfl
@[simp] theorem State.core_of_modBoot (j : Nat) (f : Boot → Boot) : (s.modBoot f).core j = s.core j := rfl
@[simp] theorem State.core_of_modFaults (j : Nat) (f : Faults → Faults) : (s.modFaults f).core j = s.core j := rfl
@[simp] theorem State.core_of_modUtil (j : Nat) (f : Util → Util) : (s.modUtil f).core j = s.core j := rfl
@[simp] theorem State.core_of_withRdata (j : Nat) (w : Word) : (s.withRdata w).core j = s.core j := rfl

@[simp] theorem State.dom_of_setCtx (j : Nat) (i : Nat) (v : Ctx) : (s.setCtx i v).dom j = s.dom j := rfl
@[simp] theorem State.dom_of_modCtx (j : Nat) (i : Nat) (f : Ctx → Ctx) : (s.modCtx i f).dom j = s.dom j := rfl
@[simp] theorem State.dom_of_setCore (j : Nat) (i : Nat) (v : Core) : (s.setCore i v).dom j = s.dom j := rfl
@[simp] theorem State.dom_of_modCore (j : Nat) (i : Nat) (f : Core → Core) : (s.modCore i f).dom j = s.dom j := rfl
@[simp] theorem State.dom_of_setXing (j : Nat) (i : Nat) (v : Xing) : (s.setXing i v).dom j = s.dom j := rfl
@[simp] theorem State.dom_of_modXing (j : Nat) (i : Nat) (f : Xing → Xing) : (s.modXing i f).dom j = s.dom j := rfl
@[simp] theorem State.dom_of_modFab (j : Nat) (f : Fab → Fab) : (s.modFab f).dom j = s.dom j := rfl
@[simp] theorem State.dom_of_setFe (j : Nat) (i : Nat) (v : Fe) : (s.setFe i v).dom j = s.dom j := rfl
@[simp] theorem State.dom_of_modFe (j : Nat) (i : Nat) (f : Fe → Fe) : (s.modFe i f).dom j = s.dom j := rfl
@[simp] theorem State.dom_of_setMbox (j : Nat) (i : Nat) (v : Mailbox) : (s.setMbox i v).dom j = s.dom j := rfl
@[simp] theorem State.dom_of_setBank (j : Nat) (i : Nat) (v : Option Holder) : (s.setBank i v).dom j = s.dom j := rfl
@[simp] theorem State.dom_of_setTag (j : Nat) (i : Nat) (v : Option HbTag) : (s.setTag i v).dom j = s.dom j := rfl
@[simp] theorem State.dom_of_modCx (j : Nat) (f : Cx → Cx) : (s.modCx f).dom j = s.dom j := rfl
@[simp] theorem State.dom_of_setAcc (j : Nat) (i : Nat) (v : Acc) : (s.setAcc i v).dom j = s.dom j := rfl
@[simp] theorem State.dom_of_setGroup (j : Nat) (i : Nat) (v : Group) : (s.setGroup i v).dom j = s.dom j := rfl
@[simp] theorem State.dom_of_modGroup (j : Nat) (i : Nat) (f : Group → Group) : (s.modGroup i f).dom j = s.dom j := rfl
@[simp] theorem State.dom_of_modThorn (j : Nat) (f : Thorn → Thorn) : (s.modThorn f).dom j = s.dom j := rfl
@[simp] theorem State.dom_of_modMill (j : Nat) (f : Mill → Mill) : (s.modMill f).dom j = s.dom j := rfl
@[simp] theorem State.dom_of_setAcct (j : Nat) (i : Nat) (v : Acct) : (s.setAcct i v).dom j = s.dom j := rfl
@[simp] theorem State.dom_of_modAcct (j : Nat) (i : Nat) (f : Acct → Acct) : (s.modAcct i f).dom j = s.dom j := rfl
@[simp] theorem State.dom_of_modHost (j : Nat) (f : HostP → HostP) : (s.modHost f).dom j = s.dom j := rfl
@[simp] theorem State.dom_of_setRing (j : Nat) (i : Nat) (v : Ring) : (s.setRing i v).dom j = s.dom j := rfl
@[simp] theorem State.dom_of_modRing (j : Nat) (i : Nat) (f : Ring → Ring) : (s.modRing i f).dom j = s.dom j := rfl
@[simp] theorem State.dom_of_modTwin (j : Nat) (f : Twin → Twin) : (s.modTwin f).dom j = s.dom j := rfl
@[simp] theorem State.dom_of_modProt (j : Nat) (f : Prot → Prot) : (s.modProt f).dom j = s.dom j := rfl
@[simp] theorem State.dom_of_modPass (j : Nat) (f : Pass → Pass) : (s.modPass f).dom j = s.dom j := rfl
@[simp] theorem State.dom_of_setChan (j : Nat) (i : Nat) (v : Chan) : (s.setChan i v).dom j = s.dom j := rfl
@[simp] theorem State.dom_of_modHearth (j : Nat) (f : Hearth → Hearth) : (s.modHearth f).dom j = s.dom j := rfl
@[simp] theorem State.dom_of_modBoot (j : Nat) (f : Boot → Boot) : (s.modBoot f).dom j = s.dom j := rfl
@[simp] theorem State.dom_of_modFaults (j : Nat) (f : Faults → Faults) : (s.modFaults f).dom j = s.dom j := rfl
@[simp] theorem State.dom_of_modUtil (j : Nat) (f : Util → Util) : (s.modUtil f).dom j = s.dom j := rfl
@[simp] theorem State.dom_of_withRdata (j : Nat) (w : Word) : (s.withRdata w).dom j = s.dom j := rfl

@[simp] theorem State.xing_of_setCtx (j : Nat) (i : Nat) (v : Ctx) : (s.setCtx i v).xing j = s.xing j := rfl
@[simp] theorem State.xing_of_modCtx (j : Nat) (i : Nat) (f : Ctx → Ctx) : (s.modCtx i f).xing j = s.xing j := rfl
@[simp] theorem State.xing_of_setCore (j : Nat) (i : Nat) (v : Core) : (s.setCore i v).xing j = s.xing j := rfl
@[simp] theorem State.xing_of_modCore (j : Nat) (i : Nat) (f : Core → Core) : (s.modCore i f).xing j = s.xing j := rfl
@[simp] theorem State.xing_of_setDom (j : Nat) (i : Nat) (v : Dom) : (s.setDom i v).xing j = s.xing j := rfl
@[simp] theorem State.xing_of_modDom (j : Nat) (i : Nat) (f : Dom → Dom) : (s.modDom i f).xing j = s.xing j := rfl
@[simp] theorem State.xing_of_modFab (j : Nat) (f : Fab → Fab) : (s.modFab f).xing j = s.xing j := rfl
@[simp] theorem State.xing_of_setFe (j : Nat) (i : Nat) (v : Fe) : (s.setFe i v).xing j = s.xing j := rfl
@[simp] theorem State.xing_of_modFe (j : Nat) (i : Nat) (f : Fe → Fe) : (s.modFe i f).xing j = s.xing j := rfl
@[simp] theorem State.xing_of_setMbox (j : Nat) (i : Nat) (v : Mailbox) : (s.setMbox i v).xing j = s.xing j := rfl
@[simp] theorem State.xing_of_setBank (j : Nat) (i : Nat) (v : Option Holder) : (s.setBank i v).xing j = s.xing j := rfl
@[simp] theorem State.xing_of_setTag (j : Nat) (i : Nat) (v : Option HbTag) : (s.setTag i v).xing j = s.xing j := rfl
@[simp] theorem State.xing_of_modCx (j : Nat) (f : Cx → Cx) : (s.modCx f).xing j = s.xing j := rfl
@[simp] theorem State.xing_of_setAcc (j : Nat) (i : Nat) (v : Acc) : (s.setAcc i v).xing j = s.xing j := rfl
@[simp] theorem State.xing_of_setGroup (j : Nat) (i : Nat) (v : Group) : (s.setGroup i v).xing j = s.xing j := rfl
@[simp] theorem State.xing_of_modGroup (j : Nat) (i : Nat) (f : Group → Group) : (s.modGroup i f).xing j = s.xing j := rfl
@[simp] theorem State.xing_of_modThorn (j : Nat) (f : Thorn → Thorn) : (s.modThorn f).xing j = s.xing j := rfl
@[simp] theorem State.xing_of_modMill (j : Nat) (f : Mill → Mill) : (s.modMill f).xing j = s.xing j := rfl
@[simp] theorem State.xing_of_setAcct (j : Nat) (i : Nat) (v : Acct) : (s.setAcct i v).xing j = s.xing j := rfl
@[simp] theorem State.xing_of_modAcct (j : Nat) (i : Nat) (f : Acct → Acct) : (s.modAcct i f).xing j = s.xing j := rfl
@[simp] theorem State.xing_of_modHost (j : Nat) (f : HostP → HostP) : (s.modHost f).xing j = s.xing j := rfl
@[simp] theorem State.xing_of_setRing (j : Nat) (i : Nat) (v : Ring) : (s.setRing i v).xing j = s.xing j := rfl
@[simp] theorem State.xing_of_modRing (j : Nat) (i : Nat) (f : Ring → Ring) : (s.modRing i f).xing j = s.xing j := rfl
@[simp] theorem State.xing_of_modTwin (j : Nat) (f : Twin → Twin) : (s.modTwin f).xing j = s.xing j := rfl
@[simp] theorem State.xing_of_modProt (j : Nat) (f : Prot → Prot) : (s.modProt f).xing j = s.xing j := rfl
@[simp] theorem State.xing_of_modPass (j : Nat) (f : Pass → Pass) : (s.modPass f).xing j = s.xing j := rfl
@[simp] theorem State.xing_of_setChan (j : Nat) (i : Nat) (v : Chan) : (s.setChan i v).xing j = s.xing j := rfl
@[simp] theorem State.xing_of_modHearth (j : Nat) (f : Hearth → Hearth) : (s.modHearth f).xing j = s.xing j := rfl
@[simp] theorem State.xing_of_modBoot (j : Nat) (f : Boot → Boot) : (s.modBoot f).xing j = s.xing j := rfl
@[simp] theorem State.xing_of_modFaults (j : Nat) (f : Faults → Faults) : (s.modFaults f).xing j = s.xing j := rfl
@[simp] theorem State.xing_of_modUtil (j : Nat) (f : Util → Util) : (s.modUtil f).xing j = s.xing j := rfl
@[simp] theorem State.xing_of_withRdata (j : Nat) (w : Word) : (s.withRdata w).xing j = s.xing j := rfl

@[simp] theorem State.fe_of_setCtx (j : Nat) (i : Nat) (v : Ctx) : (s.setCtx i v).fe j = s.fe j := rfl
@[simp] theorem State.fe_of_modCtx (j : Nat) (i : Nat) (f : Ctx → Ctx) : (s.modCtx i f).fe j = s.fe j := rfl
@[simp] theorem State.fe_of_setCore (j : Nat) (i : Nat) (v : Core) : (s.setCore i v).fe j = s.fe j := rfl
@[simp] theorem State.fe_of_modCore (j : Nat) (i : Nat) (f : Core → Core) : (s.modCore i f).fe j = s.fe j := rfl
@[simp] theorem State.fe_of_modClk (j : Nat) (f : Clk → Clk) : (s.modClk f).fe j = s.fe j := rfl
@[simp] theorem State.fe_of_setDom (j : Nat) (i : Nat) (v : Dom) : (s.setDom i v).fe j = s.fe j := rfl
@[simp] theorem State.fe_of_modDom (j : Nat) (i : Nat) (f : Dom → Dom) : (s.modDom i f).fe j = s.fe j := rfl
@[simp] theorem State.fe_of_setXing (j : Nat) (i : Nat) (v : Xing) : (s.setXing i v).fe j = s.fe j := rfl
@[simp] theorem State.fe_of_modXing (j : Nat) (i : Nat) (f : Xing → Xing) : (s.modXing i f).fe j = s.fe j := rfl
@[simp] theorem State.fe_of_setMbox (j : Nat) (i : Nat) (v : Mailbox) : (s.setMbox i v).fe j = s.fe j := rfl
@[simp] theorem State.fe_of_setBank (j : Nat) (i : Nat) (v : Option Holder) : (s.setBank i v).fe j = s.fe j := rfl
@[simp] theorem State.fe_of_setTag (j : Nat) (i : Nat) (v : Option HbTag) : (s.setTag i v).fe j = s.fe j := rfl
@[simp] theorem State.fe_of_modCx (j : Nat) (f : Cx → Cx) : (s.modCx f).fe j = s.fe j := rfl
@[simp] theorem State.fe_of_setAcc (j : Nat) (i : Nat) (v : Acc) : (s.setAcc i v).fe j = s.fe j := rfl
@[simp] theorem State.fe_of_setGroup (j : Nat) (i : Nat) (v : Group) : (s.setGroup i v).fe j = s.fe j := rfl
@[simp] theorem State.fe_of_modGroup (j : Nat) (i : Nat) (f : Group → Group) : (s.modGroup i f).fe j = s.fe j := rfl
@[simp] theorem State.fe_of_modThorn (j : Nat) (f : Thorn → Thorn) : (s.modThorn f).fe j = s.fe j := rfl
@[simp] theorem State.fe_of_modMill (j : Nat) (f : Mill → Mill) : (s.modMill f).fe j = s.fe j := rfl
@[simp] theorem State.fe_of_setAcct (j : Nat) (i : Nat) (v : Acct) : (s.setAcct i v).fe j = s.fe j := rfl
@[simp] theorem State.fe_of_modAcct (j : Nat) (i : Nat) (f : Acct → Acct) : (s.modAcct i f).fe j = s.fe j := rfl
@[simp] theorem State.fe_of_modHost (j : Nat) (f : HostP → HostP) : (s.modHost f).fe j = s.fe j := rfl
@[simp] theorem State.fe_of_setRing (j : Nat) (i : Nat) (v : Ring) : (s.setRing i v).fe j = s.fe j := rfl
@[simp] theorem State.fe_of_modRing (j : Nat) (i : Nat) (f : Ring → Ring) : (s.modRing i f).fe j = s.fe j := rfl
@[simp] theorem State.fe_of_modTwin (j : Nat) (f : Twin → Twin) : (s.modTwin f).fe j = s.fe j := rfl
@[simp] theorem State.fe_of_modProt (j : Nat) (f : Prot → Prot) : (s.modProt f).fe j = s.fe j := rfl
@[simp] theorem State.fe_of_modPass (j : Nat) (f : Pass → Pass) : (s.modPass f).fe j = s.fe j := rfl
@[simp] theorem State.fe_of_setChan (j : Nat) (i : Nat) (v : Chan) : (s.setChan i v).fe j = s.fe j := rfl
@[simp] theorem State.fe_of_modHearth (j : Nat) (f : Hearth → Hearth) : (s.modHearth f).fe j = s.fe j := rfl
@[simp] theorem State.fe_of_modBoot (j : Nat) (f : Boot → Boot) : (s.modBoot f).fe j = s.fe j := rfl
@[simp] theorem State.fe_of_modFaults (j : Nat) (f : Faults → Faults) : (s.modFaults f).fe j = s.fe j := rfl
@[simp] theorem State.fe_of_modUtil (j : Nat) (f : Util → Util) : (s.modUtil f).fe j = s.fe j := rfl
@[simp] theorem State.fe_of_withRdata (j : Nat) (w : Word) : (s.withRdata w).fe j = s.fe j := rfl

@[simp] theorem State.mbox_of_setCtx (j : Nat) (i : Nat) (v : Ctx) : (s.setCtx i v).mbox j = s.mbox j := rfl
@[simp] theorem State.mbox_of_modCtx (j : Nat) (i : Nat) (f : Ctx → Ctx) : (s.modCtx i f).mbox j = s.mbox j := rfl
@[simp] theorem State.mbox_of_setCore (j : Nat) (i : Nat) (v : Core) : (s.setCore i v).mbox j = s.mbox j := rfl
@[simp] theorem State.mbox_of_modCore (j : Nat) (i : Nat) (f : Core → Core) : (s.modCore i f).mbox j = s.mbox j := rfl
@[simp] theorem State.mbox_of_modClk (j : Nat) (f : Clk → Clk) : (s.modClk f).mbox j = s.mbox j := rfl
@[simp] theorem State.mbox_of_setDom (j : Nat) (i : Nat) (v : Dom) : (s.setDom i v).mbox j = s.mbox j := rfl
@[simp] theorem State.mbox_of_modDom (j : Nat) (i : Nat) (f : Dom → Dom) : (s.modDom i f).mbox j = s.mbox j := rfl
@[simp] theorem State.mbox_of_setXing (j : Nat) (i : Nat) (v : Xing) : (s.setXing i v).mbox j = s.mbox j := rfl
@[simp] theorem State.mbox_of_modXing (j : Nat) (i : Nat) (f : Xing → Xing) : (s.modXing i f).mbox j = s.mbox j := rfl
@[simp] theorem State.mbox_of_setFe (j : Nat) (i : Nat) (v : Fe) : (s.setFe i v).mbox j = s.mbox j := rfl
@[simp] theorem State.mbox_of_modFe (j : Nat) (i : Nat) (f : Fe → Fe) : (s.modFe i f).mbox j = s.mbox j := rfl
@[simp] theorem State.mbox_of_setBank (j : Nat) (i : Nat) (v : Option Holder) : (s.setBank i v).mbox j = s.mbox j := rfl
@[simp] theorem State.mbox_of_setTag (j : Nat) (i : Nat) (v : Option HbTag) : (s.setTag i v).mbox j = s.mbox j := rfl
@[simp] theorem State.mbox_of_modCx (j : Nat) (f : Cx → Cx) : (s.modCx f).mbox j = s.mbox j := rfl
@[simp] theorem State.mbox_of_setAcc (j : Nat) (i : Nat) (v : Acc) : (s.setAcc i v).mbox j = s.mbox j := rfl
@[simp] theorem State.mbox_of_setGroup (j : Nat) (i : Nat) (v : Group) : (s.setGroup i v).mbox j = s.mbox j := rfl
@[simp] theorem State.mbox_of_modGroup (j : Nat) (i : Nat) (f : Group → Group) : (s.modGroup i f).mbox j = s.mbox j := rfl
@[simp] theorem State.mbox_of_modThorn (j : Nat) (f : Thorn → Thorn) : (s.modThorn f).mbox j = s.mbox j := rfl
@[simp] theorem State.mbox_of_modMill (j : Nat) (f : Mill → Mill) : (s.modMill f).mbox j = s.mbox j := rfl
@[simp] theorem State.mbox_of_setAcct (j : Nat) (i : Nat) (v : Acct) : (s.setAcct i v).mbox j = s.mbox j := rfl
@[simp] theorem State.mbox_of_modAcct (j : Nat) (i : Nat) (f : Acct → Acct) : (s.modAcct i f).mbox j = s.mbox j := rfl
@[simp] theorem State.mbox_of_modHost (j : Nat) (f : HostP → HostP) : (s.modHost f).mbox j = s.mbox j := rfl
@[simp] theorem State.mbox_of_setRing (j : Nat) (i : Nat) (v : Ring) : (s.setRing i v).mbox j = s.mbox j := rfl
@[simp] theorem State.mbox_of_modRing (j : Nat) (i : Nat) (f : Ring → Ring) : (s.modRing i f).mbox j = s.mbox j := rfl
@[simp] theorem State.mbox_of_modTwin (j : Nat) (f : Twin → Twin) : (s.modTwin f).mbox j = s.mbox j := rfl
@[simp] theorem State.mbox_of_modProt (j : Nat) (f : Prot → Prot) : (s.modProt f).mbox j = s.mbox j := rfl
@[simp] theorem State.mbox_of_modPass (j : Nat) (f : Pass → Pass) : (s.modPass f).mbox j = s.mbox j := rfl
@[simp] theorem State.mbox_of_setChan (j : Nat) (i : Nat) (v : Chan) : (s.setChan i v).mbox j = s.mbox j := rfl
@[simp] theorem State.mbox_of_modHearth (j : Nat) (f : Hearth → Hearth) : (s.modHearth f).mbox j = s.mbox j := rfl
@[simp] theorem State.mbox_of_modBoot (j : Nat) (f : Boot → Boot) : (s.modBoot f).mbox j = s.mbox j := rfl
@[simp] theorem State.mbox_of_modFaults (j : Nat) (f : Faults → Faults) : (s.modFaults f).mbox j = s.mbox j := rfl
@[simp] theorem State.mbox_of_modUtil (j : Nat) (f : Util → Util) : (s.modUtil f).mbox j = s.mbox j := rfl
@[simp] theorem State.mbox_of_withRdata (j : Nat) (w : Word) : (s.withRdata w).mbox j = s.mbox j := rfl

@[simp] theorem State.bankHolder_of_setCtx (j : Nat) (i : Nat) (v : Ctx) : (s.setCtx i v).bankHolder j = s.bankHolder j := rfl
@[simp] theorem State.bankHolder_of_modCtx (j : Nat) (i : Nat) (f : Ctx → Ctx) : (s.modCtx i f).bankHolder j = s.bankHolder j := rfl
@[simp] theorem State.bankHolder_of_setCore (j : Nat) (i : Nat) (v : Core) : (s.setCore i v).bankHolder j = s.bankHolder j := rfl
@[simp] theorem State.bankHolder_of_modCore (j : Nat) (i : Nat) (f : Core → Core) : (s.modCore i f).bankHolder j = s.bankHolder j := rfl
@[simp] theorem State.bankHolder_of_modClk (j : Nat) (f : Clk → Clk) : (s.modClk f).bankHolder j = s.bankHolder j := rfl
@[simp] theorem State.bankHolder_of_setDom (j : Nat) (i : Nat) (v : Dom) : (s.setDom i v).bankHolder j = s.bankHolder j := rfl
@[simp] theorem State.bankHolder_of_modDom (j : Nat) (i : Nat) (f : Dom → Dom) : (s.modDom i f).bankHolder j = s.bankHolder j := rfl
@[simp] theorem State.bankHolder_of_setXing (j : Nat) (i : Nat) (v : Xing) : (s.setXing i v).bankHolder j = s.bankHolder j := rfl
@[simp] theorem State.bankHolder_of_modXing (j : Nat) (i : Nat) (f : Xing → Xing) : (s.modXing i f).bankHolder j = s.bankHolder j := rfl
@[simp] theorem State.bankHolder_of_setFe (j : Nat) (i : Nat) (v : Fe) : (s.setFe i v).bankHolder j = s.bankHolder j := rfl
@[simp] theorem State.bankHolder_of_modFe (j : Nat) (i : Nat) (f : Fe → Fe) : (s.modFe i f).bankHolder j = s.bankHolder j := rfl
@[simp] theorem State.bankHolder_of_setMbox (j : Nat) (i : Nat) (v : Mailbox) : (s.setMbox i v).bankHolder j = s.bankHolder j := rfl
@[simp] theorem State.bankHolder_of_setTag (j : Nat) (i : Nat) (v : Option HbTag) : (s.setTag i v).bankHolder j = s.bankHolder j := rfl
@[simp] theorem State.bankHolder_of_modCx (j : Nat) (f : Cx → Cx) : (s.modCx f).bankHolder j = s.bankHolder j := rfl
@[simp] theorem State.bankHolder_of_setAcc (j : Nat) (i : Nat) (v : Acc) : (s.setAcc i v).bankHolder j = s.bankHolder j := rfl
@[simp] theorem State.bankHolder_of_setGroup (j : Nat) (i : Nat) (v : Group) : (s.setGroup i v).bankHolder j = s.bankHolder j := rfl
@[simp] theorem State.bankHolder_of_modGroup (j : Nat) (i : Nat) (f : Group → Group) : (s.modGroup i f).bankHolder j = s.bankHolder j := rfl
@[simp] theorem State.bankHolder_of_modThorn (j : Nat) (f : Thorn → Thorn) : (s.modThorn f).bankHolder j = s.bankHolder j := rfl
@[simp] theorem State.bankHolder_of_modMill (j : Nat) (f : Mill → Mill) : (s.modMill f).bankHolder j = s.bankHolder j := rfl
@[simp] theorem State.bankHolder_of_setAcct (j : Nat) (i : Nat) (v : Acct) : (s.setAcct i v).bankHolder j = s.bankHolder j := rfl
@[simp] theorem State.bankHolder_of_modAcct (j : Nat) (i : Nat) (f : Acct → Acct) : (s.modAcct i f).bankHolder j = s.bankHolder j := rfl
@[simp] theorem State.bankHolder_of_modHost (j : Nat) (f : HostP → HostP) : (s.modHost f).bankHolder j = s.bankHolder j := rfl
@[simp] theorem State.bankHolder_of_setRing (j : Nat) (i : Nat) (v : Ring) : (s.setRing i v).bankHolder j = s.bankHolder j := rfl
@[simp] theorem State.bankHolder_of_modRing (j : Nat) (i : Nat) (f : Ring → Ring) : (s.modRing i f).bankHolder j = s.bankHolder j := rfl
@[simp] theorem State.bankHolder_of_modTwin (j : Nat) (f : Twin → Twin) : (s.modTwin f).bankHolder j = s.bankHolder j := rfl
@[simp] theorem State.bankHolder_of_modProt (j : Nat) (f : Prot → Prot) : (s.modProt f).bankHolder j = s.bankHolder j := rfl
@[simp] theorem State.bankHolder_of_modPass (j : Nat) (f : Pass → Pass) : (s.modPass f).bankHolder j = s.bankHolder j := rfl
@[simp] theorem State.bankHolder_of_setChan (j : Nat) (i : Nat) (v : Chan) : (s.setChan i v).bankHolder j = s.bankHolder j := rfl
@[simp] theorem State.bankHolder_of_modHearth (j : Nat) (f : Hearth → Hearth) : (s.modHearth f).bankHolder j = s.bankHolder j := rfl
@[simp] theorem State.bankHolder_of_modBoot (j : Nat) (f : Boot → Boot) : (s.modBoot f).bankHolder j = s.bankHolder j := rfl
@[simp] theorem State.bankHolder_of_modFaults (j : Nat) (f : Faults → Faults) : (s.modFaults f).bankHolder j = s.bankHolder j := rfl
@[simp] theorem State.bankHolder_of_modUtil (j : Nat) (f : Util → Util) : (s.modUtil f).bankHolder j = s.bankHolder j := rfl
@[simp] theorem State.bankHolder_of_withRdata (j : Nat) (w : Word) : (s.withRdata w).bankHolder j = s.bankHolder j := rfl

@[simp] theorem State.hbTag_of_setCtx (j : Nat) (i : Nat) (v : Ctx) : (s.setCtx i v).hbTag j = s.hbTag j := rfl
@[simp] theorem State.hbTag_of_modCtx (j : Nat) (i : Nat) (f : Ctx → Ctx) : (s.modCtx i f).hbTag j = s.hbTag j := rfl
@[simp] theorem State.hbTag_of_setCore (j : Nat) (i : Nat) (v : Core) : (s.setCore i v).hbTag j = s.hbTag j := rfl
@[simp] theorem State.hbTag_of_modCore (j : Nat) (i : Nat) (f : Core → Core) : (s.modCore i f).hbTag j = s.hbTag j := rfl
@[simp] theorem State.hbTag_of_modClk (j : Nat) (f : Clk → Clk) : (s.modClk f).hbTag j = s.hbTag j := rfl
@[simp] theorem State.hbTag_of_setDom (j : Nat) (i : Nat) (v : Dom) : (s.setDom i v).hbTag j = s.hbTag j := rfl
@[simp] theorem State.hbTag_of_modDom (j : Nat) (i : Nat) (f : Dom → Dom) : (s.modDom i f).hbTag j = s.hbTag j := rfl
@[simp] theorem State.hbTag_of_setXing (j : Nat) (i : Nat) (v : Xing) : (s.setXing i v).hbTag j = s.hbTag j := rfl
@[simp] theorem State.hbTag_of_modXing (j : Nat) (i : Nat) (f : Xing → Xing) : (s.modXing i f).hbTag j = s.hbTag j := rfl
@[simp] theorem State.hbTag_of_setFe (j : Nat) (i : Nat) (v : Fe) : (s.setFe i v).hbTag j = s.hbTag j := rfl
@[simp] theorem State.hbTag_of_modFe (j : Nat) (i : Nat) (f : Fe → Fe) : (s.modFe i f).hbTag j = s.hbTag j := rfl
@[simp] theorem State.hbTag_of_setMbox (j : Nat) (i : Nat) (v : Mailbox) : (s.setMbox i v).hbTag j = s.hbTag j := rfl
@[simp] theorem State.hbTag_of_setBank (j : Nat) (i : Nat) (v : Option Holder) : (s.setBank i v).hbTag j = s.hbTag j := rfl
@[simp] theorem State.hbTag_of_modCx (j : Nat) (f : Cx → Cx) : (s.modCx f).hbTag j = s.hbTag j := rfl
@[simp] theorem State.hbTag_of_setAcc (j : Nat) (i : Nat) (v : Acc) : (s.setAcc i v).hbTag j = s.hbTag j := rfl
@[simp] theorem State.hbTag_of_setGroup (j : Nat) (i : Nat) (v : Group) : (s.setGroup i v).hbTag j = s.hbTag j := rfl
@[simp] theorem State.hbTag_of_modGroup (j : Nat) (i : Nat) (f : Group → Group) : (s.modGroup i f).hbTag j = s.hbTag j := rfl
@[simp] theorem State.hbTag_of_modThorn (j : Nat) (f : Thorn → Thorn) : (s.modThorn f).hbTag j = s.hbTag j := rfl
@[simp] theorem State.hbTag_of_modMill (j : Nat) (f : Mill → Mill) : (s.modMill f).hbTag j = s.hbTag j := rfl
@[simp] theorem State.hbTag_of_setAcct (j : Nat) (i : Nat) (v : Acct) : (s.setAcct i v).hbTag j = s.hbTag j := rfl
@[simp] theorem State.hbTag_of_modAcct (j : Nat) (i : Nat) (f : Acct → Acct) : (s.modAcct i f).hbTag j = s.hbTag j := rfl
@[simp] theorem State.hbTag_of_modHost (j : Nat) (f : HostP → HostP) : (s.modHost f).hbTag j = s.hbTag j := rfl
@[simp] theorem State.hbTag_of_setRing (j : Nat) (i : Nat) (v : Ring) : (s.setRing i v).hbTag j = s.hbTag j := rfl
@[simp] theorem State.hbTag_of_modRing (j : Nat) (i : Nat) (f : Ring → Ring) : (s.modRing i f).hbTag j = s.hbTag j := rfl
@[simp] theorem State.hbTag_of_modTwin (j : Nat) (f : Twin → Twin) : (s.modTwin f).hbTag j = s.hbTag j := rfl
@[simp] theorem State.hbTag_of_modProt (j : Nat) (f : Prot → Prot) : (s.modProt f).hbTag j = s.hbTag j := rfl
@[simp] theorem State.hbTag_of_modPass (j : Nat) (f : Pass → Pass) : (s.modPass f).hbTag j = s.hbTag j := rfl
@[simp] theorem State.hbTag_of_setChan (j : Nat) (i : Nat) (v : Chan) : (s.setChan i v).hbTag j = s.hbTag j := rfl
@[simp] theorem State.hbTag_of_modHearth (j : Nat) (f : Hearth → Hearth) : (s.modHearth f).hbTag j = s.hbTag j := rfl
@[simp] theorem State.hbTag_of_modBoot (j : Nat) (f : Boot → Boot) : (s.modBoot f).hbTag j = s.hbTag j := rfl
@[simp] theorem State.hbTag_of_modFaults (j : Nat) (f : Faults → Faults) : (s.modFaults f).hbTag j = s.hbTag j := rfl
@[simp] theorem State.hbTag_of_modUtil (j : Nat) (f : Util → Util) : (s.modUtil f).hbTag j = s.hbTag j := rfl
@[simp] theorem State.hbTag_of_withRdata (j : Nat) (w : Word) : (s.withRdata w).hbTag j = s.hbTag j := rfl

@[simp] theorem State.acc_of_setCtx (j : Nat) (i : Nat) (v : Ctx) : (s.setCtx i v).acc j = s.acc j := rfl
@[simp] theorem State.acc_of_modCtx (j : Nat) (i : Nat) (f : Ctx → Ctx) : (s.modCtx i f).acc j = s.acc j := rfl
@[simp] theorem State.acc_of_setCore (j : Nat) (i : Nat) (v : Core) : (s.setCore i v).acc j = s.acc j := rfl
@[simp] theorem State.acc_of_modCore (j : Nat) (i : Nat) (f : Core → Core) : (s.modCore i f).acc j = s.acc j := rfl
@[simp] theorem State.acc_of_modClk (j : Nat) (f : Clk → Clk) : (s.modClk f).acc j = s.acc j := rfl
@[simp] theorem State.acc_of_setDom (j : Nat) (i : Nat) (v : Dom) : (s.setDom i v).acc j = s.acc j := rfl
@[simp] theorem State.acc_of_modDom (j : Nat) (i : Nat) (f : Dom → Dom) : (s.modDom i f).acc j = s.acc j := rfl
@[simp] theorem State.acc_of_setXing (j : Nat) (i : Nat) (v : Xing) : (s.setXing i v).acc j = s.acc j := rfl
@[simp] theorem State.acc_of_modXing (j : Nat) (i : Nat) (f : Xing → Xing) : (s.modXing i f).acc j = s.acc j := rfl
@[simp] theorem State.acc_of_modFab (j : Nat) (f : Fab → Fab) : (s.modFab f).acc j = s.acc j := rfl
@[simp] theorem State.acc_of_setFe (j : Nat) (i : Nat) (v : Fe) : (s.setFe i v).acc j = s.acc j := rfl
@[simp] theorem State.acc_of_modFe (j : Nat) (i : Nat) (f : Fe → Fe) : (s.modFe i f).acc j = s.acc j := rfl
@[simp] theorem State.acc_of_setMbox (j : Nat) (i : Nat) (v : Mailbox) : (s.setMbox i v).acc j = s.acc j := rfl
@[simp] theorem State.acc_of_setBank (j : Nat) (i : Nat) (v : Option Holder) : (s.setBank i v).acc j = s.acc j := rfl
@[simp] theorem State.acc_of_setTag (j : Nat) (i : Nat) (v : Option HbTag) : (s.setTag i v).acc j = s.acc j := rfl
@[simp] theorem State.acc_of_setGroup (j : Nat) (i : Nat) (v : Group) : (s.setGroup i v).acc j = s.acc j := rfl
@[simp] theorem State.acc_of_modGroup (j : Nat) (i : Nat) (f : Group → Group) : (s.modGroup i f).acc j = s.acc j := rfl
@[simp] theorem State.acc_of_modThorn (j : Nat) (f : Thorn → Thorn) : (s.modThorn f).acc j = s.acc j := rfl
@[simp] theorem State.acc_of_modMill (j : Nat) (f : Mill → Mill) : (s.modMill f).acc j = s.acc j := rfl
@[simp] theorem State.acc_of_setAcct (j : Nat) (i : Nat) (v : Acct) : (s.setAcct i v).acc j = s.acc j := rfl
@[simp] theorem State.acc_of_modAcct (j : Nat) (i : Nat) (f : Acct → Acct) : (s.modAcct i f).acc j = s.acc j := rfl
@[simp] theorem State.acc_of_modHost (j : Nat) (f : HostP → HostP) : (s.modHost f).acc j = s.acc j := rfl
@[simp] theorem State.acc_of_setRing (j : Nat) (i : Nat) (v : Ring) : (s.setRing i v).acc j = s.acc j := rfl
@[simp] theorem State.acc_of_modRing (j : Nat) (i : Nat) (f : Ring → Ring) : (s.modRing i f).acc j = s.acc j := rfl
@[simp] theorem State.acc_of_modTwin (j : Nat) (f : Twin → Twin) : (s.modTwin f).acc j = s.acc j := rfl
@[simp] theorem State.acc_of_modProt (j : Nat) (f : Prot → Prot) : (s.modProt f).acc j = s.acc j := rfl
@[simp] theorem State.acc_of_modPass (j : Nat) (f : Pass → Pass) : (s.modPass f).acc j = s.acc j := rfl
@[simp] theorem State.acc_of_setChan (j : Nat) (i : Nat) (v : Chan) : (s.setChan i v).acc j = s.acc j := rfl
@[simp] theorem State.acc_of_modHearth (j : Nat) (f : Hearth → Hearth) : (s.modHearth f).acc j = s.acc j := rfl
@[simp] theorem State.acc_of_modBoot (j : Nat) (f : Boot → Boot) : (s.modBoot f).acc j = s.acc j := rfl
@[simp] theorem State.acc_of_modFaults (j : Nat) (f : Faults → Faults) : (s.modFaults f).acc j = s.acc j := rfl
@[simp] theorem State.acc_of_modUtil (j : Nat) (f : Util → Util) : (s.modUtil f).acc j = s.acc j := rfl
@[simp] theorem State.acc_of_withRdata (j : Nat) (w : Word) : (s.withRdata w).acc j = s.acc j := rfl

@[simp] theorem State.group_of_setCtx (j : Nat) (i : Nat) (v : Ctx) : (s.setCtx i v).group j = s.group j := rfl
@[simp] theorem State.group_of_modCtx (j : Nat) (i : Nat) (f : Ctx → Ctx) : (s.modCtx i f).group j = s.group j := rfl
@[simp] theorem State.group_of_setCore (j : Nat) (i : Nat) (v : Core) : (s.setCore i v).group j = s.group j := rfl
@[simp] theorem State.group_of_modCore (j : Nat) (i : Nat) (f : Core → Core) : (s.modCore i f).group j = s.group j := rfl
@[simp] theorem State.group_of_modClk (j : Nat) (f : Clk → Clk) : (s.modClk f).group j = s.group j := rfl
@[simp] theorem State.group_of_setDom (j : Nat) (i : Nat) (v : Dom) : (s.setDom i v).group j = s.group j := rfl
@[simp] theorem State.group_of_modDom (j : Nat) (i : Nat) (f : Dom → Dom) : (s.modDom i f).group j = s.group j := rfl
@[simp] theorem State.group_of_setXing (j : Nat) (i : Nat) (v : Xing) : (s.setXing i v).group j = s.group j := rfl
@[simp] theorem State.group_of_modXing (j : Nat) (i : Nat) (f : Xing → Xing) : (s.modXing i f).group j = s.group j := rfl
@[simp] theorem State.group_of_modFab (j : Nat) (f : Fab → Fab) : (s.modFab f).group j = s.group j := rfl
@[simp] theorem State.group_of_setFe (j : Nat) (i : Nat) (v : Fe) : (s.setFe i v).group j = s.group j := rfl
@[simp] theorem State.group_of_modFe (j : Nat) (i : Nat) (f : Fe → Fe) : (s.modFe i f).group j = s.group j := rfl
@[simp] theorem State.group_of_setMbox (j : Nat) (i : Nat) (v : Mailbox) : (s.setMbox i v).group j = s.group j := rfl
@[simp] theorem State.group_of_setBank (j : Nat) (i : Nat) (v : Option Holder) : (s.setBank i v).group j = s.group j := rfl
@[simp] theorem State.group_of_setTag (j : Nat) (i : Nat) (v : Option HbTag) : (s.setTag i v).group j = s.group j := rfl
@[simp] theorem State.group_of_modCx (j : Nat) (f : Cx → Cx) : (s.modCx f).group j = s.group j := rfl
@[simp] theorem State.group_of_setAcc (j : Nat) (i : Nat) (v : Acc) : (s.setAcc i v).group j = s.group j := rfl
@[simp] theorem State.group_of_modMill (j : Nat) (f : Mill → Mill) : (s.modMill f).group j = s.group j := rfl
@[simp] theorem State.group_of_setAcct (j : Nat) (i : Nat) (v : Acct) : (s.setAcct i v).group j = s.group j := rfl
@[simp] theorem State.group_of_modAcct (j : Nat) (i : Nat) (f : Acct → Acct) : (s.modAcct i f).group j = s.group j := rfl
@[simp] theorem State.group_of_modHost (j : Nat) (f : HostP → HostP) : (s.modHost f).group j = s.group j := rfl
@[simp] theorem State.group_of_setRing (j : Nat) (i : Nat) (v : Ring) : (s.setRing i v).group j = s.group j := rfl
@[simp] theorem State.group_of_modRing (j : Nat) (i : Nat) (f : Ring → Ring) : (s.modRing i f).group j = s.group j := rfl
@[simp] theorem State.group_of_modTwin (j : Nat) (f : Twin → Twin) : (s.modTwin f).group j = s.group j := rfl
@[simp] theorem State.group_of_modProt (j : Nat) (f : Prot → Prot) : (s.modProt f).group j = s.group j := rfl
@[simp] theorem State.group_of_modPass (j : Nat) (f : Pass → Pass) : (s.modPass f).group j = s.group j := rfl
@[simp] theorem State.group_of_setChan (j : Nat) (i : Nat) (v : Chan) : (s.setChan i v).group j = s.group j := rfl
@[simp] theorem State.group_of_modHearth (j : Nat) (f : Hearth → Hearth) : (s.modHearth f).group j = s.group j := rfl
@[simp] theorem State.group_of_modBoot (j : Nat) (f : Boot → Boot) : (s.modBoot f).group j = s.group j := rfl
@[simp] theorem State.group_of_modFaults (j : Nat) (f : Faults → Faults) : (s.modFaults f).group j = s.group j := rfl
@[simp] theorem State.group_of_modUtil (j : Nat) (f : Util → Util) : (s.modUtil f).group j = s.group j := rfl
@[simp] theorem State.group_of_withRdata (j : Nat) (w : Word) : (s.withRdata w).group j = s.group j := rfl

@[simp] theorem State.acct_of_setCtx (j : Nat) (i : Nat) (v : Ctx) : (s.setCtx i v).acct j = s.acct j := rfl
@[simp] theorem State.acct_of_modCtx (j : Nat) (i : Nat) (f : Ctx → Ctx) : (s.modCtx i f).acct j = s.acct j := rfl
@[simp] theorem State.acct_of_setCore (j : Nat) (i : Nat) (v : Core) : (s.setCore i v).acct j = s.acct j := rfl
@[simp] theorem State.acct_of_modCore (j : Nat) (i : Nat) (f : Core → Core) : (s.modCore i f).acct j = s.acct j := rfl
@[simp] theorem State.acct_of_modClk (j : Nat) (f : Clk → Clk) : (s.modClk f).acct j = s.acct j := rfl
@[simp] theorem State.acct_of_setDom (j : Nat) (i : Nat) (v : Dom) : (s.setDom i v).acct j = s.acct j := rfl
@[simp] theorem State.acct_of_modDom (j : Nat) (i : Nat) (f : Dom → Dom) : (s.modDom i f).acct j = s.acct j := rfl
@[simp] theorem State.acct_of_setXing (j : Nat) (i : Nat) (v : Xing) : (s.setXing i v).acct j = s.acct j := rfl
@[simp] theorem State.acct_of_modXing (j : Nat) (i : Nat) (f : Xing → Xing) : (s.modXing i f).acct j = s.acct j := rfl
@[simp] theorem State.acct_of_modFab (j : Nat) (f : Fab → Fab) : (s.modFab f).acct j = s.acct j := rfl
@[simp] theorem State.acct_of_setFe (j : Nat) (i : Nat) (v : Fe) : (s.setFe i v).acct j = s.acct j := rfl
@[simp] theorem State.acct_of_modFe (j : Nat) (i : Nat) (f : Fe → Fe) : (s.modFe i f).acct j = s.acct j := rfl
@[simp] theorem State.acct_of_setMbox (j : Nat) (i : Nat) (v : Mailbox) : (s.setMbox i v).acct j = s.acct j := rfl
@[simp] theorem State.acct_of_setBank (j : Nat) (i : Nat) (v : Option Holder) : (s.setBank i v).acct j = s.acct j := rfl
@[simp] theorem State.acct_of_setTag (j : Nat) (i : Nat) (v : Option HbTag) : (s.setTag i v).acct j = s.acct j := rfl
@[simp] theorem State.acct_of_modCx (j : Nat) (f : Cx → Cx) : (s.modCx f).acct j = s.acct j := rfl
@[simp] theorem State.acct_of_setAcc (j : Nat) (i : Nat) (v : Acc) : (s.setAcc i v).acct j = s.acct j := rfl
@[simp] theorem State.acct_of_setGroup (j : Nat) (i : Nat) (v : Group) : (s.setGroup i v).acct j = s.acct j := rfl
@[simp] theorem State.acct_of_modGroup (j : Nat) (i : Nat) (f : Group → Group) : (s.modGroup i f).acct j = s.acct j := rfl
@[simp] theorem State.acct_of_modThorn (j : Nat) (f : Thorn → Thorn) : (s.modThorn f).acct j = s.acct j := rfl
@[simp] theorem State.acct_of_modHost (j : Nat) (f : HostP → HostP) : (s.modHost f).acct j = s.acct j := rfl
@[simp] theorem State.acct_of_setRing (j : Nat) (i : Nat) (v : Ring) : (s.setRing i v).acct j = s.acct j := rfl
@[simp] theorem State.acct_of_modRing (j : Nat) (i : Nat) (f : Ring → Ring) : (s.modRing i f).acct j = s.acct j := rfl
@[simp] theorem State.acct_of_modTwin (j : Nat) (f : Twin → Twin) : (s.modTwin f).acct j = s.acct j := rfl
@[simp] theorem State.acct_of_modProt (j : Nat) (f : Prot → Prot) : (s.modProt f).acct j = s.acct j := rfl
@[simp] theorem State.acct_of_modPass (j : Nat) (f : Pass → Pass) : (s.modPass f).acct j = s.acct j := rfl
@[simp] theorem State.acct_of_setChan (j : Nat) (i : Nat) (v : Chan) : (s.setChan i v).acct j = s.acct j := rfl
@[simp] theorem State.acct_of_modHearth (j : Nat) (f : Hearth → Hearth) : (s.modHearth f).acct j = s.acct j := rfl
@[simp] theorem State.acct_of_modBoot (j : Nat) (f : Boot → Boot) : (s.modBoot f).acct j = s.acct j := rfl
@[simp] theorem State.acct_of_modFaults (j : Nat) (f : Faults → Faults) : (s.modFaults f).acct j = s.acct j := rfl
@[simp] theorem State.acct_of_modUtil (j : Nat) (f : Util → Util) : (s.modUtil f).acct j = s.acct j := rfl
@[simp] theorem State.acct_of_withRdata (j : Nat) (w : Word) : (s.withRdata w).acct j = s.acct j := rfl

@[simp] theorem State.ring_of_setCtx (j : Nat) (i : Nat) (v : Ctx) : (s.setCtx i v).ring j = s.ring j := rfl
@[simp] theorem State.ring_of_modCtx (j : Nat) (i : Nat) (f : Ctx → Ctx) : (s.modCtx i f).ring j = s.ring j := rfl
@[simp] theorem State.ring_of_setCore (j : Nat) (i : Nat) (v : Core) : (s.setCore i v).ring j = s.ring j := rfl
@[simp] theorem State.ring_of_modCore (j : Nat) (i : Nat) (f : Core → Core) : (s.modCore i f).ring j = s.ring j := rfl
@[simp] theorem State.ring_of_modClk (j : Nat) (f : Clk → Clk) : (s.modClk f).ring j = s.ring j := rfl
@[simp] theorem State.ring_of_setDom (j : Nat) (i : Nat) (v : Dom) : (s.setDom i v).ring j = s.ring j := rfl
@[simp] theorem State.ring_of_modDom (j : Nat) (i : Nat) (f : Dom → Dom) : (s.modDom i f).ring j = s.ring j := rfl
@[simp] theorem State.ring_of_setXing (j : Nat) (i : Nat) (v : Xing) : (s.setXing i v).ring j = s.ring j := rfl
@[simp] theorem State.ring_of_modXing (j : Nat) (i : Nat) (f : Xing → Xing) : (s.modXing i f).ring j = s.ring j := rfl
@[simp] theorem State.ring_of_modFab (j : Nat) (f : Fab → Fab) : (s.modFab f).ring j = s.ring j := rfl
@[simp] theorem State.ring_of_setFe (j : Nat) (i : Nat) (v : Fe) : (s.setFe i v).ring j = s.ring j := rfl
@[simp] theorem State.ring_of_modFe (j : Nat) (i : Nat) (f : Fe → Fe) : (s.modFe i f).ring j = s.ring j := rfl
@[simp] theorem State.ring_of_setMbox (j : Nat) (i : Nat) (v : Mailbox) : (s.setMbox i v).ring j = s.ring j := rfl
@[simp] theorem State.ring_of_setBank (j : Nat) (i : Nat) (v : Option Holder) : (s.setBank i v).ring j = s.ring j := rfl
@[simp] theorem State.ring_of_setTag (j : Nat) (i : Nat) (v : Option HbTag) : (s.setTag i v).ring j = s.ring j := rfl
@[simp] theorem State.ring_of_modCx (j : Nat) (f : Cx → Cx) : (s.modCx f).ring j = s.ring j := rfl
@[simp] theorem State.ring_of_setAcc (j : Nat) (i : Nat) (v : Acc) : (s.setAcc i v).ring j = s.ring j := rfl
@[simp] theorem State.ring_of_setGroup (j : Nat) (i : Nat) (v : Group) : (s.setGroup i v).ring j = s.ring j := rfl
@[simp] theorem State.ring_of_modGroup (j : Nat) (i : Nat) (f : Group → Group) : (s.modGroup i f).ring j = s.ring j := rfl
@[simp] theorem State.ring_of_modThorn (j : Nat) (f : Thorn → Thorn) : (s.modThorn f).ring j = s.ring j := rfl
@[simp] theorem State.ring_of_modMill (j : Nat) (f : Mill → Mill) : (s.modMill f).ring j = s.ring j := rfl
@[simp] theorem State.ring_of_setAcct (j : Nat) (i : Nat) (v : Acct) : (s.setAcct i v).ring j = s.ring j := rfl
@[simp] theorem State.ring_of_modAcct (j : Nat) (i : Nat) (f : Acct → Acct) : (s.modAcct i f).ring j = s.ring j := rfl
@[simp] theorem State.ring_of_modTwin (j : Nat) (f : Twin → Twin) : (s.modTwin f).ring j = s.ring j := rfl
@[simp] theorem State.ring_of_modProt (j : Nat) (f : Prot → Prot) : (s.modProt f).ring j = s.ring j := rfl
@[simp] theorem State.ring_of_modPass (j : Nat) (f : Pass → Pass) : (s.modPass f).ring j = s.ring j := rfl
@[simp] theorem State.ring_of_setChan (j : Nat) (i : Nat) (v : Chan) : (s.setChan i v).ring j = s.ring j := rfl
@[simp] theorem State.ring_of_modHearth (j : Nat) (f : Hearth → Hearth) : (s.modHearth f).ring j = s.ring j := rfl
@[simp] theorem State.ring_of_modBoot (j : Nat) (f : Boot → Boot) : (s.modBoot f).ring j = s.ring j := rfl
@[simp] theorem State.ring_of_modFaults (j : Nat) (f : Faults → Faults) : (s.modFaults f).ring j = s.ring j := rfl
@[simp] theorem State.ring_of_modUtil (j : Nat) (f : Util → Util) : (s.modUtil f).ring j = s.ring j := rfl
@[simp] theorem State.ring_of_withRdata (j : Nat) (w : Word) : (s.withRdata w).ring j = s.ring j := rfl

@[simp] theorem State.chan_of_setCtx (j : Nat) (i : Nat) (v : Ctx) : (s.setCtx i v).chan j = s.chan j := rfl
@[simp] theorem State.chan_of_modCtx (j : Nat) (i : Nat) (f : Ctx → Ctx) : (s.modCtx i f).chan j = s.chan j := rfl
@[simp] theorem State.chan_of_setCore (j : Nat) (i : Nat) (v : Core) : (s.setCore i v).chan j = s.chan j := rfl
@[simp] theorem State.chan_of_modCore (j : Nat) (i : Nat) (f : Core → Core) : (s.modCore i f).chan j = s.chan j := rfl
@[simp] theorem State.chan_of_modClk (j : Nat) (f : Clk → Clk) : (s.modClk f).chan j = s.chan j := rfl
@[simp] theorem State.chan_of_setDom (j : Nat) (i : Nat) (v : Dom) : (s.setDom i v).chan j = s.chan j := rfl
@[simp] theorem State.chan_of_modDom (j : Nat) (i : Nat) (f : Dom → Dom) : (s.modDom i f).chan j = s.chan j := rfl
@[simp] theorem State.chan_of_setXing (j : Nat) (i : Nat) (v : Xing) : (s.setXing i v).chan j = s.chan j := rfl
@[simp] theorem State.chan_of_modXing (j : Nat) (i : Nat) (f : Xing → Xing) : (s.modXing i f).chan j = s.chan j := rfl
@[simp] theorem State.chan_of_modFab (j : Nat) (f : Fab → Fab) : (s.modFab f).chan j = s.chan j := rfl
@[simp] theorem State.chan_of_setFe (j : Nat) (i : Nat) (v : Fe) : (s.setFe i v).chan j = s.chan j := rfl
@[simp] theorem State.chan_of_modFe (j : Nat) (i : Nat) (f : Fe → Fe) : (s.modFe i f).chan j = s.chan j := rfl
@[simp] theorem State.chan_of_setMbox (j : Nat) (i : Nat) (v : Mailbox) : (s.setMbox i v).chan j = s.chan j := rfl
@[simp] theorem State.chan_of_setBank (j : Nat) (i : Nat) (v : Option Holder) : (s.setBank i v).chan j = s.chan j := rfl
@[simp] theorem State.chan_of_setTag (j : Nat) (i : Nat) (v : Option HbTag) : (s.setTag i v).chan j = s.chan j := rfl
@[simp] theorem State.chan_of_modCx (j : Nat) (f : Cx → Cx) : (s.modCx f).chan j = s.chan j := rfl
@[simp] theorem State.chan_of_setAcc (j : Nat) (i : Nat) (v : Acc) : (s.setAcc i v).chan j = s.chan j := rfl
@[simp] theorem State.chan_of_setGroup (j : Nat) (i : Nat) (v : Group) : (s.setGroup i v).chan j = s.chan j := rfl
@[simp] theorem State.chan_of_modGroup (j : Nat) (i : Nat) (f : Group → Group) : (s.modGroup i f).chan j = s.chan j := rfl
@[simp] theorem State.chan_of_modThorn (j : Nat) (f : Thorn → Thorn) : (s.modThorn f).chan j = s.chan j := rfl
@[simp] theorem State.chan_of_modMill (j : Nat) (f : Mill → Mill) : (s.modMill f).chan j = s.chan j := rfl
@[simp] theorem State.chan_of_setAcct (j : Nat) (i : Nat) (v : Acct) : (s.setAcct i v).chan j = s.chan j := rfl
@[simp] theorem State.chan_of_modAcct (j : Nat) (i : Nat) (f : Acct → Acct) : (s.modAcct i f).chan j = s.chan j := rfl
@[simp] theorem State.chan_of_modHost (j : Nat) (f : HostP → HostP) : (s.modHost f).chan j = s.chan j := rfl
@[simp] theorem State.chan_of_setRing (j : Nat) (i : Nat) (v : Ring) : (s.setRing i v).chan j = s.chan j := rfl
@[simp] theorem State.chan_of_modRing (j : Nat) (i : Nat) (f : Ring → Ring) : (s.modRing i f).chan j = s.chan j := rfl
@[simp] theorem State.chan_of_modTwin (j : Nat) (f : Twin → Twin) : (s.modTwin f).chan j = s.chan j := rfl
@[simp] theorem State.chan_of_modProt (j : Nat) (f : Prot → Prot) : (s.modProt f).chan j = s.chan j := rfl
@[simp] theorem State.chan_of_modHearth (j : Nat) (f : Hearth → Hearth) : (s.modHearth f).chan j = s.chan j := rfl
@[simp] theorem State.chan_of_modBoot (j : Nat) (f : Boot → Boot) : (s.modBoot f).chan j = s.chan j := rfl
@[simp] theorem State.chan_of_modFaults (j : Nat) (f : Faults → Faults) : (s.modFaults f).chan j = s.chan j := rfl
@[simp] theorem State.chan_of_modUtil (j : Nat) (f : Util → Util) : (s.modUtil f).chan j = s.chan j := rfl
@[simp] theorem State.chan_of_withRdata (j : Nat) (w : Word) : (s.withRdata w).chan j = s.chan j := rfl

end Sys2Proof.Machine
end

