-- ==== Sys2Proof/Laws/Retire.lean ====
section
/-! SUPPORT. What the shared operations of a retiring instruction can do: the fetch, the charge, the commit and the raise of a trap. -/

namespace Sys2Proof.Machine

open Sys2Proof

theorem ChangesOnly.refl (ps : List Part) (s : State) : ChangesOnly ps s s := by
  intro p _; cases p <;> rfl

/-- Changes one after the other: the units of both. -/
theorem ChangesOnly.trans {ps : List Part} {s t u : State} (h1 : ChangesOnly ps s t) (h2 : ChangesOnly ps t u) : ChangesOnly ps s u := by
  intro p hp
  have a := h1 p hp
  have b := h2 p hp
  cases p <;> simp only [SamePart] at * <;> rw [b, a]

theorem ChangesOnly.mono {ps qs : List Part} {s t : State} (h : ChangesOnly ps s t) (hs : ∀ p, p ∈ ps → p ∈ qs) : ChangesOnly qs s t :=
  fun p hp => h p fun hq => hp (hs p hq)

/-- The frame from the fields themselves. -/
theorem changesOnly_iff (ps : List Part) (s t : State) : ChangesOnly ps s t ↔
    (Part.ctxs ∉ ps → t.ctxs = s.ctxs) ∧ (Part.cores ∉ ps → t.cores = s.cores) ∧ (Part.clk ∉ ps → t.clk = s.clk) ∧
    (Part.fab ∉ ps → t.fab = s.fab) ∧ (Part.cx ∉ ps → t.cx = s.cx) ∧ (Part.thorn ∉ ps → t.thorn = s.thorn) ∧
    (Part.mill ∉ ps → t.mill = s.mill) ∧ (Part.host ∉ ps → t.host = s.host) ∧ (Part.twin ∉ ps → t.twin = s.twin) ∧
    (Part.prot ∉ ps → t.prot = s.prot) ∧ (Part.pass ∉ ps → t.pass = s.pass) ∧ (Part.hearth ∉ ps → t.hearth = s.hearth) ∧
    (Part.boot ∉ ps → t.boot = s.boot) ∧ (Part.faults ∉ ps → t.faults = s.faults) ∧ (Part.util ∉ ps → t.util = s.util) ∧
    (Part.pending ∉ ps → t.pending = s.pending) ∧ (Part.nowUs ∉ ps → t.nowUs = s.nowUs) ∧ (Part.free ∉ ps → t.free = s.free) ∧
    (Part.rdata ∉ ps → t.rdata = s.rdata) := by
  constructor
  · intro h
    exact ⟨h .ctxs, h .cores, h .clk, h .fab, h .cx, h .thorn, h .mill, h .host, h .twin, h .prot, h .pass, h .hearth, h .boot,
      h .faults, h .util, h .pending, h .nowUs, h .free, h .rdata⟩
  · intro ⟨h1, h2, h3, h4, h5, h6, h7, h8, h9, h10, h11, h12, h13, h14, h15, h16, h17, h18, h19⟩ p
    cases p <;> assumption

/-- What a fetch and a charge may leave of a core: the I-cache, its miss counter and the warned accounts. -/
def sameCoreButFetch (a b : Core) : Prop := b = { a with icMiss := b.icMiss, icache := b.icache, warned := b.warned }

theorem sameCoreButFetch.refl (a : Core) : sameCoreButFetch a a := rfl

theorem sameCoreButFetch.trans {a b c : Core} (h1 : sameCoreButFetch a b) (h2 : sameCoreButFetch b c) : sameCoreButFetch a c := by
  unfold sameCoreButFetch at *
  rw [h2, h1]

/-- A frame of the shared work of an instruction on core k. -/
structure WorkFrame (k : Nat) (s t : State) : Prop where
  ctxs : t.ctxs = s.ctxs
  others : ∀ j, j ≠ k → t.core j = s.core j
  core : sameCoreButFetch (s.core k) (t.core k)
  clk : t.clk = { s.clk with xings := t.clk.xings, itemsDisc := t.clk.itemsDisc, eventsDisc := t.clk.eventsDisc }
  mill : t.mill = { s.mill with accts := t.mill.accts }
  fab : t.fab = { s.fab with ecc := t.fab.ecc, corr := t.fab.corr, uncorr := t.fab.uncorr }
  frozen : t.faults.frozen = s.faults.frozen
  rest : ChangesOnly [.ctxs, .cores, .clk, .mill, .free, .fab, .faults] s t

theorem WorkFrame.refl (k : Nat) (s : State) : WorkFrame k s s :=
  ⟨rfl, fun _ _ => rfl, rfl, rfl, rfl, rfl, rfl, ChangesOnly.refl _ _⟩

theorem WorkFrame.trans {k : Nat} {s t u : State} (h1 : WorkFrame k s t) (h2 : WorkFrame k t u) : WorkFrame k s u :=
  ⟨h2.ctxs.trans h1.ctxs, fun j hj => (h2.others j hj).trans (h1.others j hj), h1.core.trans h2.core,
    by rw [h2.clk, h1.clk], by rw [h2.mill, h1.mill], by rw [h2.fab, h1.fab], h2.frozen.trans h1.frozen, h1.rest.trans h2.rest⟩

/-- A change of no context and no core, within what the frame lets go. -/
theorem WorkFrame.of_rest {k : Nat} {s t : State} (hc : t.ctxs = s.ctxs) (hk : t.cores = s.cores)
    (clk : t.clk = { s.clk with xings := t.clk.xings, itemsDisc := t.clk.itemsDisc, eventsDisc := t.clk.eventsDisc })
    (mill : t.mill = { s.mill with accts := t.mill.accts })
    (fab : t.fab = { s.fab with ecc := t.fab.ecc, corr := t.fab.corr, uncorr := t.fab.uncorr })
    (frozen : t.faults.frozen = s.faults.frozen)
    (rest : ChangesOnly [.ctxs, .cores, .clk, .mill, .free, .fab, .faults] s t) : WorkFrame k s t :=
  ⟨hc, fun j _ => by rw [State.core, State.core, hk], by rw [State.core, State.core, hk]; rfl, clk, mill, fab, frozen, rest⟩

/-- A line event enters a crossing, and nothing else changes (R150, R47). -/
theorem raiseLine_changes (k l : Nat) (s : State) : ChangesOnly [.clk] s (raiseLine k l s) := by
  unfold raiseLine sendEvents countDiscards unsettleFor
  rw [changesOnly_iff]
  split_ifs <;> simp

theorem raiseLine_clk (k l : Nat) (s : State) : (raiseLine k l s).clk =
    { s.clk with
      xings := (raiseLine k l s).clk.xings, itemsDisc := (raiseLine k l s).clk.itemsDisc
      eventsDisc := (raiseLine k l s).clk.eventsDisc } := by
  unfold raiseLine sendEvents countDiscards unsettleFor
  split_ifs <;> simp [State.modXing, State.setXing]

theorem raiseLine_core (k l j : Nat) (s : State) : (raiseLine k l s).core j = s.core j := by
  have h : (raiseLine k l s).cores = s.cores := raiseLine_changes k l s .cores (by decide)
  rw [State.core, h, State.core]

theorem raiseLine_frame (j k l : Nat) (s : State) : WorkFrame j s (raiseLine k l s) := by
  have h := raiseLine_changes k l s
  have hf : (raiseLine k l s).fab = s.fab := h .fab (by decide)
  have hm : (raiseLine k l s).mill = s.mill := h .mill (by decide)
  have hz : (raiseLine k l s).faults = s.faults := h .faults (by decide)
  exact .of_rest (h .ctxs (by decide)) (h .cores (by decide)) (raiseLine_clk k l s) (by rw [hm]) (by rw [hf]) (by rw [hz]) (h.mono (by simp))

/-- A logged fault that freezes nothing (R469, R482). -/
theorem logFault_frame (k cause cls status c d : Nat) (r : Option Nat) (detail addr : Nat) (s : State) (h : cls < 2) :
    WorkFrame k s (logFault cause cls status c d r detail addr s) := by
  refine WorkFrame.trans (t := s.modFaults fun f =>
    if f.frozen then { f with seq := f.seq + 1, lostLog := satInc f.lostLog }
    else { f with seq := f.seq + 1, log := newest 64 (f.log ++ [⟨logWords s cause cls status c d r detail addr, false⟩]), frozen := decide (2 ≤ cls) }) ?_
    (raiseLine_frame _ _ _ _)
  refine .of_rest rfl rfl rfl rfl rfl ?_ ((changesOnly_iff _ _ _).2 (by simp))
  cases hz : s.faults.frozen
  · simp [State.modFaults, hz]; omega
  · simp [State.modFaults, hz]

theorem bumpRepeat_frame (k : Nat) (q : BitVec 16) (s : State) : WorkFrame k s (bumpRepeat q s) :=
  .of_rest rfl rfl rfl rfl rfl rfl ((changesOnly_iff _ _ _).2 (by simp [bumpRepeat]))

/-- A counter of FAB_ECC and the check bits of a word. -/
theorem setEcc_frame (k a : Nat) (e : Option Ecc) (f : Fab → Fab) (s : State)
    (hf : ∀ b, f b = { b with ecc := (f b).ecc, corr := (f b).corr, uncorr := (f b).uncorr }) : WorkFrame k s (setEcc a e (s.modFab f)) := by
  refine .of_rest rfl rfl rfl rfl ?_ rfl ((changesOnly_iff _ _ _).2 (by simp [setEcc]))
  have := hf s.fab
  simp only [setEcc, State.modFab] at *
  rw [this]

/-- A read meets the check bits of a word (R191, R192): what it may change beside them. -/
theorem eccRead_frame (k : Nat) (r : Reader) (a : Nat) (u : Upset) (s : State) : WorkFrame k s (eccRead r a u s).1 := by
  unfold eccRead
  split
  · exact .refl _ _
  · refine (setEcc_frame k a none (fun f => { f with corr := satInc f.corr }) s fun _ => rfl).trans ?_
    cases r with
    | core j => exact raiseLine_frame _ _ _ _
    | other c d => exact logFault_frame _ _ _ _ _ _ _ _ _ _ (by decide)
    | scrub => exact .refl _ _
  · next q _ => exact (setEcc_frame k a (some (.bad (some q))) (fun f => { f with uncorr := satInc f.uncorr }) s fun _ => rfl).trans (bumpRepeat_frame _ _ _)
  · have h1 : WorkFrame k s (s.modFab fun f => { f with uncorr := satInc f.uncorr }) :=
      .of_rest rfl rfl rfl rfl rfl rfl ((changesOnly_iff _ _ _).2 (by simp))
    have h2 := logFault_frame k 0x02 1 0 r.fields.1 r.fields.2 none 0 (a / 4 * 4) (s.modFab fun f => { f with uncorr := satInc f.uncorr }) (by decide)
    exact (h1.trans h2).trans (setEcc_frame k a (some (.bad (some (logFault 0x02 1 0 r.fields.1 r.fields.2 none 0 (a / 4 * 4)
      (s.modFab fun f => { f with uncorr := satInc f.uncorr })).faults.seq))) (fun f => f) _ fun _ => rfl)

theorem readLineEcc_frame (k : Nat) (who : Reader) (a n : Nat) (s : State) : WorkFrame k s (readLineEcc who a n s).1 := by
  induction n generalizing a s with
  | zero => exact .refl _ _
  | succ n ih => exact (eccRead_frame k who a .none s).trans (ih _ _)

/-- Words whose check bits are good change nothing when they are read. -/
theorem eccRead_good (r : Reader) (a : Nat) (s : State) (h : tget none s.fab.ecc (a / 4 * 4) = none) : eccRead r a .none s = (s, true) := by
  have e : eccFound s a .none = none := by unfold eccFound; rw [h]
  unfold eccRead; rw [e]

theorem readLineEcc_good (who : Reader) (n : Nat) : ∀ (a : Nat) (s : State), a % 4 = 0 →
    (∀ i, i < n → tget none s.fab.ecc (a + 4 * i) = none) → readLineEcc who a n s = (s, true) := by
  induction n with
  | zero => intros; rfl
  | succ n ih =>
    intro a s ha h
    have h0 := h 0 (by omega)
    simp only [readLineEcc, eccRead_good who a s (by rw [Nat.div_mul_cancel (Nat.dvd_of_mod_eq_zero ha)]; exact h0)]
    rw [ih (a + 4) s (by omega) (fun i hi => by have := h (i + 1) (by omega); rwa [show a + 4 + 4 * i = a + 4 * (i + 1) by omega])]
    rfl

/-- A core that differs in what a fetch and a charge may leave. -/
theorem setCore_frame (k : Nat) (s : State) (q : Core) (n : Nat) (hq : sameCoreButFetch (s.core k) q) :
    WorkFrame k s { s.setCore k q with free := n } := by
  have h : ∀ j, State.core { s.setCore k q with free := n } j = if k = j then q else s.core j := fun j => State.core_setCore s k j q
  refine ⟨rfl, fun j hj => by rw [h, if_neg (Ne.symm hj)], ?_, rfl, rfl, rfl, rfl, (changesOnly_iff _ _ _).2 (by simp)⟩
  rw [h, if_pos rfl]; exact hq

theorem warned_frame (k a : Nat) (s : State) : WorkFrame k s (s.modCore k fun x => { x with warned := a :: x.warned }) :=
  setCore_frame k s _ s.free rfl

/-- A charge touches the account, the core's warned accounts and a crossing (R252, R258). -/
theorem chargeCore_frame (c n : Nat) (s : State) : WorkFrame (coreOf c) s (chargeCore c n s) := by
  unfold chargeCore
  simp only
  split
  · exact WorkFrame.refl _ s
  · have acct : ∀ q, WorkFrame (coreOf c) s (s.setAcct (s.ctx c).acct.toNat q) := fun q =>
      .of_rest rfl rfl rfl rfl rfl rfl ((changesOnly_iff _ _ _).2 (by simp))
    split
    · exact ((acct _).trans (warned_frame _ _ _)).trans (raiseLine_frame _ _ _ _)
    · exact acct _

/-- A charge leaves the fabric and the faults as they are. -/
theorem chargeCore_changes (c n : Nat) (s : State) : ChangesOnly [.cores, .clk, .mill] s (chargeCore c n s) := by
  unfold chargeCore
  simp only
  split_ifs
  · exact .refl _ _
  · exact ChangesOnly.trans ((changesOnly_iff _ _ _).2 (by simp)) ((raiseLine_changes _ _ _).mono (by simp))
  · exact (changesOnly_iff _ _ _).2 (by simp)

/-- A line enters the I-cache, and nothing else changes but the next free value (R76). -/
theorem keepLine_frame (k : Nat) (l : ILine) (s : State) : WorkFrame k s (keepLine k l s) := setCore_frame k s _ _ rfl

theorem countIcMiss_frame (k : Nat) (s : State) : WorkFrame k s (countIcMiss k s) := setCore_frame k s _ s.free rfl

/-- A fetch touches the core's I-cache and its counter, and the check bits of what it reads (R76, R77, R191). -/
theorem fetchLine_frame (c : Nat) (s : State) : WorkFrame (coreOf c) s (fetchLine c s) := by
  unfold fetchLine
  generalize readerOf c = r
  simp only
  generalize (if (s.ctx c).pc.toNat < 0x800000 then 0 else (s.ctx c).ibank.toNat) = b
  split
  · exact .refl _ s
  split
  · split
    · exact eccRead_frame _ _ _ _ _
    · exact .refl _ s
  split
  · split
    · exact .refl _ s
    · exact (countIcMiss_frame _ _).trans (keepLine_frame _ _ _)
  split
  · exact .refl _ s
  split
  · exact ((countIcMiss_frame _ _).trans (readLineEcc_frame _ _ _ _ _)).trans (keepLine_frame _ _ _)
  · exact (countIcMiss_frame _ _).trans (readLineEcc_frame _ _ _ _ _)

/-- A fetch of good words leaves the fabric and the faults as they are. -/
theorem fetchLine_good (c : Nat) (s : State) (h : FetchGood s c) : (fetchLine c s).fab = s.fab ∧ (fetchLine c s).faults = s.faults := by
  simp only [FetchGood] at h
  unfold fetchLine
  generalize readerOf c = r
  simp only
  generalize (if (s.ctx c).pc.toNat < 0x800000 then 0 else (s.ctx c).ibank.toNat) = b
  split
  · exact ⟨rfl, rfl⟩
  next h1 =>
  generalize hp : (s.ctx c).pc.toNat = a at *
  have ha : 0x400000 ≤ a := by omega
  split
  · split
    next h2 =>
      have g := h ha h2 ((0x10000000 + (a - 0x400000)) % 32 / 4) (by omega)
      rw [show (0x10000000 + (a - 0x400000)) / 32 * 32 + 4 * ((0x10000000 + (a - 0x400000)) % 32 / 4) =
        (0x10000000 + (a - 0x400000)) / 4 * 4 by omega] at g
      rw [eccRead_good _ _ _ g]; exact ⟨rfl, rfl⟩
    · exact ⟨rfl, rfl⟩
  split
  · split <;> exact ⟨rfl, rfl⟩
  next h3 =>
  split
  · exact ⟨rfl, rfl⟩
  rw [readLineEcc_good r 8 _ (countIcMiss (coreOf c) s) (by omega) (h ha (by omega))]
  exact ⟨rfl, rfl⟩

/-- What the accounting of an instruction leaves of the contexts (CTX_CYCLES, R252). -/
theorem account_ctx (c n moved : Nat) (s : State) (d : Nat) : (account c n moved s).ctx d =
    if c = d then { s.ctx c with cycles := (s.ctx c).cycles + wd n, fbuf := true, entered := false } else s.ctx d := by
  unfold account
  rw [State.ctx, (chargeCore_frame c _ _).ctxs]
  exact State.ctx_modCtx _ _ _ _

/-- What a commit leaves of the contexts. -/
theorem commit_ctx (c slots : Nat) (v : View) (pc : BitVec 24) (s : State) (d : Nat) : (commit c slots v pc s).ctx d =
    if c = d then { v.1 with pc := pc, cycles := v.1.cycles + wd slots, fbuf := true, entered := false } else s.ctx d := by
  unfold commit
  rw [account_ctx]
  simp only [State.ctx_setCtx_self]
  split
  · rfl
  · rw [State.ctx_setCtx, if_neg (by assumption), State.ctx, State.ctx]
    simp [(fetchLine_frame c s).ctxs]

/-- The frame of an instruction from what its parts do: a fetch, the core's D-local memory and the context, and a charge. -/
theorem retireFrame_of_work (c : Nat) (m : Core → Table Byte) (s t u v : State) (hf : WorkFrame (coreOf c) s t)
    (hg : FetchGood s c → t.fab = s.fab ∧ t.faults = s.faults)
    (ho : ∀ j, j ≠ coreOf c → u.core j = t.core j) (hk : u.core (coreOf c) = { t.core (coreOf c) with dlocal := m (s.core (coreOf c)) })
    (hu : ChangesOnly [.ctxs, .cores] t u) (hd : ∀ d, d ≠ c → u.ctx d = t.ctx d)
    (hw : WorkFrame (coreOf c) u v) (hv : ChangesOnly [.cores, .clk, .mill] u v) :
    RetireFrame [] s v c { s.core (coreOf c) with dlocal := m (s.core (coreOf c)) } none := by
  have ufab : u.fab = t.fab := hu .fab (by decide)
  have vfab : v.fab = u.fab := hv .fab (by decide)
  have uflt : u.faults = t.faults := hu .faults (by decide)
  have vflt : v.faults = u.faults := hv .faults (by decide)
  have uclk : u.clk = t.clk := hu .clk (by decide)
  have umil : u.mill = t.mill := hu .mill (by decide)
  refine ⟨fun d h => ?_, fun j h => ?_, ?_, ?_, ?_, fun _ => ?_, fun _ => ?_, fun h => ⟨fun _ => ?_, fun _ => ?_⟩, ?_⟩
  · rw [State.ctx, hw.ctxs, ← State.ctx, hd d h, State.ctx, hf.ctxs, State.ctx]
  · rw [hw.others j h, ho j h, hf.others j h]
  · have a := hw.core
    have b := hf.core
    simp only [sameCoreButFetch] at a b
    rw [hk, b] at a
    exact a
  · rw [hw.clk, uclk, hf.clk]
  · rw [hw.mill, umil, hf.mill]
  · rw [vfab, ufab]; exact hf.fab
  · rw [vflt, uflt]; exact hf.frozen
  · rw [vfab, ufab]; exact (hg h).1
  · rw [vflt, uflt]; exact (hg h).2
  · exact (hf.rest.trans (hu.mono (by simp))).trans (hv.mono (by simp))

/-- A commit changes its context, its core's D-local memory, and what the fetch and the charge change. -/
theorem commit_frame (c slots : Nat) (v : View) (pc : BitVec 24) (s : State) :
    RetireFrame [] s (commit c slots v pc s) c { s.core (coreOf c) with dlocal := v.2.1 } none := by
  unfold commit account
  refine retireFrame_of_work c (fun _ => v.2.1) s (fetchLine c s) _ _ (fetchLine_frame c s) (fetchLine_good c s) ?_ ?_ ?_ ?_
    (chargeCore_frame c _ _) (chargeCore_changes c _ _)
  · intro j hj
    rw [State.core_of_modCtx, State.core_of_setCtx, State.core_modCore, if_neg (Ne.symm hj)]
  · rw [State.core_of_modCtx, State.core_of_setCtx, State.core_modCore_self]
  · exact (changesOnly_iff _ _ _).2 (by simp)
  · intro d hd
    rw [State.ctx_modCtx, if_neg (Ne.symm hd), State.ctx_setCtx, if_neg (Ne.symm hd)]; rfl

/-- An instruction that raises a trap has been fetched and charged, and its context stands as before it but for the trap (R147, R148). -/
theorem raiseTrap_raises (c cause addr : Nat) (s : State) (hm : (s.ctx c).mid = none) :
    RaisesTrap s (fetchTrap c (raiseTrap c cause addr s)) c cause addr := by
  have hx : (raiseTrap c cause addr s).ctx c =
      { s.ctx c with trap := some ⟨BitVec.ofNat 8 cause, trapAddrOf (s.ctx c) cause addr, 0, 0, false⟩, entered := false } :=
    (State.ctx_modCtx_self _ _ _).trans (by dsimp only; rw [hm])
  have ho : ∀ d, d ≠ c → (raiseTrap c cause addr s).ctx d = s.ctx d := fun d hd => (State.ctx_modCtx _ _ _ _).trans (if_neg (Ne.symm hd))
  have hr : ChangesOnly [.ctxs] s (raiseTrap c cause addr s) := (changesOnly_iff _ _ _).2 (by simp [raiseTrap])
  generalize raiseTrap c cause addr s = r at hx ho hr
  unfold fetchTrap
  rw [if_pos (by rw [hx]; rfl)]
  have ff := fetchLine_frame c r
  have cf := chargeCore_frame c 1 (fetchLine c r)
  have rcores : r.cores = s.cores := hr .cores (by decide)
  have rc : ∀ j, r.core j = s.core j := fun j => by rw [State.core, rcores, State.core]
  have rfab : r.fab = s.fab := hr .fab (by decide)
  have rflt : r.faults = s.faults := hr .faults (by decide)
  refine ⟨?_, ?_⟩
  · rw [State.ctx, cf.ctxs, ff.ctxs, ← State.ctx, hx]
    simp only [trapAddrOf, stkPtr, decide_eq_true_eq]
    split_ifs <;> rfl
  · have fg : FetchGood s c → (fetchLine c r).fab = s.fab ∧ (fetchLine c r).faults = s.faults := fun h => by
      have g : FetchGood r c := by
        simp only [FetchGood, hx, rfab] at h ⊢
        exact h
      exact ⟨(fetchLine_good c r g).1.trans rfab, (fetchLine_good c r g).2.trans rflt⟩
    have hc := chargeCore_changes c 1 (fetchLine c r)
    have cfab : (chargeCore c 1 (fetchLine c r)).fab = (fetchLine c r).fab := hc .fab (by decide)
    have cflt : (chargeCore c 1 (fetchLine c r)).faults = (fetchLine c r).faults := hc .faults (by decide)
    have w := ff.trans cf
    have wc := w.core
    have wf := w.fab
    have wz := w.frozen
    have wk := w.clk
    have wm := w.mill
    have rclk : r.clk = s.clk := hr .clk (by decide)
    have rmil : r.mill = s.mill := hr .mill (by decide)
    rw [rclk] at wk
    rw [rmil] at wm
    rw [rfab] at wf
    rw [rflt] at wz
    refine ⟨fun d hd => ?_, fun j hj => ?_, ?_, wk, wm, fun _ => wf, fun _ => wz, fun h => ⟨fun _ => ?_, fun _ => ?_⟩, ?_⟩
    · rw [State.ctx, w.ctxs, ← State.ctx, ho d hd]
    · rw [w.others j hj, rc]
    · simp only [sameCoreButFetch, rc] at wc; exact wc
    · rw [cfab]; exact (fg h).1
    · rw [cflt]; exact (fg h).2
    · exact (hr.mono (by simp)).trans w.rest

/-- A trap taken before any instruction issues leaves no fetch: what an instruction that may issue does, and its trap's fetch and charge. -/
theorem issue_of_canIssue (spec : Bool) (c : Nat) (go : State → State) (s : State) (h : CanIssue s c)
    (hs : spec = true ∨ NotSpeculative s c) : issue spec c go s = fetchTrap c (go s) := by
  unfold issue
  rw [h.1, h.2]
  rcases hs with hs | hs <;> simp_all [NotSpeculative]

/-- An instruction that has raised no trap is not charged for one. -/
theorem fetchTrap_none (c : Nat) (s : State) (h : (s.ctx c).trap = none) : fetchTrap c s = s := by
  unfold fetchTrap; rw [h]; rfl

theorem CanIssue.trap {s : State} {c : Nat} (h : CanIssue s c) : (s.ctx c).trap = none := by
  have := h.1
  simp only [ready, microReady, Bool.and_eq_true, Option.isNone_iff_eq_none] at this
  exact this.1.1.1.1.2

theorem CanIssue.mid {s : State} {c : Nat} (h : CanIssue s c) : (s.ctx c).mid = none := by
  have := h.1
  simp only [ready, Bool.and_eq_true, Option.isNone_iff_eq_none] at this
  exact this.2

end Sys2Proof.Machine
end

