-- ==== Sys2Proof/Laws/StackOps.lean ====
section
/-! SUPPORT. What stackInstr, classInstr and the checks before them can do. -/

namespace Sys2Proof.Machine

open Sys2Proof

/-- An instruction on cells that are on chip and have room is its action alone (R96). -/
theorem stackOp_onChip (nd nr pd pr : Nat) (act : Ctx → Except TrapCA Ctx) (v : View) (h1 : nd ≤ v.1.ds.length)
    (h2 : nr ≤ v.1.rs.length) (h3 : pd = 0 ∨ v.1.ds.length + pd ≤ 16) (h4 : pr = 0 ∨ v.1.rs.length + pr ≤ 16) :
    stackOp nd nr pd pr act v = match act v.1 with
      | .error t => .error t
      | .ok x => .ok (x, v.2.1, v.2.2) := by
  have a : need false nd v = .ok v := by
    simp [need, stkOf, Nat.sub_eq_zero_of_le h1, repeatT]
  have b : need true nr v = .ok v := by
    simp [need, stkOf, Nat.sub_eq_zero_of_le h2, repeatT]
  have d : room false pd v = .ok v := by
    rcases h3 with h | h
    · simp [room, h, repeatT]
    · simp [room, stkOf, Nat.sub_eq_zero_of_le h, repeatT]
  have e : room true pr v = .ok v := by
    rcases h4 with h | h
    · simp [room, h, repeatT]
    · simp [room, stkOf, Nat.sub_eq_zero_of_le h, repeatT]
  simp only [stackOp, a, b, d, e] <;> rfl

theorem exitBit_zero : exitBit 0 = false := rfl
theorem exitBit_one : exitBit 1 = true := rfl

theorem need_onChip (r : Bool) (n : Nat) (v : View) (h : n ≤ (stkOf r v.1).length) : need r n v = .ok v := by
  simp [need, Nat.sub_eq_zero_of_le h, repeatT]

/-- An entry of the trail, while the Breadcrumbs are not frozen (R480, R482). -/
theorem trailPut_core (k : Nat) (w0 w1 : Word) (s : State) (j : Nat) : (trailPut k w0 w1 s).core j =
    if k = j ∧ s.faults.frozen = false then { s.core k with trail := newest (trailCap k) ((s.core k).trail ++ [⟨w0, w1, false⟩]) }
    else s.core j := by
  unfold trailPut
  cases h : s.faults.frozen
  · simp only [Bool.false_eq_true, if_false, and_true]
    exact State.core_modCore _ _ _ _
  · simp

theorem trailPut_changes (k : Nat) (w0 w1 : Word) (s : State) : ChangesOnly [.cores] s (trailPut k w0 w1 s) := by
  unfold trailPut
  rw [changesOnly_iff]
  split_ifs <;> simp

/-- The return of an instruction's EXIT is recorded in the trail of its core (R480): the frame with the entry (R93). -/
theorem retireFrame_trailed (s t : State) (c : Nat) (frm dest : BitVec 24) (kind : Nat) (hs : (t.ctx c).snaps = [])
    (fr : RetireFrame [] s t c (s.core (coreOf c)) none) :
    (trailFlow c frm kind dest t).ctx c = t.ctx c ∧
    RetireFrame [] s (trailFlow c frm kind dest t) c (s.core (coreOf c)) (some (trailWords c frm kind dest 0)) := by
  have ht : trailFlow c frm kind dest t = trailPut (coreOf c) (trailWords c frm kind dest 0).1 (trailWords c frm kind dest 0).2 t := by
    unfold trailFlow; simp [hs]
  rw [ht]
  obtain ⟨f1, f2, f3, f4, f5, f6, f7, f8, f9⟩ := fr
  have fz : t.faults.frozen = s.faults.frozen := f7 (by simp)
  have tp := trailPut_changes (coreOf c) (trailWords c frm kind dest 0).1 (trailWords c frm kind dest 0).2 t
  have tc := trailPut_core (coreOf c) (trailWords c frm kind dest 0).1 (trailWords c frm kind dest 0).2 t
  generalize trailPut (coreOf c) (trailWords c frm kind dest 0).1 (trailWords c frm kind dest 0).2 t = u at tp tc
  have cx : u.ctxs = t.ctxs := tp .ctxs (by decide)
  have ck : u.clk = t.clk := tp .clk (by decide)
  have ml : u.mill = t.mill := tp .mill (by decide)
  have fb : u.fab = t.fab := tp .fab (by decide)
  have fl : u.faults = t.faults := tp .faults (by decide)
  refine ⟨by rw [State.ctx, cx, State.ctx], fun d hd => ?_, fun j hj => ?_, ?_, ?_, ?_, fun h => ?_, fun h => ?_, fun h => ⟨fun g => ?_, fun g => ?_⟩, ?_⟩
  · rw [State.ctx, cx]; exact f1 d hd
  · rw [tc, if_neg (by simp [Ne.symm hj])]; exact f2 j hj
  · rw [tc (coreOf c)]
    simp only [trailAfter]
    cases hz : s.faults.frozen
    · rw [if_pos ⟨trivial, by rw [fz]; exact hz⟩]
      simp only [Bool.false_eq_true, if_false]
      rw [f3]; simp [trailAfter]
    · rw [if_neg (by rw [fz, hz]; simp)]
      simp only [if_true]
      exact f3
  · rw [ck]; exact f4
  · rw [ml]; exact f5
  · rw [fb]; exact f6 h
  · rw [fl]; exact fz
  · rw [fb]; exact (f8 h).1 g
  · rw [fl]; exact (f8 h).2 g
  · exact f9.trans (tp.mono (by simp))

/-- A stack instruction whose work succeeds on chip retires in its form (R90, R93, R169). -/
theorem stackInstr_retires (s : State) (op : Nat) (use : RetUse) (c : Nat) (f : BitVec 4) (slots : Nat)
    (body : Bool → View → Except TrapCA View) (x : Ctx)
    (h : CanIssue s c) (hop : opLoaded s c op = true) (hb : body (s.core (coreOf c)).det (viewOf s c) = .ok (x, (s.core (coreOf c)).dlocal, 0))
    (hf : FormOk (s.ctx c) f x.rs) (hc : x.cycles = (s.ctx c).cycles) (ht : x.trap = none) (hsn : f = 1 → x.snaps = (s.ctx c).snaps) :
    RetiredForm s (stackInstr op use c f slots body s) c f slots x := by
  unfold stackInstr
  rw [issue_of_canIssue true c _ s h (.inl rfl)]
  rcases hf with rfl | ⟨rfl, ⟨w, r, hw, hbad⟩, hs⟩
  · rw [if_neg (by simp [legalOp, hop])]
    simp only [RetiredForm, RetiredWith, if_pos, withExit, hb, exitBit_zero, Bool.false_eq_true, if_false]
    have e := commit_ctx c slots (x, (s.core (coreOf c)).dlocal, 0) ((s.ctx c).pc + 2) s c
    rw [if_pos rfl] at e
    rw [fetchTrap_none _ _ (by rw [e]; exact ht)]
    refine ⟨?_, commit_frame c slots (x, (s.core (coreOf c)).dlocal, 0) _ s⟩
    rw [e, retiredCtx, hc]
  · have hp : popReturn (x, (s.core (coreOf c)).dlocal, 0) = .ok (({ x with rs := r }, (s.core (coreOf c)).dlocal, 0), BitVec.ofNat 24 w.toNat) := by
      unfold popReturn
      rw [need_onChip true 1 _ (by simp [stkOf, hw])]
      simp [hw, hbad]
    rw [if_neg (by simp [legalOp, hop])]
    simp only [RetiredForm, RetiredWith, withExit, hb, hp]
    rw [if_neg (by decide)]
    simp only [exitBit_one, if_true]
    have e := commit_ctx c slots ({ x with rs := r }, (s.core (coreOf c)).dlocal, 0) (BitVec.ofNat 24 w.toNat) s c
    rw [if_pos rfl] at e
    have fr := commit_frame c slots ({ x with rs := r }, (s.core (coreOf c)).dlocal, 0) (BitVec.ofNat 24 w.toNat) s
    generalize commit c slots ({ x with rs := r }, (s.core (coreOf c)).dlocal, 0) (BitVec.ofNat 24 w.toNat) s = t at e fr
    obtain ⟨tc, tf⟩ := retireFrame_trailed s t c (s.ctx c).pc (BitVec.ofNat 24 w.toNat) 4 (by rw [e]; simp [hsn rfl, hs]) fr
    rw [fetchTrap_none _ _ (by rw [tc, e]; exact ht), hw]
    refine ⟨?_, tf⟩
    rw [tc, e]; simp [retiredCtx, hc]

/-- A stack instruction whose work traps raises, of that trap and its return's, the one of lower order (R93, R147). -/
theorem stackInstr_traps (s : State) (op : Nat) (use : RetUse) (c : Nat) (f : BitVec 4) (slots : Nat)
    (body : Bool → View → Except TrapCA View) (e : TrapCA) (h : CanIssue s c) (hop : opLoaded s c op = true) (hf : f.toNat < 2)
    (hb : body (s.core (coreOf c)).det (viewOf s c) = .error e) :
    RaisesTrap s (stackInstr op use c f slots body s) c (orReturn (exitBit f) use (viewOf s c) e).1
      (orReturn (exitBit f) use (viewOf s c) e).2 := by
  unfold stackInstr
  rw [issue_of_canIssue true c _ s h (.inl rfl), if_neg (by simp [legalOp, hop]; omega)]
  simp only [withExit, hb]
  exact raiseTrap_raises _ _ _ _ h.mid

/-- A basic op whose bits [11:9] are not zero, or whose dispatch entry is not loaded (R90, R169). -/
theorem stackInstr_illegal (s : State) (op : Nat) (use : RetUse) (c : Nat) (f : BitVec 4) (slots : Nat)
    (body : Bool → View → Except TrapCA View) (h : CanIssue s c) (hf : legalOp s c op f = false) :
    RaisesTrap s (stackInstr op use c f slots body s) c 0x01 0 := by
  unfold stackInstr
  rw [issue_of_canIssue true c _ s h (.inl rfl), if_pos hf]
  exact raiseTrap_raises _ _ _ _ h.mid

/-- LIT's sequence retires (R94). -/
theorem classInstr_retires (s : State) (c slots : Nat) (body : View → Except TrapCA View) (x : Ctx) (h : CanIssue s c)
    (hb : body (viewOf s c) = .ok (x, (s.core (coreOf c)).dlocal, 0)) (hc : x.cycles = (s.ctx c).cycles) (ht : x.trap = none) :
    Retired s (classInstr c slots body s) c slots x := by
  unfold classInstr
  rw [issue_of_canIssue true c _ s h (.inl rfl)]
  simp only [hb]
  have e := commit_ctx c slots (x, (s.core (coreOf c)).dlocal, 0) ((s.ctx c).pc + 2) s c
  rw [if_pos rfl] at e
  rw [fetchTrap_none _ _ (by rw [e]; exact ht)]
  refine ⟨?_, commit_frame c slots (x, (s.core (coreOf c)).dlocal, 0) _ s⟩
  rw [e, retiredCtx, hc]

end Sys2Proof.Machine
end

