-- ==== Sys2Proof/Tests/Slice0.lean ====
section
/-! SUPPORT. Our own tests: ill-formed commands that WellFormed refuses, one step of some commands on small states, and for each
statement a state and operands that meet the hypotheses of its clauses (`test_hyp_`), at the ends of their ranges where they have ends. -/

namespace Sys2Proof.Tests

set_option Elab.async false

open Sys2Proof Sys2Proof.Machine

/-! ## Small states -/

/-- A Gorgar after bring-up, its link up, whose crossings stand as after reset. -/
def base : State :=
  { State.reset with
    boot := { State.reset.boot with inReset := false, ready := true, phase := 8 }
    host := { State.reset.host with linkUp := true, busMaster := true } }

/-- A submission entry: opcode, CMD_ID 7, and DW2 on. -/
def sq (op : Nat) (rest : List Word) : SqEnt :=
  ⟨(BitVec.ofNat 32 (op + 7 * 2 ^ 16) :: 0 :: rest) ++ List.replicate (14 - rest.length) 0, 0, 1, false⟩

/-- A ring at addresses of its own, with its indices apart. -/
def ring0 : Ring := { st := .active, sqBase := 0x10000, cqBase := 0x20000, epoch := 1, sqHead := 2, sqTail := 5, cqHead := 3, cqTail := 7 }

/-- The entry stands at the head of ring n. -/
def atHead (n : Nat) (e : SqEnt) (s : State) : State := s.setRing n { ring0 with fetched := [e] }

/-- Every domain runs and every crossing is up. -/
def lit (s : State) : State :=
  { s with
    clk := { s.clk with
      calDefaults := false
      xings := (List.range 25).map fun d => (d, { up := true })
      doms := (List.range 25).map fun d => (d, { state := .run, clockOn := true, stateReq := .run }) } }

/-- Context 1, of core 0, runs with x; its core is q. -/
def running (x : Ctx) (q : Core := {}) : State :=
  { lit base with ctxs := [(1, { x with st := .run })], cores := [(0, q)] }

/-- Context 65, of S, runs with x; context 1 is d and its core q. -/
def onS (x : Ctx) (d : Ctx := {}) (q : Core := {}) : State :=
  { lit base with ctxs := [(1, d), (65, { x with st := .run })], cores := [(0, q)] }

/-- A context in LONG. -/
def inLong (x : Ctx) (q : Core := {}) : State := { lit base with ctxs := [(1, { x with st := .long })], cores := [(0, q)] }

/-- Window 0 open to core 0 and to the rings 0 to 2 for reading and writing, on 2^16 bytes. -/
def openedWindow (s : State) : State :=
  { s with prot := { s.prot with map := { s.prot.map with
    wins := [(0, { hbase := 0x80000000, size := 16, v := true, rd := true, wr := true })]
    cores := [(0, { win := [0] })]
    rings := [(0, { win := [0] }), (1, { win := [0] }), (2, { win := [0] })] } } }

def det : Core := { det := true }

/-- Whether a context issues in all of these states. -/
def allIssue (c : Nat) (l : List State) : Bool := l.all fun s => ready s c && fetchOk s c (s.ctx c).pc

theorem canIssue_of_mem {c : Nat} {l : List State} (h : allIssue c l = true) (s : State) (m : s ∈ l) : CanIssue s c := by
  simpa [CanIssue] using List.all_eq_true.mp h s m

/-- On a core whose dispatch store has never been written every allocated opcode is loaded (the premise of AnswersOp). -/
theorem opLoaded_of_empty (s : State) (c op : Nat) (h : (s.core (coreOf c)).dispatch = []) : opLoaded s c op = true := by
  simp [opLoaded, h]

theorem test_hyp_AnswersOp (op : Nat) :
    opLoaded (running {}) 1 op = true ∧ opLoaded (onS {}) 65 op = true ∧
    opLoaded (running {} { dispatch := [(0x10, 0x700)] }) 1 0x10 = true ∧ opLoaded (running {} { dispatch := [(0x10, 0x300)] }) 1 0x10 = false :=
  ⟨opLoaded_of_empty _ _ _ rfl, opLoaded_of_empty _ _ _ rfl, by decide +kernel, by decide +kernel⟩

/-! ## WellFormed -/

theorem test_wf_context : (Instr.nop 67 0).wf = true ∧ (Instr.nop 68 0).wf = false := by decide
theorem test_wf_core : (Instr.storeBufferDrain 17 .none).wf = false ∧ (Instr.svDbRead 17).wf = false := by decide
theorem test_wf_line : (Instr.intLineEvent 0 15).wf = true ∧ (Instr.intLineEvent 0 16).wf = false := by decide
theorem test_wf_bank : (Instr.lockBreak 16).wf = false ∧ (Instr.scrubRead 16 .none).wf = false := by decide
theorem test_wf_crossing : (Instr.xingResync 24).wf = true ∧ (Instr.xingResync 25).wf = false := by decide
theorem test_wf_domain : (Instr.islandWake 25).wf = false ∧ (Instr.islCtlWrite 25 0).wf = false := by decide
theorem test_wf_tick : (Instr.policyTick ⟨[], [], [], [], []⟩).wf = false := by decide
theorem test_wf_group : (Instr.hedgeFire 8).wf = false ∧ (Instr.hgCtlWrite 8 0).wf = false := by decide
theorem test_wf_meter :
    (Instr.meterZero 64 0 5).wf = false ∧ (Instr.meterZero 1 4 5).wf = false ∧ (Instr.meterZero 1 0 25).wf = false := by decide
theorem test_wf_op_tag : (Instr.phase 31).wf = true ∧ (Instr.phase 32).wf = false := by decide
theorem test_wf_lane : (Instr.cxLaneWrite 2 0).wf = false := by decide
theorem test_wf_mailbox : (Instr.mbPush 0 16 0 0).wf = false ∧ (Instr.mbPop 0 0 4).wf = false := by decide
theorem test_wf_port : (Instr.feTxSample 2).wf = false ∧ (Instr.feSpiGo 2).wf = false := by decide
theorem test_wf_read_tag : (Instr.cplTimeout 63).wf = true ∧ (Instr.cplTimeout 64).wf = false := by decide
theorem test_wf_counters : (Instr.poll 0 []).wf = false ∧ (Instr.pollrsp 0 [1]).wf = false := by decide
theorem test_wf_line_words : (Instr.memrdcpl ⟨0, 0⟩ true [1]).wf = false := by decide
theorem test_wf_shadow : (Instr.shadow ⟨0, 0⟩ (.completion 1024 0 [])).wf = false ∧ (Instr.shadow ⟨0, 0⟩ (.admin [])).wf = false := by decide
theorem test_wf_snapshot : (Instr.snapshot ⟨0, 0⟩ 0 1 1 [.core []]).wf = false := by decide
theorem test_wf_ring : (Instr.sqTail 1023 0).wf = true ∧ (Instr.sqTail 1024 0).wf = false ∧ (Instr.jobRun 1024).wf = false := by decide
theorem test_wf_channel : (Instr.beaconSend 4).wf = false ∧ (Instr.coexQuietTimeout 4).wf = false := by decide
theorem test_wf_uart : (Instr.uartRxRead 2).wf = false := by decide
theorem test_wf_can : (Instr.canRxFrame ⟨0, 0, []⟩).wf = false := by decide
theorem test_wf_gpio : (Instr.gpioEdge 16 true).wf = false := by decide

/-! ## The block -/

theorem test_no_word_spells_a_command : decodeTableWord 16 0xFFFF = none := rfl
/-- The words of Tables 4.1, 4.3, 4.4, 5.2 and 5.9, bit by bit: a basic op is 0000, then the EXIT field, then the opcode. -/
theorem test_instruction_words :
    decodeInstr 1 0b0000000000000000#16 = .nop 1 0 ∧ decodeInstr 1 0b0000000100010000#16 = .add 1 1 ∧
    decodeInstr 1 0b0000000001000100#16 = .ldw 1 0 .none ∧ decodeInstr 1 0b0000001011110000#16 = .ucwr 1 2 ∧
    decodeInstr 1 0b0000000000001110#16 = .userOp 1 0x0E 0 false 0 ∧ decodeInstr 1 0b0001111111111111#16 = .bz 1 0xFFF ∧
    decodeInstr 1 0b0010000000000001#16 = .bra 1 1 ∧ decodeInstr 1 0b0011000000000010#16 = .call 1 2 ∧
    decodeInstr 1 0b0100000000000100#16 = .lds 1 4 .none ∧ decodeInstr 1 0b0101000000001000#16 = .sts 1 8 ∧
    decodeInstr 1 0b0110000000010000#16 = .inP 1 0x010 ∧ decodeInstr 1 0b0111001000000100#16 = .outP 1 0x204 ∧
    decodeInstr 1 0b1010000000000001#16 = .lit 1 0x2001 none ∧ decodeInstr 1 0b1110000000000001#16 = .litc 1 0x2001 := by decide +kernel
theorem test_withFetchWord_leaves_the_state : (base.withFetchWord 16 1).pending = [] := rfl
theorem test_reset_queue_is_empty : State.reset.pending = [] := rfl

/-- Whether the command answers a next state of which f holds. -/
def gives (o : Host.Outcome State Fault Refusal) (f : State → Bool) : Bool := match o with | .next t => f t | _ => false

/-! ## One step of some commands -/

theorem test_add_wraps : gives (exec (.add 1 0) (running { ds := [1, 0xFFFFFFFF] }))
    (fun t => (t.ctx 1).ds == [0] && (t.ctx 1).cf && !(t.ctx 1).vf) = true := by decide +kernel
theorem test_sub_borrows : gives (exec (.sub 1 0) (running { ds := [1, 0] }))
    (fun t => (t.ctx 1).ds == [0xFFFFFFFF] && (t.ctx 1).cf && !(t.ctx 1).vf) = true := by decide +kernel
theorem test_add_overflows : gives (exec (.add 1 0) (running { ds := [1, 0x7FFFFFFF] }))
    (fun t => (t.ctx 1).ds == [0x80000000] && !(t.ctx 1).cf && (t.ctx 1).vf) = true := by decide +kernel
theorem test_neg_of_the_least : gives (exec (.neg 1 0) (running { ds := [0x80000000] }))
    (fun t => (t.ctx 1).ds == [0x80000000] && (t.ctx 1).vf) = true := by decide +kernel
theorem test_div_of_the_least : gives (exec (.div 1 0 0) (running { ds := [0xFFFFFFFF, 0x80000000] } det))
    (fun t => (t.ctx 1).ds == [0x80000000] && (t.ctx 1).vf) = true := by decide +kernel
theorem test_mod_takes_the_sign_of_a : gives (exec (.mod 1 0 0) (running { ds := [3, 0xFFFFFFF9] } det))
    (fun t => (t.ctx 1).ds == [0xFFFFFFFF]) = true := by decide +kernel
theorem test_div_by_zero_traps : gives (exec (.div 1 0 0) (running { ds := [0, 9] } det))
    (fun t => (t.ctx 1).ds == [0, 9] && ((t.ctx 1).trap.map fun q => q.cause) == some 0x05) = true := by decide +kernel
theorem test_mul_is_late : gives (exec (.mul 1 0) (running { ds := [3, 5, 9] }))
    (fun t => (t.ctx 1).ds == [3, 9] && ((t.ctx 1).lands.map fun l => (l.pos, l.val)) == [(1, 15)]) = true := by decide +kernel
theorem test_shl_by_32 : gives (exec (.shl 1 0) (running { ds := [32, 1] })) (fun t => (t.ctx 1).ds == [0]) = true := by decide +kernel
theorem test_sar_by_40 : gives (exec (.sar 1 0) (running { ds := [40, 0x80000000] }))
    (fun t => (t.ctx 1).ds == [0xFFFFFFFF]) = true := by decide +kernel
theorem test_rot : gives (exec (.rot 1 0) (running { ds := [3, 2, 1] })) (fun t => (t.ctx 1).ds == [1, 3, 2]) = true := by decide +kernel
theorem test_exit_returns : gives (exec (.nop 1 1) (running { rs := [0x40, 9] }))
    (fun t => (t.ctx 1).pc == 0x40 && (t.ctx 1).rs == [9]) = true := by decide +kernel
theorem test_lit_is_signed : gives (exec (.lit 1 0x2000 none) (running {})) (fun t => (t.ctx 1).ds == [0xFFFFE000]) = true := by decide +kernel
theorem test_pair_is_one_slot : gives (exec (.lit 1 5 (some (.add 0))) (running { ds := [3] } { fuseEn := true }))
    (fun t => (t.ctx 1).ds == [8] && (t.ctx 1).pc == 4 && (t.ctx 1).cycles == 1) = true := by decide +kernel
theorem test_div_stops_between_microwords : gives (exec (.div 1 0 4) (running { ds := [2, 9] } det))
    (fun t => (t.ctx 1).ds == [2, 9] && (t.ctx 1).pc == 0 && (t.ctx 1).mid.isSome) = true := by decide +kernel
theorem test_bra_backwards : gives (exec (.bra 1 0xFFF) (running { pc := 0x40 })) (fun t => (t.ctx 1).pc == 0x40) = true := by decide +kernel
theorem test_ldb_sign : gives (exec (.ldb 1 0 .none) (running { ds := [5] } { det := true, dlocal := [(5, 0x80)] }))
    (fun t => (t.ctx 1).ds == [0xFFFFFF80]) = true := by decide +kernel
theorem test_ldw_misaligned_traps : gives (exec (.ldw 1 0 .none) (running { ds := [6] } det))
    (fun t => (t.ctx 1).ds == [6] && (t.ctx 1).trap.isSome) = true := by decide +kernel
theorem test_stw_little_endian : gives (exec (.stw 1 0) (running { ds := [8, 0x04030201] }))
    (fun t => (t.core 0).dlocal == [(8, 1), (9, 2), (10, 3), (11, 4)]) = true := by decide +kernel
theorem test_store_of_zero_is_canonical : gives (exec (.stw 1 0) (running { ds := [8, 0] } { dlocal := [(9, 2), (12, 1)] }))
    (fun t => (t.core 0).dlocal == [(12, 1)]) = true := by decide +kernel
theorem test_wait_takes_flags : gives (exec (.wait 1 0) (running { ds := [6], evPend := 5 }))
    (fun t => (t.ctx 1).ds == [4] && (t.ctx 1).evPend == 1) = true := by decide +kernel
theorem test_supervisor_op_is_privileged : gives (exec (.ucwr 1 0) (running { ds := [0x300, 5] }))
    (fun t => ((t.ctx 1).trap.map fun q => q.cause) == some 0x02) = true := by decide +kernel
theorem test_ev_set_wakes : gives (exec (.evSet 1 6) { lit base with
    ctxs := [(1, { st := .wait, ds := [4], evWmask := 4 })] })
    (fun t => (t.ctx 1).ds == [4] && (t.ctx 1).evPend == 2 && decide ((t.ctx 1).st = .run)) = true := by decide +kernel
theorem test_mailbox_is_a_queue : gives (exec (.mbPop 1 0 3) { running {} with fab := { base.fab with mboxes := [(3, { ws := [7, 8] })] } })
    (fun t => t.rdata == 7 && (t.mbox 3).ws == [8]) = true := by decide +kernel
theorem test_sha256_of_nothing : (sha256 []).head? = some 0x42C4B0E3 := by decide +kernel
theorem test_pop_of_another_core_reads_zero : gives (exec (.mbPop 1 1 3) { running {} with rdata := 9 }) (fun t => t.rdata == 0) = true := by
  decide +kernel
theorem test_write_order_of_the_step : gives (step { running { ds := [1, 2] } with pending := [.drop 1 0, .nop 1 0] })
    (fun t => t.pending == [.nop 1 0] && (t.ctx 1).ds == [2]) = true := by decide +kernel
theorem test_idle_microsecond : gives (step base) (fun t => t.pending.isEmpty && t.nowUs == base.nowUs + 1) = true := by decide +kernel

/-! ## The hypotheses of the statements: the cores (chapters 4 to 7) -/

def cells (n : Nat) : List Word := List.replicate n 4

/-- One state for each clause, at the greatest depth that the clause allows. -/
theorem test_hyp_StackInstructionsRetire :
    allIssue 1 [running { ds := 1 :: cells 14, rs := [0xFFFFFE] }, running { ds := 1 :: cells 15, rs := cells 15 },
      running { ds := 1 :: 2 :: cells 14 }, running { ds := 1 :: 2 :: cells 13 }, running { ds := 1 :: 2 :: 3 :: cells 13 },
      running { ds := 14 :: cells 15 }, running { ds := cells 15, rs := 4 :: cells 15 }] = true ∧
    (14 : Word).toNat < (cells 15).length := by decide +kernel

/-- Both forms of a basic op: with EXIT the return stack holds a legal target. -/
theorem test_hyp_FormOk : FormOk {} 0 [] ∧ FormOk ((running { rs := [0xFFFFFE] }).ctx 1) 1 [0xFFFFFE] :=
  ⟨Or.inl rfl, Or.inr ⟨rfl, ⟨0xFFFFFE, [], rfl, rfl⟩, rfl⟩⟩

/-- The three LITs of R95 for 0x9ABCDEF0, from fifteen cells on. -/
def litChain : List State :=
  let next (o : Host.Outcome State Fault Refusal) : State := match o with | .next t => t | _ => base
  let s0 := running { ds := cells 15 }
  let s1 := next (exec (.lit 1 0x3FF9 none) s0)
  let s2 := next (exec (.litc 1 (0x9ABCDEF0#32 |>.extractLsb' 14 14)) s1)
  [s0, s1, s2, next (exec (.litc 1 (0x9ABCDEF0#32 |>.extractLsb' 0 14)) s2)]

theorem test_hyp_LiteralsBuildConstants :
    allIssue 1 litChain = true ∧ (litChain.map fun s => (s.ctx 1).ds.length) = [15, 16, 16, 16] ∧
    ((litChain.getD 3 base).ctx 1).ds.head? = some 0x9ABCDEF0 := by decide +kernel

theorem test_hyp_ArithmeticResults :
    allIssue 1 [running { ds := 32 :: 1 :: cells 14 }, running { ds := 31 :: 0x80000000 :: cells 14 }, running { ds := 0 :: cells 15 }] = true := by
  decide +kernel

theorem test_hyp_AddSubtractSetFlags :
    allIssue 1 [running { ds := 1 :: 0xFFFFFFFF :: cells 14, cf := true }, running { ds := 0x80000000 :: cells 15 }] = true := by decide +kernel

theorem test_hyp_MultiplyAndDivide :
    allIssue 1 [running { ds := 0xFFFFFFFF :: 0x80000000 :: cells 14 } det, running { ds := 0xFFFFFFFF :: 0x80000000 :: cells 14 },
      running { ds := 0 :: 1 :: cells 14 }] = true ∧
    ∀ n ∈ [1, 8], ∀ op ∈ [0x23, 0x24, 0x25, 0x26],
      let s := running { ds := 7 :: 1 :: cells 14, mid := some (.divide op 0 n 1 7) }
      microReady s 1 = true ∧ (s.ctx 1).mid = some (.divide op 0 n 1 7) := by decide +kernel

theorem test_hyp_NonzeroFieldIsIllegal :
    allIssue 1 [running {}, running {} { dispatch := [(0x77, 0x300)] }] = true ∧ allIssue 65 [onS {}] = true ∧ ((running {}).ctx 1).snaps = [] ∧
    2 ≤ (2 : BitVec 4).toNat ∧ opLoaded (running {} { dispatch := [(0x77, 0x300)] }) 1 0x77 = false ∧
    (0xEF : BitVec 8).toNat < 0xF0 ∧ coreOf 1 ≠ 16 ∧ coreOf 65 = 16 := by decide +kernel

/-- A full and an empty pair of stacks, with each spill pointer at both ends of its region and beyond them. -/
theorem test_hyp_SpillAndFill :
    allIssue 1 ([0x100, 0x1FC, 0x200, 0xFC].flatMap fun p =>
      [running { ds := cells 16, rs := cells 16, dspBase := 0x100, dspLimit := 0x200, dspPtr := p, rspBase := 0x100, rspLimit := 0x200, rspPtr := p },
        running { ds := 1 :: cells 15, rs := cells 16, rspBase := 0x100, rspLimit := 0x200, rspPtr := p },
        running { ds := [], rs := [], dspBase := 0x100, dspLimit := 0x200, dspPtr := p, rspBase := 0x100, rspLimit := 0x200,
                  rspPtr := p }]) = true := by
  decide +kernel

theorem test_hyp_LocalLoadsAndStores :
    allIssue 1 [running { ds := 0x7FFC :: cells 15 }, running { ds := 0x7FFE :: cells 15 } det, running { ds := cells 15, dbank := 7 },
      running { ds := 0x7FFC :: 1 :: cells 14 }, running { ds := 1 :: cells 15, dbank := 7 }] = true ∧
    (0x7FFC : Word).toNat < dlocalSize (coreOf 1) ∧ (0x7FFF : Word).toNat < dlocalSize (coreOf 1) ∧
    7 * 4096 + (0xFFC : BitVec 12).toNat < dlocalSize (coreOf 1) := by decide +kernel

/-- Pairs at the end of I-local memory, with fusion on; an empty stack without anything to fill; and the cores that do not fuse. -/
theorem test_hyp_PairsIssueAsOne :
    let fused : Core := { fuseEn := true }
    allIssue 1 [running { ds := cells 15, pc := 0x3FFC } fused, running { pc := 0x3FFC } fused, running { ds := 1 :: 2 :: cells 13 } fused,
      running {} { fuseEn := false }, running {} { fuseEn := true, det := true }] = true ∧
    fused.det = false ∧ (0x3FFC : BitVec 24).toNat + 2 < 0x4000 ∧ ((running { ds := cells 15 } fused).ctx 1).snaps = [] ∧
    ((0x1FFC : BitVec 14).signExtend 32).toNat % 4 = 0 ∧ ((0x1FFC : BitVec 14).signExtend 32).toNat < dlocalSize (coreOf 1) ∧
    ((running {}).ctx 1).lands = [] ∧ ((running {}).ctx 1).dspPtr.toNat ≤ ((running {}).ctx 1).dspBase.toNat ∧
    (1 : BitVec 4).getLsbD 0 = true := by decide +kernel

theorem test_hyp_LocalAtomicsAndTry :
    allIssue 1 [running { ds := 0x7FFC :: cells 13 }, running { ds := 1 :: 0x7FFC :: cells 13 } det,
      running { ds := 1 :: 2 :: 0x7FFC :: cells 13 }] = true ∧ storesVisible (running {}) 1 = true := by decide +kernel

/-- A word of shared SRAM at either end, whose bank is free. -/
theorem test_hyp_SharedAccessesEnterLong :
    (∀ a ∈ [0x10000000, 0x103FFFFC], SramServes (running {}) 1 a) ∧
    allIssue 1 [running { ds := 0x103FFFFC :: cells 14 }, running { ds := 1 :: 0x10000000 :: cells 13 },
      running { ds := 1 :: 2 :: 0x10000000 :: cells 13 }] = true ∧
    storesVisible (running {}) 1 = true ∧ ((running {}).ctx 1).brk = none := by
  unfold SramServes; decide +kernel

theorem test_hyp_LongAccessesEnd :
    (∀ o ∈ [LongOp.load 0x103FFFFC 4 1 true false, .load 0x103FFFFE 2 1 false false, .atomic 0x10000000 (.fadd 1), .atomic 0x10000000 (.cas 1 2)],
      let s := inLong { ds := [1, 2, 3], long := some o } { dcEn := false }
      islandRuns s (domOf (coreOf 1)) = true ∧ PlainLong (s.ctx 1) ∧ SramServes s 1 0x103FFFFC ∧ SramServes s 1 0x10000000 ∧
        (s.core (coreOf 1)).dcEn = false ∧ storeWaits s 1 0x103FFFFC 4 = false ∧ (s.ctx 1).long = some o) := by
  unfold SramServes PlainLong; decide +kernel

theorem test_hyp_StoresDrainInOrder :
    allIssue 1 [running { ds := 0x103FFFFC :: 1 :: cells 14 } { sbuf := List.replicate 3 ⟨1, .mem 0x10000000 4 5⟩ }] = true ∧
    SramServes (running {}) 1 0x103FFFFC ∧ ((running {}).ctx 1).line = none ∧ ((running {}).core 0).dcache = [] ∧
    ∀ z ∈ [1, 2, 4], ((running {} { sbuf := [⟨1, .mem 0x10000004 z 5⟩] }).core 0).sbuf = ⟨1, .mem 0x10000004 z 5⟩ :: [] ∧ 0x10000004 % z = 0 ∧
      SramServes (running {} { sbuf := [⟨1, .mem 0x10000004 z 5⟩] }) 1 0x10000004 := by
  unfold SramServes; decide +kernel

theorem test_hyp_LocksFencesAndBanks :
    allIssue 1 [running { ds := 0x103C0000 :: cells 15 }, running { ds := cells 15 }, running { hold := some ⟨false, 15⟩ }] = true ∧
    SramServes (running {}) 1 0x103C0000 ∧ ((running {}).rights (coreOf 1)).lock = true ∧ (running {}).fab.lockWait = [] ∧
    storesVisible (running {}) 1 = true ∧ (((running {}).core (coreOf 1)).sbuf.all fun e => e.c != 1) = true ∧
    ((running { hold := some ⟨false, 15⟩ }).ctx 1).hold = some ⟨false, 15⟩ := by
  unfold SramServes; decide +kernel

theorem test_hyp_TransfersReachTargets :
    allIssue 1 [running { ds := [0xFFFFFE], rs := cells 15 }, running { ds := [0x1000000] }, running { ds := [1], rs := [3] },
      running { rs := [0xE7, 0xFFFFFE], inh := true }, running { inh := false }] = true ∧
    LegalTarget 0xFFFFFE ∧ ¬LegalTarget 0x1000000 ∧ ¬LegalTarget 3 := by
  unfold LegalTarget; decide +kernel

/-- A BZ that resolves as predicted, and one that does not. -/
def snapOf (taken predicted : Bool) : Snap := ⟨[4], [8], 0x10, 0x20, true, false, [], 0x40, 0x80, taken, predicted, [], [], 0, [], 9, 1, 2, false⟩

theorem test_hyp_BranchesResolve :
    allIssue 1 [running { ds := [0] } det, running { ds := [4] }, running { ds := [0] } { pred := [(0, some 2)] },
      running { ds := [0] } { bpEn := false }] = true ∧
    ((running { ds := [0] } { pred := [(0, some 2)] }).core 0).bpEn = true ∧
    tget none ((running {} { pred := [(0, some 2)] }).core 0).pred ((({} : Ctx).pc).toNat / 2 % 256) = some 2 ∧
    ((running { snaps := [snapOf true true, snapOf true false] }).ctx 1).snaps = [snapOf true true, snapOf true false] ∧
    (snapOf true true).taken = (snapOf true true).predicted ∧ ((running { snaps := [snapOf true false] }).ctx 1).snaps = [snapOf true false] ∧
    (snapOf true false).taken ≠ (snapOf true false).predicted ∧ (snapOf true false).undo = [] ∧ (snapOf true false).cxTags = [] ∧
    ((running {}).core 0).bpMiss ≠ BitVec.allOnes 32 := by decide +kernel

/-- A vector table at the end of D-local memory whose handlers all stand at 0x100. -/
def vectors : Core := { dlocal := writeWords [] 0x7FBC (List.replicate 17 0x101), pend := 0x8003, en := 0xFFFF, route := 0x55555555,
                        lpri := 0xC0000000 }

theorem test_hyp_TrapsEnterHandlers :
    allIssue 1 [running { ds := 7 :: cells 15 }] = true ∧
    let s := running { ds := cells 4, rs := cells 14, vecBase := 0x7FBC, trap := some ⟨0x0E, 0, 3, 1, true⟩ } vectors
    let x := s.ctx 1
    x.trap = some ⟨0x0E, 0, 3, 1, true⟩ ∧ x.snaps = [] ∧ x.lands = [] ∧ islandRuns s (domOf (coreOf 1)) = true ∧ x.rs.length ≤ 14 ∧
    x.vecBase.toNat + 68 ≤ dlocalSize (coreOf 1) ∧ (readWord (s.core 0).dlocal x.vecBase.toNat).toNat % 2 = 1 ∧
    (readWord (s.core 0).dlocal x.vecBase.toNat).toNat < 2 ^ 24 := by decide +kernel

theorem test_hyp_InterruptsEnterHandlers :
    let s := running { rs := cells 14, vecBase := 0x7FBC, ie := true } vectors
    let x := s.ctx 1
    ready s 1 = true ∧ x.snaps = [] ∧ x.lands = [] ∧ x.hold = none ∧ x.rs.length ≤ 14 ∧ x.long = none ∧ x.entered = false ∧
    bestLine (s.core 0) x (1 % 4) = some 15 ∧ x.vecBase.toNat + 68 ≤ dlocalSize 0 ∧
    (readWord (s.core 0).dlocal (x.vecBase.toNat + 4 * (1 + 15))).toNat % 2 = 1 ∧
    (readWord (s.core 0).dlocal (x.vecBase.toNat + 4 * (1 + 15))).toNat < 2 ^ 24 := by decide +kernel

/-- The crossing 5, of core 0, holds these items and events in both directions. -/
def queued (l : List XItem) (es : List EvChan) (s : State) : State :=
  { s with clk := { s.clk with xings := s.clk.xings.map fun e => if e.1 = 5 then (5, { up := true, toD2 := ⟨l, es⟩, fromD2 := ⟨l, es⟩ }) else e } }

/-- A crossing's queue has room while it is empty, whatever its depth. -/
theorem queueFull_of_empty (s : State) (x : Nat) (d : Bool) (h : ((s.xing x).dir d).items = []) : queueFull s x d = false := by
  simp [queueFull, h]

/-- One event of a line under way, and 255 with more held; a full queue cannot be shown, since its depth is open. -/
theorem test_hyp_LinesAndDoorbells :
    (∀ l ∈ [0, 14], ∀ ch ∈ [(⟨.line 0 l, 1, 0, 0⟩ : EvChan), ⟨.line 0 l, 254, 255, 3⟩], let s := queued [] [ch] (running {})
      (s.xing (0 + 5)).fromD2.chans.find? (fun q => q.ev == .line 0 l) = some ch ∧ 0 < ch.new ∧ islandRuns s (0 + 5) = true ∧
      (s.dom (0 + 5)).autoGated = false) ∧
    coreOf 65 = 16 ∧ ((running {}).xing 3).up = true ∧ (((running {}).xing 3).dir true).items = [] := by decide +kernel

theorem test_hyp_CoreEventsAct :
    let l : Land := ⟨0, 1, 7, some true, .data, none⟩
    ((running { ds := [1, 2], lands := [l] }).ctx 1).lands[0]? = some l ∧ ((running { lands := [l] }).ctx 1).snaps = [] ∧
    ((running { lands := [l] }).ctx 1).mid = none ∧
    (let ws : List Word := [1, 2, 3, 4, 5, 6, 7, 8]
     let s := inLong { ds := [0x2000001C], long := some (.far 0x2000001C 4 1 false), line := some ⟨0x20000000, false, .held ws, []⟩ }
     let t := openedWindow s
     PlainLong (t.ctx 1) ∧ (t.ctx 1).long = some (.far 0x2000001C 4 1 false) ∧
     (t.ctx 1).line = some ⟨wd ((0x2000001C : Word).toNat / 32 * 32), false, .held ws, []⟩ ∧
     accessTrap t 1 .load 4 (0x2000001C : Word).toNat = none) ∧
    (let s := { inLong { ds := [0x103C0000], long := some (.lock 0x103C0000) } with fab := { base.fab with lockWait := [1] } }
     PlainLong (s.ctx 1) ∧ (s.ctx 1).long = some (.lock 0x103C0000) ∧ 1 ∈ s.fab.lockWait ∧ s.bankHolder 15 = none) ∧
    (let s := (running { hold := some ⟨false, 15⟩ }).setBank 15 (some (.ctx 1))
     s.bankHolder 15 = some (.ctx 1) ∧ (s.ctx 1).long = none ∧ (s.ctx 1).haltDue = false ∧ (s.ctx 1).parkDue = false ∧
     (s.xing (domOf (coreOf 1))).up = true) := by
  unfold PlainLong; decide +kernel

/-- No range of R355 holds port 0x140, so no core has a right to it (R136). -/
theorem test_hyp_PortsReadAndWrite :
    allIssue 1 [running { ds := cells 15 }, running { ds := 0x10080 :: cells 15 }, running { ds := 0x8000 :: 1 :: cells 14 }] = true ∧
    (0x10080 : Word).extractLsb' 0 16 = (0x080 : BitVec 12).setWidth 16 ∧
    ((running {}).rights (coreOf 1)).io.getLsbD 4 = true ∧ 0x800 ≤ (0x80F : BitVec 12).toNat ∧ (0x80F : BitVec 12).toNat < 0x810 ∧
    ((running {}).xing (domOf (coreOf 1))).up = true ∧ portGranted ((running {}).rights (coreOf 1)) 0x140 = false ∧
    0x8000 ≤ (0x8000 : Word).toNat % 2 ^ 16 ∧ coreOf 1 ≠ 16 ∧
    allIssue 65 [onS { ds := 0xFFFF :: 1 :: cells 14 }] = true ∧ ((onS {}).core 16).sbuf.length < 4 ∧ ((onS {}).core 16).det = false ∧
    coreOf 65 = 16 := by decide +kernel

theorem test_hyp_ThreadInstructions :
    allIssue 1 [running { ds := [6], evPend := 4 }, running { ds := [0] }, running { ds := [2], evPend := 4 }, running { ds := [0x87F] },
      running { ds := [0x3F] }, running { ds := cells 15 }, running { ds := [31, 0] }] = true ∧
    ((4 : Word) &&& 6 ≠ 0) ∧ ((4 : Word) &&& 2 = 0) ∧ storesVisible (running {}) 1 = true ∧
    (0x87F : Word).toNat % 2 ^ 12 / 2 ^ 7 ≤ 16 ∧ 4 * ((0x3F : Word).toNat / 2 ^ 7 % 2 ^ 5) + (0x3F : Word).toNat / 2 ^ 5 % 4 = 1 ∧
    4 * ((0x87F : Word).toNat / 2 ^ 7 % 2 ^ 5) + (0x87F : Word).toNat / 2 ^ 5 % 4 ≠ 1 ∧
    ((running {}).xing (domOf (coreOf 1))).up = true ∧ (((running {}).xing (domOf (coreOf 1))).dir true).items = [] ∧
    (4 : Word).getLsbD 2 = true ∧ (0 : BitVec 16) ≠ BitVec.allOnes 16 := by decide +kernel

theorem halted_of (s : State) (k : Nat) (h : ∀ e, e < 4 * k + 4 → (s.ctx e).st = .halted) : ∀ e, coreOf e = k → (s.ctx e).st = .halted :=
  fun e q => h e (by unfold coreOf at q; omega)

theorem test_hyp_SupervisorInstructions_halted : ∀ e, coreOf e = 0 → ((onS {}).ctx e).st = .halted := halted_of (onS {}) 0 (by decide +kernel)

/-- S commands core 0 whose contexts are HALTED; another context of core 0 is d. -/
theorem test_hyp_SupervisorInstructions :
    allIssue 1 [running {}] = true ∧ coreOf 1 ≠ 16 ∧
    allIssue 65 ([[0x300, 5], [0x80C0, 0x3FFFFF], [0xC0, 0xFFFF, 0xFFFFFF, 7], [0x100], [0], [0x20, 9], [0x120, 9], [0x220, 9], [0x320, 9],
      [0x420, 9]].map fun ds => onS { ds := ds }) = true ∧
    coreOf 65 = 16 ∧ coreOf 1 = 0 ∧ ((onS {}).rights 0).mcw = true ∧
    (0x3FFFFF : Word).getLsbD 22 = false ∧ (0x3FFFFF : Word).getLsbD 23 = false ∧ (0xFFFFFF : Word).toNat < 2 ^ 24 ∧ (0xFFFF : Word).toNat < 2 ^ 16 ∧
    coreOutstanding (onS {}) 0 = false ∧ ((onS {}).xing 3).up = true ∧ ((onS {}).xing (0 + 5)).up = true ∧
    (({ onS {} with clk := { (onS {}).clk with doms := [(5, { locked := true })] } } : State).dom 5).locked = true ∧
    ((onS {}).ctx 1).hold = none ∧ ((onS {}).ctx 1).long = none ∧ ((onS {}).ctx 1).snaps = [] ∧
    admissible ((onS {}).modCtx 1 fun y => { y with acct := (9 : Word).setWidth 6 }) = true := by decide +kernel

/-! ## Events, hedges and accounts (chapters 10 and 11) -/

theorem test_hyp_EventsReachContexts :
    ((running {}).ctx 1).st ≠ .wait ∧
    (let s : State := { lit base with ctxs := [(1, { st := .wait, ds := [4], evWmask := 4 })] }
     (s.ctx 1).st = .wait ∧ PlainLong (s.ctx 1) ∧ (s.ctx 1).long = none ∧ ((s.ctx 1).evPend ||| 4) &&& (s.ctx 1).evWmask ≠ 0) ∧
    (let ch : EvChan := ⟨.post none 1 31 true, 0, 255, 0⟩
     let s := queued [] [ch] (running {})
     1 < 64 ∧ (s.ctx 1).st ≠ .wait ∧ islandRuns s (domOf (coreOf 1)) = true ∧ (s.dom (domOf (coreOf 1))).autoGated = false ∧
     (s.xing (domOf (coreOf 1))).fromD2.chans.find? (isPost 1 31) = some ch ∧ ch.ev = .post none 1 31 true ∧ ch.new = 1) ∧
    (let s := running { tmrArmed := true }
     (s.ctx 1).tmrArmed = true ∧ (s.ctx 1).tmrLeft = 0 ∧ islandRuns s 2 = true ∧ (s.xing (domOf (coreOf 1))).up = true) := by
  unfold PlainLong; decide +kernel

/-- Groups 0 and 1 are hedged, 2 and 7 are not enabled; context 1 is HALTED. -/
def hedges : State :=
  { lit base with
    thorn := { base.thorn with
      groups := [(0, { en := true, wood := true, wcore := 15, wctx := 3, mem0 := 2 }),
          (1, { en := true, supv := true, mem0 := 4, fired := true, snap := [9] }),
        (2, { mem0 := 8 }), (7, { mem0 := 2 })] } }

theorem test_hyp_HedgesFireAndReport :
    hedged hedges (hedges.group 0) = true ∧ (hedges.group 0).settled = false ∧ (hedges.group 0).fired = false ∧ (hedges.group 0).wood = true ∧
    (hedges.group 0).wcore.toNat < 16 ∧ (hedges.group 0).supv = false ∧ (hedges.xing (15 + 5)).up = true ∧
    hedged hedges (hedges.group 1) = true ∧ (hedges.group 1).fired = true ∧ (hedges.group 1).wood = false ∧ (hedges.group 1).supv = true ∧
    (hedges.xing 3).up = true ∧
    ({ hedges.group 0 with mem0 := 8 } : Group).member 63 = false ∧ (∀ n ∈ [2, 7], (hedges.group n).en = false) ∧ (0x705 : Word).getLsbD 0 = true ∧
    (0x705 : Word).toNat / 2 ^ 4 % 2 ^ 5 ≤ 16 := by decide +kernel

/-- The two cases of an enabling write of group 2, whose member 3 is in no other group, and of group 7, whose member 1 is in group 0. -/
theorem test_hyp_HedgesFireAndReport_cases :
    ((∃ c, c < 68 ∧ (hedges.group 2).member c = true) ∧ ((5 : Word).getLsbD 1 = true ∨ (5 : Word).getLsbD 2 = true) ∧ (5 : Word).getLsbD 1 = false ∧
      ∀ m, m < 8 → ∀ c, c < 68 → m ≠ 2 ∧ (hedges.group m).en = true ∧ (hedges.group 2).member c = true → (hedges.group m).member c = false) ∧
    ((hedges.group 0).en = true ∧ (hedges.group 7).member 1 = true ∧ (hedges.group 0).member 1 = true) :=
  ⟨⟨⟨3, by decide +kernel⟩, by decide +kernel, by decide +kernel, by decide +kernel⟩, by decide +kernel⟩

/-- Account 2 with a debt, and its contexts on core 0: parked, in RUN, in RUN with a lock, and in WAIT. -/
def accounts : State :=
  { lit base with
    ctxs := [(0, { st := .parked, acct := 2 }), (1, { st := .run, acct := 2 }), (2, { st := .run, acct := 2, hold := some ⟨false, 1⟩ }),
      (3, { st := .wait, acct := 2 })]
    mill := { base.mill with accts := [(2, { cxMeter := -20, dmaMeter := 3, eff := ⟨5, 20, 2, 9⟩, coreMeters := [(0, 0)] }), (63, {})] } }

/-- The turn stands at this microsecond of its 1,000. -/
def turnAt (us : Nat) (s : State) : State := { s with mill := { s.mill with turnPos := us } }

/-- Account 2 with a twin request held for its budget, the twin's crossing and lanes up. -/
def heldTwin : State :=
  { turnAt 1000 accounts with
    fab := { base.fab with twinHold := [.line 1 0x30000020] }, twin := { base.twin with lanesUp := true } }

theorem test_hyp_MillTurnRefills :
    accounts.mill.turnUs.toNat = 1000 ∧ (turnAt 1000 accounts).mill.turnPos = 1000 ∧ (turnAt 999 accounts).mill.turnPos = 999 ∧
    (turnAt 500 accounts).mill.turnPos = 500 ∧ (turnAt 499 accounts).mill.turnPos = 499 ∧
    (accounts.ctx 0).st = .parked ∧ (accounts.ctx 1).st ≠ .parked ∧ accounts.mill.shiftNext = [] ∧ accounts.fab.twinHold = [] ∧
    accounts.host.dmas = [] ∧
    (2, accounts.acct 2) ∈ accounts.mill.accts ∧ (accounts.acct 2).next = none ∧ -(accounts.acct 2).cxMeter ≤ ((accounts.acct 2).eff.cx : Int) ∧
    ¬-(accounts.acct 2).cxMeter ≤ ((accounts.acct 2).eff.dma : Int) ∧ accounts.mill.midDone = false ∧ 1 ∈ ctxsOf 0 ∧
    ({ accounts.mill with midDone := true } : Mill).midDone = true := by decide +kernel

theorem test_hyp_MillTurnRefills_twin :
    heldTwin.fab.twinHold = [.line 1 0x30000020] ∧ heldTwin.host.dmas = [] ∧ twinAccepts heldTwin = true ∧ heldTwin.mill.shiftNext = [] ∧
    (2, heldTwin.acct 2) ∈ heldTwin.mill.accts ∧ (heldTwin.ctx (TwinUse.line 1 0x30000020).ctx).acct = 2 ∧ (heldTwin.acct 2).next = none ∧
    -(heldTwin.acct 2).twinMeter < ((heldTwin.acct 2).eff.twin : Int) ∧ heldTwin.mill.turnUs.toNat ≤ heldTwin.mill.turnPos := by decide +kernel

theorem test_hyp_ParkingAndMillerWrites :
    (accounts.core 0).det = false ∧ tget 0 (accounts.acct 2).coreMeters 0 ≤ 0 ∧ tget 0 (accounts.acct 2).coreSlack 0 = 0 ∧
    (accounts.core 15).det = false ∧ tget 0 (accounts.acct 63).coreMeters 15 ≤ 0 ∧ tget 0 (accounts.acct 63).coreSlack 15 = 0 ∧
    (accounts.ctx 1).st = .run ∧ (accounts.ctx 1).hold = none ∧ (accounts.ctx 2).hold ≠ none ∧ (accounts.ctx 3).st = .wait ∧
    (accounts.dom 5).floorBad = false ∧ 0 < tget 0 (accounts.acct 2).coreMeters 0 + 1 ∧
    (∀ us ∈ [100, 10000], 100 ≤ us % 2 ^ 14 ∧ us % 2 ^ 14 ≤ 10000) ∧
    admissible (base.modMill fun m => { m with turnNext := some (1000, true) }) = true ∧
    admissible ({ base with ctxs := [(1, { acct := 2, st := .run })], mill := { base.mill with accts := [(2,
        { guar := ⟨1000000000, 0, 0, 0⟩ })] } }.modMill
      fun m => { m with turnNext := some (100, false) }) = false ∧ (2 : Word).getLsbD 1 = true := by decide +kernel

/-! ## The Cauldron, clocks and crossings (chapters 2 and 9) -/

def opOf (t : Nat) (go : Word) (started done cancelled : Bool) : CxOp :=
  ⟨t, 1, go, 0x10000000, 0x10000100, 0x00000004, 0x00010004, 3, started, done, 0, 7, 0xABC, 12, cancelled, false, false⟩

def withOps (l : List CxOp) (x : Ctx := {}) : State := let s := running x; { s with cx := { s.cx with ops := l } }

theorem test_hyp_CauldronOpsFlow :
    (let o := opOf 31 2 false false false
     let s := withOps [o]
     s.cx.ops.find? (fun p => p.tag == o.tag) = some o ∧ islandRuns s 4 = true ∧ pipeFree s o.pipe = true ∧
     (nextOp s o.pipe).map (fun p => p.tag) = some o.tag ∧ o.c = 1 ∧ o.cancelled = false ∧ o.started = false) ∧
    (let o := opOf 31 2 true true false
     let s := withOps [o]
     s.cx.ops.find? (fun p => p.tag == o.tag) = some o ∧ o.done = true ∧ o.cancelled = false ∧ o.tag < 32 ∧
     (∀ p ∈ s.cx.ops, p.c = o.c → p.tag = o.tag) ∧ o.started = true ∧ o.go.toNat % 2 ^ 4 ∈ [2, 4, 5] ∧
     (opOf 31 1 true false false).go.toNat % 2 ^ 4 ∈ [1, 3, 6, 7, 8]) ∧
    ((running { recs := [⟨0x21, 5, some 1, 1, 3⟩] }).ctx 1).recs = [⟨0x21, 5, some 1, 1, 3⟩] ∧ ((running {}).ctx 1).recs = [] ∧
    (0x10F : Word).getLsbD 8 = true := by
  decide +kernel

/-- Both cases of an enabled lane: every island of it locked at one frequency, and not. -/
theorem test_hyp_CauldronOpsFlow_lanes :
    let m : Dom := { state := .run, clockOn := true, locked := true, lockMhz := 400 }
    let s : State := { base with clk := { base.clk with doms := [(2, m), (4, m), (20, m)] } }
    (s.dom 4).locked = true ∧ (s.dom (15 + 5)).locked = true ∧ (s.dom 2).locked = true ∧ (s.dom 4).lockMhz = (s.dom (15 + 5)).lockMhz ∧
    (s.dom 4).lockMhz.toNat ≤ (s.dom 2).lockMhz.toNat ∧ s.cx.ops = [] ∧ (base.dom 4).locked = false ∧
    namesAcc 6 = true ∧ (opOf 3 0x66 true false false).accIx = 6 := by decide +kernel

theorem test_hyp_CauldronScalarOps :
    (∀ c ∈ [6, 7, 8, 5], let o := opOf 31 (BitVec.ofNat 32 c) true false false
      let s := withOps [o]
      islandRuns s 4 = true ∧ s.cx.ops.find? (fun p => p.tag == o.tag && p.code == c && p.started && !p.done) = some o ∧
      (s.acc (o.go.toNat / 2 ^ 4 % 2 ^ 3)).frozen = false ∧ (∀ b ∈ o.banks, s.bankHolder b = none)) ∧
    (let o := opOf 27 7 true false false
     0 ∈ o.banks ∧ ((withOps [o]).setBank 0 (some (.ctx 9))).bankHolder 0 = some (.ctx 9) ∧ o.tag < 28) ∧
    (∀ a ∈ [0x10000000, 0x103FFFF0], (BitVec.ofNat 32 a).toNat % 4 = 0 ∧ 0x10000000 ≤ (BitVec.ofNat 32 a).toNat ∧
     (BitVec.ofNat 32 a).toNat + 16 ≤ 0x10400000) := by decide +kernel

/-- Ops over four words at the start of shared SRAM, and the blocks of other lengths that fit. -/
theorem test_hyp_CauldronBlockOps :
    (∀ c ∈ [1, 2, 3, 4], let o := opOf 31 (BitVec.ofNat 32 c) true false false
      let s := withOps [o]
      islandRuns s 4 = true ∧ s.cx.ops.find? (fun p => p.tag == o.tag && p.code == c && p.started && !p.done) = some o ∧ s.fab.ecc = [] ∧
      (∀ b ∈ o.banks, s.bankHolder b = none) ∧ (s.acc (o.go.toNat / 2 ^ 4 % 2 ^ 3)).frozen = false) ∧
    (0 : Nat) < 4 ∧ (∀ b ∈ [0x10000000, 0x103FFFF0], (BitVec.ofNat 32 b).toNat % 4 = 0 ∧ 0x10000000 ≤ (BitVec.ofNat 32 b).toNat ∧
     (BitVec.ofNat 32 b).toNat + 4 * 4 ≤ 0x10400000) ∧
    (∀ l ∈ [1, 64], 0 < l ∧ l ≤ 64) ∧ (0x10000000 : Word).toNat + 4 * 4 ≤ (0x10000100 : Word).toNat ∧
    (∀ j, j ≤ 4 → (-(2 ^ 47) ≤ (0 : Int) + ((List.range j).map fun _ => (0 : Int)).sum ∧
      (0 : Int) + ((List.range j).map fun _ => (0 : Int)).sum < 2 ^ 47)) := by
  decide +kernel

theorem test_hyp_CrossingsCarryItems :
    (∀ n ∈ [0, 1], let i : XItem := .timerArm 1 (BitVec.ofNat 32 n) 31
      let s := queued [i] [] (running {})
      (s.xing 5).toD2.items = i :: [] ∧ islandRuns s 2 = true) ∧
    (let s := queued [.svdb 15 7] [] (running {})
     (s.xing 5).toD2.items = .svdb 15 7 :: [] ∧ islandRuns s 2 = true ∧ domOf 15 ≠ 5 ∧ ((s.xing (domOf 15)).dir false).items = [] ∧
     (s.xing (domOf 15)).up = true ∧ (s.xing 5).fromD2.items = .svdb 15 7 :: [] ∧ islandRuns s 5 = true ∧ (s.dom 5).autoGated = false) ∧
    ((lit base).xing 5).toD2.items = [] ∧ base.faults.frozen = false ∧ base.faults.log.length < 64 := by decide +kernel

/-- One post and 255 events of a line with more held, on crossing 5 in both directions; a line of S on crossing 3. -/
theorem test_hyp_CrossingsCarryItems_events :
    (∀ ch ∈ [(⟨.post none 5 31 true, 1, 0, 0⟩ : EvChan), ⟨.line 1 0, 254, 255, 3⟩], let s := queued [] [ch] (running {})
      (s.xing 5).toD2.chans[0]? = some ch ∧ ch.new ≠ 0 ∧ islandRuns s 2 = true ∧ domOf (coreOf 5) ≠ 5 ∧ domOf 1 ≠ 5 ∧
      (s.xing (domOf (coreOf 5))).up = true ∧ (s.xing (domOf 1)).up = true) ∧
    (∀ n ∈ [1, 2], let ch : EvChan := ⟨.line 0 15, BitVec.ofNat 8 n, 0, 0⟩
      let s := queued [] [ch] (running {} { pend := 0x8000 })
      (s.xing 5).fromD2.chans[0]? = some ch ∧ ch.new ≠ 0 ∧ islandRuns s 5 = true ∧ (s.dom 5).autoGated = false ∧ (s.core 0).pend.getLsbD 15 = true) ∧
    (let ch : EvChan := ⟨.line 16 9, 1, 0, 0⟩
     let s : State := { lit base with clk := { (lit base).clk with xings := [(0, { up := true, toD2 := ⟨[], [ch]⟩ }), (1, { up := true }),
         (3, { up := true, fromD2 := ⟨[], [ch]⟩ })] } }
     (s.xing 3).fromD2.chans[0]? = some ch ∧ ch.new ≠ 0 ∧ (s.dom 3).inRst = false ∧
     (s.xing 0).toD2.chans[0]? = some ch ∧ islandRuns s 1 = true ∧ (s.xing 1).up = true) := by decide +kernel

/-- Crossings at both ends of the numbers that come up, the host's among them while its link is down, and those that a pointer error takes down. -/
theorem test_hyp_CrossingsCarryItems_resync :
    (∀ x ∈ [0, 3, 21, 24], let s : State := { lit base with
        clk := { (lit base).clk with xings := [], x3Err := true }, host := { base.host with linkUp := false } }
      (s.xing x).up = false ∧ x ≠ 2 ∧ x ≤ 24 ∧ clockRuns s (if x = 0 then 1 else 2) = true ∧ clockRuns s x = true ∧
      canSend (s.setXing 21 { up := true }) = false ∧ s.clk.x3Err = true) ∧
    (∀ x ∈ [0, 1, 23, 24], ((lit base).xing x).up = true) := by decide +kernel

/-- ISL_CTL_d with CODE_CAP 5, the lock bit, LOCK_MHZ, FLOOR_MHZ 100 and the requested state. -/
def islWord (lock mhz req : Nat) : Word := BitVec.ofNat 32 (5 + lock * 2 ^ 6 + mhz * 2 ^ 7 + 100 * 2 ^ 16 + req * 2 ^ 26)

/-- Islands without guarantees; D_5 is locked for the deterministic core 0. -/
def islands : State :=
  let s := running {} det
  { s with
    mill := { s.mill with accts := [] }
    clk := { s.clk with doms := s.clk.doms.map fun e => if e.1 = 5 then (5, { e.2 with refLock := true, locked := true }) else e } }

theorem test_hyp_IslandControlWrites :
    islands.clk.calDefaults = false ∧
    (∀ d ∈ [2, 5, 20], (islands.dom d).floorNext = none ∧ (islands.dom d).state = .run) ∧
    (∀ d ∈ [2, 20], lockFrozen islands d = false ∧ carriesGuarantee islands d = false ∧ (islands.dom d).state = .run ∧
      (islands.dom d).floorMhz.toNat = (islWord 1 25 0).toNat / 2 ^ 16 % 2 ^ 9) ∧
    (∀ mhz ∈ [25, 400], (islWord 1 mhz 0).toNat / 2 ^ 7 % 2 ^ 9 = mhz ∧ (islWord 1 mhz 0).toNat / 2 ^ 26 % 4 = 0 ∧
     (islWord 1 mhz 0).getLsbD 6 = true) ∧
    (islands.dom 20).refLock = false ∧ (islands.dom 20).lockMhz.toNat = 100 ∧ (islWord 0 100 2).getLsbD 6 = false ∧
    (islWord 0 100 2).toNat / 2 ^ 26 % 4 = 2 ∧ lockFrozen islands 5 = true ∧ (islands.dom 5).refLock = true ∧ carriesGuarantee islands 5 = false ∧
    (islWord 0 100 0).getLsbD 6 ≠ (islands.dom 5).refLock := by decide +kernel

theorem test_hyp_PolicyTickKeepsSafeCodes :
    base.clk.policyOn = false ∧ ({ base.clk with policyOn := true, pllLocked := true, calDefaults := true } : Clk).policyOn = true ∧
    ((lit base).dom 20).state = .run ∧ [511999].getD 0 0 < 512000 ∧ ((lit base).dom 2).refLock = false := by decide +kernel

theorem test_hyp_RunStatesAndLocks :
    ((lit base).dom 4).state = .run ∧ ((lit base).dom 4).stateReq = .run ∧ (lit base).cx.ops = [] ∧ coreIdle (lit base) 15 = true ∧
    (∀ d ∈ [3, 5, 20], let s : State := { base with cores := [(0, { storesValid := true }), (15, { storesValid := true })], clk := { base.clk with
        doms := [(d, { state := .gated, stateReq := .run, autoGated := true })] } }
      (s.dom d).state = .gated ∧ (s.dom d).stateReq = .run ∧ (d = 3 ∨ (s.core (d - 5)).storesValid = true)) ∧
    (let s : State := { base with clk := { base.clk with doms := [(2, { state := .stopped }), (5, { state := .run })] } }
     (s.dom 2).state = .stopped ∧ othersStopped s = false) ∧
    (let s : State := { base with clk := { base.clk with doms := [(2, { state := .run, stateReq := .stopped })] } }
     (s.dom 2).state = .run ∧ (s.dom 2).stateReq = .stopped ∧ othersStopped s = true) ∧
    (∀ d ∈ [2, 20], let s : State := { base with clk := { base.clk with
        pllLocked := true, doms := [(d, { state := .run, refLock := true, locked := true, goodWins := 3 })] } }
      (s.dom d).refLock = true ∧ s.clk.pllLocked = true ∧ (s.dom d).state = .run ∧ (s.dom d).locked = true ∧ (s.dom d).goodWins = 3) ∧
    (-1000 : Int).natAbs ≤ 1000 ∧ 5000 < (-5001 : Int).natAbs := by decide +kernel

/-! ## The fabric and the twin (chapters 7, 8 and 14) -/

/-- One microword with one nanoword, for opcode 0xC0: the ALU's function on the top two cells, as the last microword of the op or not. -/
def userCore (alu : Nat) (last : Bool) : Core :=
  { dispatch := [(0xC0, 0x2705), (0xC1, 0x0305), (0xF1, 0x2705)], micro := [(0x305, BitVec.ofNat 24 ((if last then 5 * 2 ^ 21 else 0) + 0xC7))]
    nano := [(0xC7, BitVec.ofNat 96 (6 + alu * 2 ^ 6 + 2 ^ 11 + 2 ^ 19))] }

theorem test_hyp_UserOpsRun :
    (∀ alu ∈ [2, 3, 6, 7, 8], ∀ last ∈ [true, false], let s := running { ds := 5 :: 3 :: cells 14 } (userCore alu last)
      let q := s.core 0
      let e := dispatchAt q 0xC0
      allIssue 1 [s] = true ∧ userOpcode 0xC0 = true ∧ entryValid e = true ∧ fld e 9 0 = 0x305 ∧ fld e 14 12 = 2 ∧ fld e 17 15 = 0 ∧ fld e 19 18 = 0 ∧
      fld e 21 20 = 0 ∧ microAt q 0x305 = BitVec.ofNat 24 ((if last then 5 * 2 ^ 21 else 0) + 0xC7) ∧ 0xC0 ≤ 0xC7 ∧
      nanoAt q 0xC7 = BitVec.ofNat 96 (6 + alu * 2 ^ 6 + 1 * 2 ^ 11 + 0 * 2 ^ 15 + 1 * 2 ^ 19)) ∧
    allIssue 65 [onS {}] = true ∧ coreOf 65 = 16 := by decide +kernel

theorem test_hyp_UserOpsRun_traps :
    0xF0 ≤ (0xF0 : BitVec 8).toNat ∧ coreOf 1 ≠ 16 ∧ 2 ≤ (2 : BitVec 4).toNat ∧ (1 : BitVec 4).toNat < 2 ∧
    allocated 0xC1 = false ∧ userOpcode 0xC1 = true ∧ entryValid (dispatchAt ((running {} (userCore 2 true)).core 0) 0xC1) = false ∧
    allocated 0x0E = false ∧ userOpcode 0x0E = false ∧ coreOf 1 < 16 ∧ base.faults.frozen = false := by decide +kernel

theorem test_hyp_ScrubAndMailboxes :
    let s : State := { lit base with fab := { base.fab with scrubAt := [(15, 0xFFFF)], mboxes := [(63, { ws := cells 7 }), (0, { ws := cells 8 })] } }
    s.fab.scrubEn = true ∧ s.bankHolder 15 = none ∧ (s.setBank 15 (some (.ctx 1))).bankHolder 15 ≠ none ∧
    tget none s.fab.ecc (0x10000000 + 15 * 0x40000 + 4 * 0xFFFF) = none ∧ (s.mbox (4 * 15 + 3)).ws.length < 8 ∧
    8 ≤ (s.mbox 0).ws.length ∧ storesVisible s 1 = true ∧ coreOf 1 ≠ 1 ∧ ({ s.fab with scrubEn := false } : Fab).scrubEn = false := by decide +kernel

/-- Port p with an RX buffer of 2^10 bytes that holds `fill` bytes, and a TX buffer with as many to play. -/
def port (fill : BitVec 20) (f : Fe → Fe := id) : Fe :=
  f { rxEn := true, txEn := true, stalled := false, rxBase := 0x10000000, txBase := 0x10000400, rxRd := 0x100, rxWr := 0x100 + fill, txRd := 0x100,
      txWr := 0x100 + fill }

theorem test_hyp_FrontEndStreams :
    (∀ p ∈ [0, 1], let s : State := { lit base with twin := { base.twin with feOwn := true }, fab := { base.fab with fes := [(p, port 4)] } }
      p < 2 ∧ (s.fe p).rxEn = true ∧ (s.fe p).stalled = false ∧ (s.xing (23 + p)).up = true ∧ (s.fe p).txEn = true ∧ s.twin.feOwn = true ∧
      (s.xing (23 + p)).toD2.items = [] ∧ islandRuns s 2 = true ∧ rangeHeld s (0x10000000 + 0x104) 4 = false ∧
      rangeHeld s (0x10000400 + 0x100) 4 = false ∧
      rangeHeld (s.setBank 0 (some (.ctx 1))) (0x10000400 + 0x100) 4 = true ∧
      tget none s.fab.ecc (((s.fe p).txBase.toNat + (s.fe p).txRd.toNat) / 4 * 4) = none) ∧
    (∀ f ∈ [(0, 0), (4, 4), (0x2FC, 0x2FC)], ((port (BitVec.ofNat 20 f.1)).rxWr.toNat + 2 ^ 10 - (port 0).rxRd.toNat) % 2 ^ 10 = f.2) ∧
    0x3FC + 4 = 2 ^ 10 ∧
    (let s : State := { base with fab := { base.fab with fes := [(1, port 0 fun f => { f with stalled := true })] },
                                  pass := { base.pass with isOpen := true, port := 1 } }
     s.pass.isOpen = true ∧ s.pass.port = 1 ∧ (s.fe 1).stalled = true) := by decide +kernel

/-- A far line of context 1 is awaited: with the tag i, and in LONG with the op. -/
def awaited (i : Nat) (t : HbTag) (x : Ctx) : State :=
  { inLong x with fab := { base.fab with tags := [(i, some t)] } }

theorem test_hyp_FarRequestsEnd :
    (let s := awaited 63 ⟨.line 1 0x80000000 0x20000020, [], false, none⟩
        { line := some ⟨0x20000020, false, .fetching, []⟩, long := some (.far 0x20000024 4 1 false) }
     s.hbTag 63 = some ⟨.line 1 0x80000000 0x20000020, [], false, none⟩ ∧ (s.ctx 1).line = some ⟨0x20000020, false, .fetching, []⟩ ∧
     s.fab.hbWait = [] ∧
     (s.ctx 1).long = some (.far 0x20000024 4 1 false) ∧ PlainLong (s.ctx 1)) ∧
    (let s := awaited 0 ⟨.atomic 1 0x80000000, [], false, none⟩ { long := some (.farAtomic 0x20000024 (.fadd 5) none) }
     s.hbTag 0 = some ⟨.atomic 1 0x80000000, [], false, none⟩ ∧ (s.ctx 1).long = some (.farAtomic 0x20000024 (.fadd 5) none) ∧ PlainLong (s.ctx 1)) ∧
    (awaited 8 ⟨.desc 1 0 1, [], true, none⟩ {}).hbTag 8 = some ⟨.desc 1 0 1, [], true, none⟩ ∧
    ((running { line := some ⟨0x20000020, true, .held [], []⟩ }).ctx 1).line = some ⟨0x20000020, true, .held [], []⟩ ∧
    (running {}).fab.hbWait = [] ∧
    (let s : State := { base with twin := { base.twin with lanesUp := true }, fab := { base.fab with
        treqs := [⟨1, .store 63 0x30000020 4 77, false, none⟩, ⟨2, .line 1 0x30000020, true, some 7⟩] } }
     s.fab.treqs.find? (fun r => r.tag == 1) = some ⟨1, .store 63 0x30000020 4 77, false, none⟩ ∧
     s.fab.treqs.find? (fun r => r.tag == 2) = some ⟨2, .line 1 0x30000020, true, some 7⟩ ∧ s.twin.lanesUp = true ∧
     s.twin.replayBuf.length < 32) := by
  unfold PlainLong; decide +kernel
def hdr : Hdr := ⟨0, 9⟩

/-- The lanes are up; the twin block is as f leaves it. -/
def twin (f : Twin → Twin) (x : Ctx := {}) (g : Fab → Fab := id) : State :=
  let s := running x
  { s with twin := f { s.twin with lanesUp := true }, fab := g s.fab, nowUs := 1000 }

theorem test_hyp_TwinRequestsAndSideBand :
    (let s := twin fun t => { t with unackedRx := 6, replayBuf := List.replicate 31 ⟨6, true, 0, 3, [], none⟩ }
     InOrder s hdr ∧ LinkFree s) ∧
    (∀ o ∈ [0, 0x3FFFFC], (BitVec.ofNat 32 o).toNat < 0x400000 ∧ (BitVec.ofNat 32 o).toNat / 0x40000 ∉ (twin id).fab.twinBroken ∧
      (twin id).bankHolder ((BitVec.ofNat 32 o).toNat / 0x40000) = none) ∧
    (let s := twin (fun t => { t with st := .primary }) {} fun f => { f with banks := [(15, some (.ctx 1)), (0, some (.twin 9)),
        (1, some (.twin 8))] }
     s.bankHolder 15 = some (.ctx 1) ∧ s.twin.st = .primary ∧ s.bankHolder 0 = some (.twin 9) ∧ s.bankHolder 1 = some (.twin 8) ∧
     (9 : BitVec 16).toNat % 128 = hdr.tag.toNat % 128 ∧ (8 : BitVec 16).toNat % 128 ≠ hdr.tag.toNat % 128) ∧
    (let s := twin id { line := some ⟨0x20000020, false, .fetching, []⟩ } fun f => { f with treqs := [⟨9, .line 1 0x20000020, false, none⟩] }
     InOrder s hdr ∧ s.fab.treqs.find? (fun r => r.tag == hdr.tag) = some ⟨9, .line 1 0x20000020, false, none⟩ ∧
     (s.ctx 1).line = some ⟨0x20000020, false, .fetching, []⟩) ∧
    (cells 8).length = 8 := by
  unfold InOrder LinkFree; decide +kernel

theorem test_hyp_TwinRequestsAndSideBand_no_errors : ∀ i, tget none (twin id).fab.ecc i = none := fun _ => rfl

theorem test_hyp_TwinlinkDelivers :
    (let s := twin fun t => { t with unackedRx := 3, replayBuf := [⟨6, true, 1, 3, [], none⟩], recentReplays := List.replicate 7 999 }
     s.twin.lanesUp = true ∧ s.twin.unackedRx ≠ 0 ∧ s.twin.wah = [] ∧ s.twin.heldPkts = [] ∧ s.pass.ending = false ∧
     s.twin.replayBuf.filter (fun p => !decide (((0 : BitVec 12) - p.seq).toNat < 2048)) ≠ [] ∧
     (s.twin.recentReplays.filter fun i => decide (s.nowUs < i + 40)).length < 8 ∧ s.twin.replayBuf ≠ []) ∧
    (let s := twin fun t => { t with replayBuf := [⟨6, true, 1, 3, [], none⟩], recentReplays := List.replicate 8 961 }
     8 ≤ (s.twin.recentReplays.filter fun i => decide (s.nowUs < i + 40)).length) ∧
    (let s := twin id { long := some (.lock 0) } fun f => { f with treqs := [⟨9, .lock 1 15, false, none⟩] }
     InOrder s hdr ∧ s.fab.treqs.find? (fun r => r.tag == hdr.tag) = some ⟨9, .lock 1 15, false, none⟩ ∧ PlainLong (s.ctx 1)) ∧
    (let s := twin fun t => { t with st := .alone }
     s.boot.ready = true ∧ s.host.fatal = false ∧ s.twin.st = .alone ∧ s.twin.detached = false) := by
  unfold InOrder PlainLong; decide +kernel

/-- The same claim as this side's own, but for HEARD. -/
theorem test_hyp_ClaimsSettleRoles :
    (let s := twin fun t => { t with st := .claiming }
     s.boot.ready = true ∧ s.host.fatal = false ∧ s.twin.st = .claiming ∧ s.twin.settling = false ∧ s.twin.lanesUp = true ∧
     s.twin.attaching = false ∧ s.twin.incumbent = false) ∧
    (twin fun t => { t with st := .claiming, lanesUp := false }).twin.lanesUp = false ∧ (twin id).twin.attaching = false ∧ (twin id).twin.wah = [] ∧
    (let s := twin fun t => { t with st := .claiming, settling := true }
     s.twin.settling = true ∧ s.host.rings.all (fun e => e.2.started.isEmpty) = true ∧ s.twin.snapIn = none) ∧
    (let s := twin fun t => { t with st := .standby }
     s.twin.st = .standby ∧ s.twin.hbLost = false ∧ s.prot.wait = none ∧ s.host.resyncBusy = false ∧ s.twin.senseA = false ∧
     s.twin.senseB = false ∧ s.twin.backoff = none) ∧
    (∀ g ∈ [1, 32767], 1 ≤ (BitVec.ofNat 16 g - 0).toNat ∧ (BitVec.ofNat 16 g - 0).toNat ≤ 32767) ∧
    (twin fun t => { t with feOwn := true, incumbent := true, backoff := some 16 }).twin.backoff = some 16 := by decide +kernel

theorem test_hyp_ClaimsSettleRoles_echo (s : State) : { myClaim s with heard := false } = { myClaim s with heard := false } := rfl

/-- Who wins between two claims, at the ends of each comparison: generations 1 and 32767 apart and equal, and priorities. -/
theorem test_hyp_ClaimsSettleRoles_order :
    ((1 - 0 : BitVec 16).toNat = 1 ∧ (0 - 0x8001 : BitVec 16).toNat = 32767) ∧ ¬((2 : BitVec 2) = 2 ∧ (1 : BitVec 2) = 2) ∧
    (1 : BitVec 2) < 2 ∧ (1 : BitVec 2) ≠ 2 ∧ (0 : BitVec 64) < 1 := by decide

def proposal : Proposal := ⟨5, cells 8, {}, true, true, 1000⟩

theorem test_hyp_StandbyFollowsAndTakesOver :
    (let s := twin fun t => { t with st := .standby, hbLost := true, permit := true }
     InOrder s hdr ∧ s.twin.st = .standby ∧ 14 + 1 < (s.ring 1).size ∧ s.twin.detached = false ∧ s.boot.ready = true ∧ s.host.fatal = false ∧
     s.twin.relinq = none ∧ s.twin.hbLost = true ∧ s.twin.permit = true ∧ s.twin.senseA = false ∧ s.twin.senseB = false ∧ s.twin.backoff = none) ∧
    (let s := twin fun t => { t with st := .catchup }
     InOrder s hdr ∧ s.twin.st = .catchup ∧ s.twin.snapQueue = []) ∧
    (let s := { twin fun t => { t with st := .standby, relinq := some 7 } with prot := { base.prot with pend := some proposal } }
     s.prot.pend = some proposal ∧ s.prot.wait = none ∧ s.twin.relinq = some 7 ∧ s.twin.hbLost = false) ∧
    (let s := twin fun t => { t with st := .primary, snapping := true }
     s.twin.st = .primary ∧ s.twin.snapping = true ∧ s.twin.wah = [] ∧ s.pass.ending = false ∧ s.twin.attaching = false ∧ s.host.fatal = false ∧
     (s.ring 0).st ≠ .active ∧
     s.host.unsol.length ≤ 16) ∧ (1 : Word).getLsbD 0 = true := by
  unfold InOrder; decide +kernel

/-- The head of ring n is e, which may start and complete at once. -/
def headReady (s : State) (n : Nat) (e : SqEnt) : Bool :=
  decide ((s.ring n).fetched = [e]) && (s.ring n).mayStart e (waitingRecs s n) && !s.host.fatal && canSend s && (s.ring n).held.isEmpty &&
  (n == 0 || !shadowing s && (!s.twin.stoodDown && decide (s.twin.st ≠ .conflict)))

theorem headReady_of {s : State} {n : Nat} {e : SqEnt} (h : headReady s n e = true) : HeadReady s n e := by
  simpa [headReady, HeadReady, and_assoc] using h

/-- The admin command e with reserved words of zeros from word k on, at the head of RING_0. -/
def adminReady (s : State) (e : SqEnt) (op k : Nat) : Bool :=
  headReady s 0 e && e.opcode == op && decide (s.twin.st = .alone) && (s.ring 0).started.isEmpty && e.reservedOk k

theorem adminReady_of {s : State} {e : SqEnt} {op k : Nat} (h : adminReady s e op k = true) : AdminReady s e op ∧ e.reservedOk k = true := by
  simp only [adminReady, Bool.and_eq_true] at h
  obtain ⟨⟨⟨⟨h1, h2⟩, h3⟩, h4⟩, h5⟩ := h
  exact ⟨⟨headReady_of h1, by simpa using h2, by simpa using h3, by simpa using h4⟩, h5⟩

/-- The three forms of TWIN_CONTROL, each in a role that it moves. -/
theorem test_hyp_StandbyFollowsAndTakesOver_control :
    (let e := sq 0x12 [0]
     let s := atHead 0 e (twin fun t => { t with st := .primary, peerSt := 4 })
     headReady s 0 e = true ∧ e.opcode = 0x12 ∧ e.reservedOk 3 = true ∧ e.dw 2 = 0 ∧ s.twin.st = .primary ∧ s.twin.peerSt = 4 ∧ s.twin.wah = [] ∧
     s.pass.ending = false) ∧
    (let e := sq 0x12 [1]
     let s := atHead 0 e (twin id)
     headReady s 0 e = true ∧ e.dw 2 = 1 ∧ s.twin.st = .alone ∧ s.twin.lanesUp = true) ∧
    (let e := sq 0x12 [2]
     let s := atHead 0 e (twin fun t => { t with st := .primary, peerSt := 3 })
     headReady s 0 e = true ∧ e.dw 2 = 2 ∧ (e.dw 2).toNat < 4 ∧ s.twin.st = .primary ∧ s.twin.peerSt = 3 ∧ s.twin.wah = [] ∧
     s.host.rings.all (fun r => r.2.started.isEmpty) = true) := by
  decide +kernel

/-! ## The host rings (chapters 12 and 13) -/

def host (f : HostP → HostP) : State := let s := lit base; { s with host := f s.host, nowUs := 1000 }

theorem test_hyp_AdminRingStartsAndStops :
    (let s := host fun h => { h with adminSqLo := 0x1000, adminCqLo := 0x2000 }
     s.boot.ready = true ∧ s.host.fatal = false ∧ 10 ≤ (0x000A0001 : Word).toNat / 2 ^ 16 ∧ s.host.adminEn = false ∧ (s.ring 0).resetting = false ∧
     s.host.adminSqLo.toNat + 2 ^ 32 * s.host.adminSqHi.toNat ≠ 0 ∧ s.host.adminCqLo.toNat + 2 ^ 32 * s.host.adminCqHi.toNat ≠ 0 ∧
     s.clk.calDefaults = false ∧ s.host.unsol = []) ∧
    (let s := host id
     (0x00090001 : Word).toNat / 2 ^ 16 < 10 ∧ s.host.adminSqLo.toNat + 2 ^ 32 * s.host.adminSqHi.toNat = 0) ∧
    (let s := (host fun h => { h with adminEn := true }).setRing 0 ring0
     s.host.adminEn = true ∧ (s.ring 0).started = [] ∧ (s.ring 0).held = [] ∧
     (s.setTag 8 (some ⟨.desc 0 2 1, [], false, none⟩)).hbTag 8 = some ⟨.desc 0 2 1, [], false, none⟩) ∧
    (let s := (host fun h => { h with adminEn := true, linkUp := false }).setRing 0 { ring0 with held := [⟨none, 7, 0, 0, 0, 1, false⟩] }
     s.host.adminEn = true ∧ (s.ring 0).held ≠ [] ∧ canSend s = false) ∧
    (let s := (host fun h => { h with adminEn := true }).setRing 0 { ring0 with started := [⟨7, sq 1 [], none⟩] }
     s.host.adminEn = true ∧ (s.ring 0).started ≠ []) := by decide +kernel

/-- Ring 1023 with its indices as f leaves them, and no other. -/
def lastRing (f : Ring → Ring) : State := host fun h => { h with rings := [(1023, f ring0)] }

theorem test_hyp_DoorbellsFetchCommands :
    (let s := lastRing id
     let r := s.ring 1023
     s.boot.ready = true ∧ s.host.fatal = false ∧ 1023 < 1024 ∧ shadowing s = false ∧ r.st = .active ∧ r.resetting = false ∧ r.late = [] ∧ 15 < 2 ^ r.log2n ∧
     r.cqHead < 2 ^ r.log2n ∧ r.cqTail < 2 ^ r.log2n ∧ s.twin.wah = [] ∧
     (∀ v ∈ [3, 7], v < 2 ^ r.log2n ∧ (v + 16 - r.cqHead) % 16 ≤ (r.cqTail + 16 - r.cqHead) % 16)) ∧
    (let r := (lastRing fun r => { r with st := .stopped }).ring 1023
     r.st = .stopped ∧ r.resetting = false) ∧ ((host id).ring 1023).st = .absent ∧ (host id).twin.st = .alone ∧
    ({ host id with twin := { (host id).twin with st := .catchup } } : State).twin.st = .catchup ∧
    (let s := host fun h => { h with resyncLo := 0x10000 }
     descReads s = false ∧
     (1 : Word).getLsbD 0 = true ∧ s.host.resyncBusy = false ∧ resyncAddrOf s ≠ 0 ∧ canSend s = true) ∧
    (∀ h ∈ [0, 15], let s := lastRing fun r => { r with cqHead := 7, sqHead := h }
      let r := s.ring 1023
      s.host.rings = [(1023, r)] ∧ r.st = .active ∧ r.resetting = false ∧ r.cqTail < 2 ^ r.log2n ∧ r.acct = 0 ∧ r.fetched = [] ∧ r.started = [] ∧
      r.held = [] ∧ r.reruns = [] ∧ r.late = [] ∧ s.twin.st ≠ .conflict ∧
      r.cqHead = r.cqTail ∧ 1 ≤ r.log2n ∧ r.sqHead < 2 ^ r.log2n ∧ r.sqTail < 2 ^ r.log2n ∧ r.sqHead ≠ r.sqTail ∧ r.sqBase % 64 = 0 ∧
      64 ≤ s.host.mrrs ∧ s.twin.stoodDown = false ∧ s.fab.tags = [] ∧ canSend s = true) ∧
    (let s := (lastRing id).setTag 8 (some ⟨.desc 1023 2 1, [], false, none⟩)
     s.hbTag 8 = some ⟨.desc 1023 (s.ring 1023).sqHead 1, [], false, none⟩ ∧ s.fab.hbWait = [] ∧ (sq 0x60 []).ws.length = 16 ∧
     opcodeOk 1023 ((nthW (sq 0x60 []).ws 0).toNat % 256) = true) ∧
    (let m := fun b : Bool => host fun h => { h with
      msixEn := true, rings := [(1023, { ring0 with unsig := 1, vector := 63 })], msix := [(63, { mask := b })] }
     ((m false).ring 1023).unsig ≠ 0 ∧ ((m false).ring 1023).vector.toNat < 64 ∧ (m false).host.msixEn = true ∧ (m false).host.msixMask = false ∧
     (tget {} (m false).host.msix 63).mask = false ∧ (tget {} (m true).host.msix 63).mask = true) := by decide +kernel

/-- The command q of ring n is started and can end. -/
def canEnd (s : State) (n : Nat) (q : Started) : Bool :=
  decide ((s.ring n).started = [q]) && (s.ring n).fetched.isEmpty && !(s.ring n).resetting && !s.host.fatal && canSend s && (s.ring n).held.isEmpty &&
  (n == 0 || !shadowing s && !s.twin.stoodDown)

theorem canEnd_of {s : State} {n : Nat} {q : Started} (h : canEnd s n q = true) : CanEnd s n q := by
  simpa [canEnd, CanEnd, and_assoc] using h

def startedOn (n : Nat) (e : SqEnt) (s : State) : State := s.setRing n { ring0 with started := [⟨7, e, none⟩] }

theorem test_hyp_DoorbellsFetchCommands_timeout :
    let s := startedOn 1023 (sq 0x60 []) (host id)
    CanEnd s 1023 ⟨7, sq 0x60 [], none⟩ ∧ canSend (host fun h => { h with linkUp := false }) = false ∧ (∀ c, (s.ctx c).job = none) ∧
    s.pass.isOpen = false ∧ s.host.jobs = [] :=
  ⟨canEnd_of (by decide +kernel), by decide +kernel, fun _ => rfl, by decide +kernel⟩

def entry5 : EntryPt := ⟨0x100, 0x100, 0x200, 0x300, 0x400, 0x40, 0x10001000⟩

/-- JOB_RUN of an entry with n operands on any core. -/
def jobRun (entry n : Nat) : SqEnt := sq 0x60 [BitVec.ofNat 32 (0xFFFF + entry * 2 ^ 16), BitVec.ofNat 32 n]

/-- A halted context 4 of core 1 fits the job; the lower ones run. The island of core 1 has gated itself. -/
def jobHost (jobs : List (Nat × BitVec 16)) : State :=
  let s := host fun h => { h with entries := [(5, some entry5)], jobs := jobs }
  { s with
    ctxs := (List.range 4).map (fun c => (c, { st := .run })) ++ [(4, { acct := 0 })], cores := [(1, { storesValid := true })]
    clk := { s.clk with doms := (6, { state := .gated, stateReq := .run, autoGated := true }) :: s.clk.doms } }

theorem test_hyp_JobsRun :
    (∀ k ∈ [0, 10], let e := jobRun 5 k
      let s := atHead 1 e (jobHost [])
      headReady s 1 e = true ∧ e.opcode = 0x60 ∧ e.reservedOk 14 = true ∧ fld (e.dw 3) 31 4 = 0 ∧ fld (e.dw 3) 3 0 ≤ 10 ∧ fld (e.dw 2) 15 8 = 0xFF ∧
      fld (e.dw 2) 7 0 = 0xFF ∧ tget none s.host.entries (fld (e.dw 2) 31 16) = some entry5 ∧
      tget none s.host.entries (fld ((jobRun 6 k).dw 2) 31 16) = none) := by decide +kernel

theorem test_hyp_JobsRun_dispatch :
    (let e := jobRun 5 10
     let s := { startedOn 1 e (jobHost [(1, 7)]) with host := { (startedOn 1 e (jobHost [(1, 7)])).host with sessionCores := 0xFF00 } }
     (s.ring 1).started = [⟨e.cmd, e, none⟩] ∧ s.host.jobs = [(1, e.cmd)] ∧ jobFits s 1 e 4 = true ∧ (∀ d, d < 4 → jobFits s 1 e d = false) ∧
     tget none s.host.entries (fld (e.dw 2) 31 16) = some entry5 ∧ fld (e.dw 3) 3 0 ≤ 10 ∧ admissible s = true ∧ (s.ctx 4).acct = (s.ring 1).acct) ∧
    (∀ d ∈ [0, 1], let e := jobRun 5 10
      let s := { startedOn 1 e (jobHost []) with
        ctxs := [(4, { st := if d = 1 then .run else .halted, job := some (1, 7, 0x10001000) })],
            fab := { base.fab with sram := writeWord [] 0x10001030 (BitVec.ofNat 32 d) } }
      canEnd s 1 ⟨7, e, none⟩ = true ∧ (s.ctx 4).job = some (1, 7, 0x10001000) ∧ readWord s.fab.sram (0x10001000 + 48) = BitVec.ofNat 32 d ∧
      readWord s.fab.sram (0x10001000 + 52) = 0 ∧ (s.ctx 4).st = (if d = 1 then .run else .halted) ∧ (s.ctx 4).hold = none ∧ (s.ctx 4).long = none ∧
      (s.ctx 4).snaps = []) := by decide +kernel

/-- A data-movement command with its length, at the end of shared SRAM. -/
def move (op win off len : Nat) : SqEnt :=
  sq op [BitVec.ofNat 32 win, BitVec.ofNat 32 off, BitVec.ofNat 32 (0x10400000 - len), BitVec.ofNat 32 len, if op = 0x72 then 9 else 0]

theorem test_hyp_TransfersMove :
    (∀ l ∈ [4, 1048576], let e := move 0x72 0 0 l
      let s := atHead 1 e (openedWindow (host id))
      headReady s 1 e = true ∧ (e.dw 5).toNat % 4 = 0 ∧ 4 ≤ (e.dw 5).toNat ∧ (e.dw 5).toNat ≤ 1048576 ∧ (e.dw 4).toNat % 4 = 0 ∧
      0x10000000 ≤ (e.dw 4).toNat ∧ (e.dw 4).toNat + (e.dw 5).toNat ≤ 0x10400000 ∧ e.opcode = 0x72 ∧ e.reservedOk 7 = true ∧ (e.dw 2).toNat = 0 ∧
      (e.dw 3).toNat = 0) ∧
    (∀ op ∈ [0x70, 0x71], ∀ l ∈ [4, 32768], let e := move op 0 32768 l
      let s := atHead 1 e (openedWindow (host id))
      headReady s 1 e = true ∧ dmaOf s 1 e.cmd = none ∧ s.fab.tags = [] ∧ (s.ring 1).acct = 0 ∧ (e.dw 2).toNat < 256 ∧ e.reservedOk 6 = true ∧
      (e.dw 3).toNat % 4 = 0 ∧ (s.win 0).v = true ∧
      (e.dw 3).toNat + (e.dw 5).toNat ≤ 2 ^ (s.win 0).size ∧ 0 ∈ (tget {} s.prot.map.rings 1).win ∧ e.opcode = op ∧ (s.win 0).rd = true ∧
      (s.win 0).wr = true) ∧
    (({ (openedWindow base).win 0 with rd := false, wr := false } : Win).rd = false) := by decide +kernel

/-- One segment of each kind: the longest fill, a read that ends at a page boundary under tag 31, and a write that does. -/
theorem test_hyp_TransfersMove_segments :
    ∀ p ∈ [(2, 0, 0xFFFFC, none), (0, 0xE00, 512, some (31, 512)), (1, 0xF80, 128, none)], let e := move 0x70 0 0 4
      let d : Dma := ⟨1, 7, BitVec.ofNat 2 p.1, p.2.1, 0x10000000, p.2.2.1, 0, 9, false, p.2.2.2⟩
      let s := startedOn 1 e (host fun h => { h with dmas := [d] })
      canEnd s 1 ⟨7, e, none⟩ = true ∧ (s.ring 1).acct = 0 ∧ s.host.dmas = [d] ∧ s.fab.hbWait = [] ∧ rangeHeld s 0x10000000 p.2.2.1 = false ∧
      p.2.2.1 % 4 = 0 ∧ 0 < p.2.2.1 ∧ p.2.2.1 < 2 ^ 20 ∧ (p.1 = 2 ∨ p.2.1 % 4096 + p.2.2.1 ≤ 4096) ∧ (p.1 = 1 → p.2.2.1 ≤ min 256 s.host.mps) ∧
      (p.1 = 2 → dmaOf s 1 7 = some d ∧ rangeHeld (s.setBank 0 (some (.ctx 1))) (d.sram + d.moved) (d.len - d.moved) = true) := by decide +kernel

/-! ## The commands of RING_0 (chapters 13, 15 and 20) -/

def ringCreate : SqEnt := sq 0x02 [BitVec.ofNat 32 (1023 + 12 * 2 ^ 16 + 2 ^ 24), 0x1000, 0, 0x2000, 0, BitVec.ofNat 32 (2 ^ 16 + 63 * 2 ^ 8),
    BitVec.ofNat 32 (10 * 2 ^ 16)]

theorem test_hyp_RingCommands :
    (∀ f ∈ [false, true], let s := atHead 0 ringCreate (if f then lastRing id else host id)
      adminReady s ringCreate 0x02 9 = true ∧ ringFieldsOk s ringCreate = true ∧ fld (ringCreate.dw 2) 9 0 = 1023 ∧
      (s.ring 1023).st = (if f then .active else .absent)) ∧
    (∀ l ∈ [[], [(⟨7, sq 1 [], none⟩ : Started)]], let e := sq 0x03 [1023]
      let s := atHead 0 e (lastRing fun r => { r with started := l })
      adminReady s e 0x03 3 = true ∧ (e.dw 2).toNat < 1024 ∧ fld (e.dw 2) 9 0 ≠ 0 ∧ s.twin.wah = [] ∧ (s.ring 1023).st ≠ .absent ∧
      (s.ring 1023).started = l ∧ (s.ring 1023).late = [] ∧ rerunsLeft s 1023 = false) ∧
    rerunsLeft (lastRing fun r => { r with reruns := [3] }) 1023 = true ∧ ((host id).ring 1023).st = .absent ∧
    (let e := sq 0x04 [1023]
     let s := atHead 0 e (lastRing fun r => { r with cqHead := 14, cqTail := 14 })
     let r := s.ring 1023
     adminReady s e 0x04 3 = true ∧ r.started = [] ∧ r.late = [] ∧ r.held = [] ∧ rerunsLeft s 1023 = false ∧ s.pass.ending = false ∧ r.fenced = none ∧
     r.latchCq = none ∧ r.cqHead = r.cqTail ∧ 4 ≤ r.log2n ∧
     r.cqTail + 1 < 2 ^ r.log2n) ∧
    (let e := sq 0x14 [0, 0x10000, 1]
     let s := atHead 0 e (host id)
     adminReady s e 0x14 5 = true ∧ e.dw 2 = 0 ∧ (e.dw 3).toNat % 2 ^ 16 = 0 ∧ s.host.resyncBusy = false) ∧
    (let e := sq 0x14 [1, 1023]
     let s := atHead 0 e (lastRing fun r => { r with st := .stopped })
     let r := s.ring 1023
     adminReady s e 0x14 4 = true ∧ e.dw 2 = 1 ∧ e.dw 3 = 1023 ∧ r.fetched = [] ∧ r.latchSq = none ∧ r.latchCq = none ∧
     r.st = .stopped) := by decide +kernel

/-- The command is ready at the head of RING_0, in the state that f makes of a running Gorgar. -/
def admin (op k : Nat) (ws : List Word) (f : State → State := id) : Bool :=
  let e := sq op ws
  adminReady (atHead 0 e (f (host id))) e op k

/-- An ISL_CTL image with CODE_CAP 63, LOCK_MHZ, FLOOR_MHZ 400 and the request RUN. -/
def clockImage (lock : Nat) : Word := BitVec.ofNat 32 (63 + lock * 2 ^ 7 + 400 * 2 ^ 16)

/-- Core 15 with its stores valid, its contexts HALTED, and its island as m. -/
def core15 (m : Dom) (s : State) : State :=
  { s with
    cores := [(15, { storesValid := true })], host := { s.host with entries := [(5, some entry5)] }
    clk := { s.clk with doms := (20, { m with state := .run, clockOn := true }) :: s.clk.doms } }

theorem halted15_of (s : State) (h : ∀ c, c < 64 → c / 4 = 15 → (s.ctx c).st = .halted ∧ (s.ctx c).stopDue = false) :
    ∀ c, c / 4 = 15 → (s.ctx c).st = .halted ∧ (s.ctx c).stopDue = false :=
  fun c q => h c (by omega) q

theorem test_hyp_SettingCommands :
    admin 0x05 11 [63 + 2 ^ 9, 0, 0xFFFFFF] = true ∧ ((host id).acct 63).next = none ∧ (0xFFFFFF : Word).toNat < 2 ^ 24 ∧
    admissible ((host id).setAcct 63 { (host id).acct 63 with next := some ⟨none, [some 0xFFFFFF, none, none, none], none⟩ }) = true ∧
    (let s : State := { host id with ctxs := [(0, { acct := 63 })] }
     admissible (s.setAcct 63 { s.acct 63 with next := some ⟨none, [some 0xFFFFFF, none, none, none], none⟩ }) = false) ∧
    admin 0x0A 5 [20 + 2 ^ 8, clockImage 25] = true ∧ admin 0x0A 5 [20 + 2 ^ 8, clockImage 24] = true ∧ admin 0x0A 5 [2 + 2 ^ 11, 0, 0x1FFFF] = true ∧
    (0x1FFFF : Word).toNat < 2 ^ 17 ∧ (clockImage 25).toNat < 2 ^ 28 ∧ (clockImage 25).getLsbD 25 = false ∧
    (clockImage 25).toNat / 2 ^ 7 % 2 ^ 9 = 25 ∧
    (clockImage 25).toNat / 2 ^ 16 % 2 ^ 9 = 400 ∧ (clockImage 25).toNat / 2 ^ 26 = 0 ∧ (clockImage 24).toNat / 2 ^ 7 % 2 ^ 9 = 24 ∧
    (host id).clk.calDefaults = false ∧ ((host id).dom 20).floorNext = none ∧
    admin 0x0B 9 [7, 0, 1, 2, 15, 3, 0] = true ∧ (15 : Word).toNat < 16 ∧
    admin 0x11 5 [0, 0, 0x40000] openedWindow = true ∧ (0x40000 : Word).toNat ≤ 262144 ∧ ledgerOk (openedWindow (host id)) 0 0 1024 = true ∧
    ledgerOk (openedWindow (host id)) 0 0 1025 = false ∧ (host id).pass.isOpen = false ∧
    admin 0x07 5 [15 + 2 ^ 8 + 2 ^ 16, 5, 0] (core15 {}) = true ∧ admin 0x08 3 [15 + 15 * 2 ^ 8 + 2 * 2 ^ 16] (core15 {}) = true ∧
    admin 0x09 3 [15 + 2 ^ 8] (core15 { locked := true }) = true ∧ admin 0x09 3 [15] (core15 {}) = true := by decide +kernel

theorem test_hyp_SettingCommands_core :
    let s := core15 {} (host id)
    jobCore s 15 = true ∧ (s.rights 15).mcw = true ∧ (s.ctx (4 * 15)).st = .halted ∧ tget none s.host.entries 5 = some entry5 ∧
    (s.core 15).storesValid = true ∧ (s.dom (15 + 5)).state = .run ∧ (s.ctx (4 * 15)).acct.setWidth 32 = (0 : Word) ∧ admissible s = true ∧
    (s.core 15).det = false ∧ laneHeld s 15 = none ∧ (s.xing 3).up = true ∧ (s.xing 20).up = true ∧ coreOutstanding s 15 = false ∧
    ((core15 { locked := true } s).dom 20).locked = true ∧
    (s.dom 20).locked = false := by decide +kernel

theorem test_hyp_SettingCommands_halted :
    let s := core15 {} (host id)
    ∀ c, c / 4 = 15 → (s.ctx c).st = .halted ∧ (s.ctx c).stopDue = false := halted15_of _ (by decide +kernel)

def key : List Word := [1, 2, 3, 4, 5, 6, 7, 8]

/-- Both keys are provisioned; the protection unit is as f leaves it. -/
def keyed (f : Prot → Prot := id) (s : State) : State := { s with prot := f { s.prot with keyH := some key, keyF := some key } }

/-- A party's consent to proposal 5, with the signature under its key. -/
def consent (party : Word) : List Word := [5, 0, party] ++ hmacSha256 key (cells 8 ++ [5, 0, party, 0])

theorem test_hyp_ProtectionNeedsBothConsents :
    admin 0x0C 7 [4, 0, 52, 8, 0] keyed = true ∧ (keyed id base).prot.keyH ≠ none ∧ (keyed id base).prot.keyF ≠ none ∧
    (keyed id base).prot.lockout = none ∧ (keyed id base).prot.wait = none ∧
    readsNow (atHead 0 (sq 0x0C [4, 0, 52, 8, 0]) (keyed id (host id))) = true ∧ (∀ z ∈ [12, 23], 12 ≤ z ∧ z ≤ 23 ∧ 0x800000 % 2 ^ z = 0) ∧
    (keyed (fun p => { p with pCount := 99999 }) base).prot.pCount < 100000 ∧ lacksRights (keyed id base) (keyed id base).prot.map = false ∧
    (let q : Proposal := ⟨5, cells 8, {}, false, false, 1000⟩
     let s := keyed (fun p => { p with pend := some q, fails := 1 }) (host id)
     admin 0x0D 13 (consent 0x48) (keyed fun p => { p with pend := some q }) = true ∧ s.prot.pend = some q ∧ s.nowUs < q.atUs + 60000000 ∧
     ((sq 0x0D (consent 0x48)).ws.drop 5).take 8 = hmacSha256 key (cells 8 ++ [5, 0, 0x48, 0]) ∧ q.f = false ∧ s.prot.fails < 2 ∧
     ((sq 0x0D (consent 0x46)).ws.drop 5).take 8 = hmacSha256 key (cells 8 ++ [5, 0, 0x46, 0]) ∧ proposal.h = true ∧
     ((sq 0x0D ([5, 0, 0x46] ++ cells 8)).ws.drop 5).take 8 ≠ hmacSha256 key (cells 8 ++ [5, 0, 0x46, 0])) ∧
    (2 : Nat) ≤ ({ base.prot with fails := 2 } : Prot).fails ∧
    admin 0x0E 11 [0, 0, 0, 0, 0, 0, 0, 0, 1] (fun s => { s with boot := { s.boot with straps := ⟨0, 0, true, false⟩ } }) = true ∧
    (host id).prot.keyH = none ∧ (host id).boot.straps.provEn = false ∧
    (let sw : Swap := ⟨6, {}, 5, cells 8, .twin, false⟩
     (keyed (fun p => { p with swap := some sw }) base).prot.swap = some sw ∧ sw.path = .twin ∧ sw.written = false) ∧
    (∀ us ∈ [600000000, 599999999], let s : State := { keyed (fun p => { p with lockout := some 0 }) base with nowUs := us }
      s.prot.lockout = some 0 ∧ s.nowUs = us) := by decide +kernel

theorem test_hyp_StoredDataCommands :
    admin 0x01 4 [0xFFFFF000, 0] = true ∧ admin 0x0F 4 [0x1000, 0] = true ∧ admin 0x10 5 [0x1000, 0, 0x43414C57] = true ∧
    admin 0x06 6 [2, 0x1000, 0, 264] = true ∧ admin 0x13 6 [0x1000, 0, 4096, 2 ^ 17 + 2 ^ 19] = true ∧
    ({ base.boot with calPage := some [1] } : Boot).calPage = some [1] ∧ (host id).pass.isOpen = false ∧
    readsNow (atHead 0 (sq 0x10 [0x1000, 0, 0x43414C57]) (host id)) = true ∧ base.faults.log = [] ∧
    (∀ n ∈ [264, 4194304], (BitVec.ofNat 32 n).toNat % 4 = 0 ∧ 264 ≤ (BitVec.ofNat 32 n).toNat ∧ (BitVec.ofNat 32 n).toNat ≤ 4194304) ∧
    (let ws : List Word := [0, 0, 264] ++ cells 63
     ws.length = (264 : Word).toNat / 4 ∧ imgLen ws = (264 : Word).toNat ∧ imgValid none ws = false) ∧ base.boot.slot.toNat ≠ 1 ∧
    (List.replicate 64 (⟨cells 8, false⟩ : LogEnt)).length ≤ 64 ∧ calPageOk [0] = false := by decide +kernel
/-! ## The Planner, the Hearth, bring-up and the utility block (chapters 16 to 21) -/

/-- A pass of ring 1 on channel 0, its parameters as PASS_BEGIN gives them. -/
def passDws : List Word := [0x12341101, 863000, 863000, 0, 0, 0, 0, 100, 0, 0, 0x10001, 0x400, 450000000, 160000000]

def inPass (f : Pass → Pass) (s : State) : State :=
  { s with
    nowUs := 1000000, host := { s.host with ledger := some (0, 0, 4) }, twin := { s.twin with feOwn := true }
    fab := { s.fab with fes := [(0, port 0)] }
    pass := f { isOpen := true, ring := 1, dws := passDws, slots := 16 } }

/-- The command is ready at the head of ring 1. -/
def passReady (op : Nat) (ws : List Word) (f : State → State) : Bool :=
  let e := sq op ws
  let s := atHead 1 e (f (openedWindow (host id)))
  headReady s 1 e && e.opcode == op

theorem test_hyp_PassCommandsRun :
    passReady 0x40 passDws (inPass id) = true ∧ passReady 0x40 passDws id = true ∧ (inPass id base).pass.isOpen = true ∧ base.pass.isOpen = false ∧
    base.host.ledger = none ∧
    passReady 0x41 [7, 1, 2, 3, 65535, 86399999, 15] (inPass id) = true ∧ (sq 0x41 [7, 1, 2, 3, 65535, 86399999, 15]).reservedOk 9 = true ∧
    (65535 : Word).toNat < 65536 ∧ (86399999 : Word).toNat < 86400000 ∧ (15 : Word).toNat < (inPass id base).pass.slots ∧
    (inPass id base).pass.ring = 1 ∧
    passReady 0x42 [0xFF, 0x40] (inPass id) = true ∧ (sq 0x42 [0xFF, 0x40]).reservedOk 4 = true ∧ (inPass id base).pass.exchs = [] ∧
    (inPass id base).pass.held = [] ∧
    (inPass id base).pass.ending = false ∧ passReady 0x43 [3] (inPass id) = true ∧ (sq 0x43 [3]).reservedOk 3 = true ∧
    (inPass id base).host.ledger = some (0, 0, 4) ∧ (3 : Word).toNat < 4 ∧ recWhole (5 :: cells 14 ++ [5]) = true ∧
    readsNow (host id) = true := by decide +kernel

/-- PASS_END with a candidate and nothing under way, and with an exchange on air. -/
theorem test_hyp_PassCommandsRun_end :
    (let s := atHead 1 (sq 0x42 [0xFF, 0x40]) (inPass (fun p => { p with cands := [3] }) (openedWindow (host id)))
     s.pass.exchs = [] ∧ s.pass.held = [] ∧ (s.ring 1).started = [] ∧ s.twin.wah = [] ∧ (0x40 : Word).toNat % 64 = 0) ∧
    (let s := inPass (fun p => { p with exchs := [⟨[2], [], 1, 10, 0, 0, 0, 0, true, [], none, [], [], 0⟩], cands := [2, 3] }) (host id)
     s.pass.exchs ≠ [] ∧ (∀ x ∈ s.pass.exchs, x.onAir = true) ∧ idleCands s = [3]) := by decide +kernel

theorem test_hyp_PassCommandsRun_begin :
    let ws : List Word := passDws.set 10 (BitVec.ofNat 32 (4 * 2 ^ 8)) |>.set 11 0x400
    let e := sq 0x40 ws
    let s := atHead 1 e { openedWindow (host id) with host := { (openedWindow (host id)).host with ledger := some (0, 0, 4) } }
    passFieldsOk e = true ∧ windowOk s 1 (fld (e.dw 12) 7 0) (e.dw 13).toNat (64 * 2 ^ fld (e.dw 12) 12 8) true = true ∧ s.pass.isOpen = false := by
  decide +kernel

/-- An exchange of kind 1 with the stake 2, on air or not. -/
def exch (onAir : Bool) : Exch := ⟨[2], [5 :: cells 14 ++ [5]], 1, 10, 0, 0, 1000000, 5000000, onAir, [], none, [], [], 0⟩

theorem test_hyp_WakesAndReplies :
    (let s := inPass (fun p => { p with exchs := [exch false], reread := [1] }) (host id)
     s.pass.isOpen = true ∧ s.pass.exchs[0]? = some (exch false) ∧ (exch false).onAir = false ∧ s.pass.ending = false ∧ (exch false).kind ≤ 3 ∧
     s.twin.feOwn = true ∧ (s.chan 0).coex ≠ .contend ∧ coexStill s (exch false) = true ∧ s.pass.held = [] ∧ s.pass.rdgCount < s.pass.slots ∧
     1 ∈ s.pass.reread ∧ canSend s = true ∧ 2 < 2 ^ 18 ∧ 2 ∉ s.pass.torn ∧ 0 < nch s ∧
     s.nowUs ≤ 1000000 ∧ (exch false).startUs ≤ s.nowUs ∧ recWhole (5 :: cells 14 ++ [6]) = false ∧ readsNow s = true ∧ dutyCovers s 0 0 = true) ∧
    (inPass (fun p => { p with exchs := [{ exch false with startUs := 1000001 }] }) (host id)).nowUs < 1000001 ∧
    (let s := inPass (fun p => { p with exchs := [exch false], txLog := [(863000, 1000000, 400000000)] }) (host id)
     coexStill s (exch false) = true ∧ (s.chan 0).coex ≠ .contend ∧ s.twin.feOwn = true ∧ dutyCovers s 0 0 = false) ∧
    (let s := inPass (fun p => { p with chans := [(0, { coex := .contend })] }) (host id)
     s.chan 0 = { coex := .contend } ∧ coexStill s (exch false) = true ∧ coexStill s { exch false with kind := 2 } = false) ∧
    (let x := exch true
     x.onAir = true ∧ x.kind < 3 ∧ x.idxs = [2] ∧ x.recs = [5 :: cells 14 ++ [5]] ∧ (5 :: cells 14 ++ [5]).length = 16 ∧ x.ended = [] ∧
     x.replies = [] ∧ x.ackDue = none ∧ lastWindow x 0 = 1723750 ∧ ({ inPass id (host id) with nowUs := 1723750 } : State).twin.feOwn = true ∧
     ((inPass id base).fe 0).stalled = false) := by decide +kernel

theorem pos_of (s : State) (h : basePosition s = some (900, 1900, 1000000)) : positionAt s 1000000 = some (900, 1900) := by
  simp [positionAt, h]

def rec0 : List Word := [5, 0xABCD, 0x1234, 1000, 2000, 3, 0, 99, 0, 0xFFFF, 0x80808080, 0, 0, 0, 0, 5]
def rec1 : List Word := [6, 0xABCD, 0x1234, 1000, 2000, 3, 0, 99, 0, 0xFFFF, 0x80808080, 0, 0, 0, 0, 5]
def rec2 : List Word := [5, 0xABCD, 0x1234, 1000, 2000, 0x400, 0, 99, 0, 0x10005, 0x80808080, 0, 100, 0, 50, 5]

/-- A reader that stands at (900, 1900), its RTC valid. -/
def reader (f : Pass → Pass) : State :=
  let s := inPass (fun p => f { p with posHost := some (900, 1900, 1000000) }) (host id)
  { s with hearth := { s.hearth with rtcValid := true, rtc := 0x40000000000 } }

theorem test_hyp_WakesAndReplies_place :
    let s := reader id
    let v := recSeen false rec0
    positionAt s 1000000 = some (900, 1900) ∧ placeable s 2 = true ∧ (readerTime s).isSome = true ∧ rec0 ≠ [] ∧ recWhole rec0 = true ∧
    readsNow s = true ∧ canSend s = true ∧
    windowsClear s ⟨[2], [v], 1, wakePower s 2 v (dist2 (900, 1900) v), 0, 0, 1000000, 0, false, [], none, [], [], 0⟩ = true ∧
    inRange s (900, 1900) 2 v = true ∧ inRange s (900, 50000) 2 v = false ∧ skipCode s v = none ∧ targetedAt s v 1000000 = false ∧
    sessions s + 1 ≤ 1024 ∧
    s.pass.rdgCount + sessions s + 1 ≤ s.pass.slots ∧ clearOf s 0 1000000 (1000000 + 268750) = true ∧ (s.chan 0).coex = .alone ∧
    dutyCovers s 0 (268750 + 3 * 11520) = true ∧ recWhole rec1 = false ∧ skipCode s (recSeen false rec2) = some 5 :=
  ⟨pos_of _ (by decide +kernel), by decide +kernel⟩

/-- A reply of the stake of `exch2`, in its first window. -/
def reply : List Byte :=
  let b : List Byte := [0x14, 0, 0, 0xAB, 0xCD, 7, 0x14, 0, 0, 0, 9, 0, 1, 1, 0, 0, 0, 5, 5, 5, 5]
  b ++ beBytes 2 (crc16 b).toNat

def exch2 : Exch := { exch true with startUs := 741250, recs := [rec2] }

theorem test_hyp_WakesAndReplies_reply :
    let s := { reader fun p => { p with exchs := [exch2] } with nowUs := 1030000 }
    1015000 + frameUs reply ≤ s.nowUs ∧ s.nowUs < 1030001 + frameUs reply ∧ ackAt ⟨0, reply, 20, 1015000⟩ ≤ s.nowUs ∧
    s.nowUs < ackAt ⟨0, reply, 20, 1029000⟩ ∧ replyOk s reply = true ∧ placeOf exch2 (repId reply) = 0 ∧ inWindow exch2 0 1015000 = true ∧ (s.fe exch2.port).stalled = false ∧
    0 < exch2.recs.length ∧ s.pass.recorded = [] ∧ exch2.recs[0]? = some rec2 ∧ recBlank rec2 = false ∧
    recEnrSeason rec2 = season s ∧ listenMin s = 0 := by decide +kernel

theorem test_hyp_TimeAndChannels :
    let s := inPass id (host id)
    s.pass.isOpen = true ∧ 0 < nch s ∧ s.twin.feOwn = true ∧ (s.chan 0).coex = .alone ∧ s.chan 0 = {} ∧
    (∀ e ∈ [(Coex.alone, 1000000), (.contend, 1000000), (.sharing, 1100000)],
      beaconMay { inPass (fun p => { p with chans := [(0, { coex := e.1 })] }) (host id) with nowUs := e.2 } 0 (160 * (7 + 10)) = true) ∧
    beaconMay { s with nowUs := 1000001 } 0 (160 * (7 + 10)) = false ∧
    dutyCovers s 0 (160 * (7 + 10)) = true ∧ s.util.present = false ∧
    ({ s.util with present := true } : Util).present = true ∧ (host id).pass.isOpen = false ∧ s.hearth.rtcValid = false ∧
    (s.chan 3).ownNext = false ∧ (s.chan 3).peerNext = false ∧ (s.chan 3).ownAsked = false ∧
    (let c : Chan := { ownAsked := true, peerAsked := true, foreign := [(7, 1, true)] }
     c.ownNext = false ∧ c.peerNext = false ∧ c.ownAsked = true ∧ c.peerAsked = true ∧ c.foreign ≠ []) ∧
    (∀ c ∈ [Coex.contend, .sharing], (inPass (fun p => { p with chans := [(0, { coex := c })] }) (host id)).chan 0 = { coex := c }) ∧
    ppsLocked s = false ∧ ppsLocked (inPass (fun p => { p with gnssTime := some (⟨0, 0⟩, 0) }) (host id)) = true ∧ heardNow s 0 = [] ∧
    heardNow (inPass (fun p => { p with chans := [(0, { foreign := [(7, 1, true)] })] }) (host id)) 0 ≠ [] ∧ 7 ≠ ownRid s := by decide +kernel

/-- An edge of the 1 PPS is present, and D_1 has counted up to the ends of the two ranges since. -/
theorem test_hyp_TimeAndChannels_edges :
    ∀ n ∈ [89999999, 90000000, 100000000, 100000001, 119999999, 120000000], let s : State := { base with util := { base.util with
        present := true, d1Now := BitVec.ofNat 32 n } }
      s.boot.inReset = false ∧ s.util.present = true ∧ sinceEdge s = n := by decide +kernel

def hearth (f : Hearth → Hearth) : State := { base with hearth := f base.hearth }

theorem test_hyp_HearthWatchdogResets :
    (hearth fun h => { h with onVbat := true }).hearth.onVbat = true ∧ (hearth id).hearth.onVbat = false ∧ (1899 : Nat) < 1900 ∧ (2699 : Nat) < 2700 ∧
    (hearth fun h => { h with wakeEn := true, rtc := 9, wakeAt := 9 }).hearth.rtc = (hearth fun h => { h with wakeAt := 9 }).hearth.wakeAt ∧
    (hearth id).hearth.wakeEn = false ∧ (inPass id base).pass.isOpen = true ∧ base.pass.isOpen = false ∧ (hearth id).hearth.wdtEn = false ∧
    (hearth fun h => { h with wdtEn := true }).hearth.wdtEn = true ∧ (0 : Word) ≠ 0x5E7A ∧ base.boot.inReset = false ∧
    State.reset.boot.inReset = true ∧
    (∀ d, d < 25 → (0x20000F : Word).getLsbD d = true → d < 4 ∨ d = 21) ∧
    (∀ n ∈ [499999, 500000, 999999, 1000000], let h := (hearth fun h => { h with wdtEn := true, wdtUs := n }).hearth
      h.wdtEn = true ∧ h.wdtHalf = false ∧ h.wdtUs = n ∧ 1000 * h.wdtMs.toNat = 1000000) := by decide +kernel

theorem test_hyp_HearthWatchdogResets_no_jobs : ∀ c, (base.ctx c).job = none := fun _ => rfl

def boot (f : Boot → Boot) : State := { lit base with boot := f { base.boot with ready := false, phase := 1 }, nowUs := 1000 }

def bringUp (ok : Bool) (vbat : Nat) : BringUpIn := ⟨vbat, ok, ok, [], ok, ok, ok, [], []⟩

theorem test_hyp_BringUpAndService :
    (let s := boot id
     s.boot.inReset = false ∧ s.boot.straps.testMode = false ∧ s.boot.bootFail = false ∧ s.boot.phase = 1 ∧ (bringUp true 4095).vbatMv < 4096 ∧
     s.hearth.onVbat = false ∧ s.hearth.lossLatch = true) ∧
    (let s := { boot id with hearth := { base.hearth with lossLatch := false } }
     s.hearth.lossLatch = false ∧ jnlValid s false = false ∧ jnlValid s true = false) ∧
    (∀ n ∈ [2, 3, 4, 5, 6, 7], (boot fun b => { b with phase := BitVec.ofNat 4 n }).boot.phase = BitVec.ofNat 4 n) ∧
    (boot fun b => { b with calBad := true }).boot.calBad = true ∧ (bringUp false 0).pllOk = false ∧ (bringUp false 0).calOk = false ∧
    (lit base).clk.calDefaults = false ∧ base.faults.frozen = false ∧ base.prot.store0 = none ∧ base.prot.store1 = none ∧
    (boot id).boot.flashed = [] ∧ (boot id).prot.keyI = none ∧ imgValid none (bringUp true 0).slotA = false ∧
    (boot fun b => { b with straps := ⟨3, 0, false, false⟩ }).boot.straps.bootSrc = 3 := by decide +kernel

theorem test_hyp_BringUpAndService_phase4 :
    let s : State := { boot fun b => { b with phase := 4 } with
      clk := { base.clk with doms := (List.range 25).map fun d => (d, { state := .run, refLock := true }) } }
    ∀ d, 2 ≤ d → d ≤ 20 → (s.dom d).state = .run ∧ (s.dom d).refLock = true := by
  intro s d h1 h2
  have h : ∀ d, d < 21 → (s.dom d).state = .run ∧ (s.dom d).refLock = true := by decide +kernel
  exact h d (by omega)

theorem test_hyp_BringUpAndService_maps :
    let s : State := { boot fun b => { b with phase := 5 } with prot := { base.prot with store0 := some (5, {}), store1 := some (6, {}) } }
    s.prot.store0 = some (5, {}) ∧ s.prot.store1 = some (6, {}) ∧ (5 : BitVec 64).toNat < (6 : BitVec 64).toNat := by decide +kernel

/-- Both slots are valid where each holds 1,024 words of which the first is MAGIC and FORMAT and the last the CRC of the others. -/
theorem test_two_valid_slots (s : State) (A B : List Word) (ha : A.length = 1024 ∧ nthW A 0 = wd (0x4A4E + 2 ^ 16) ∧ nthW A 1023 = crc32 (A.take 1023))
    (hb : B.length = 1024 ∧ nthW B 0 = wd (0x4A4E + 2 ^ 16) ∧ nthW B 1023 = crc32 (B.take 1023))
    (h : s.hearth.journal = writeWords (writeWords [] 0 A) 4096 B) : jnlValid s false = true ∧ jnlValid s true = true := by
  constructor <;> rw [jnlValid, jnlWord, jnlWord, h, Bool.and_eq_true, decide_eq_true_eq, decide_eq_true_eq]
  · rw [show 4096 * b2n false = 0 from rfl, readWord_writeWords_of_outside _ _ _ _ (by omega), readWord_writeWords _ 0 _ _ (by omega),
      readWord_writeWords_of_outside _ _ _ _ (by omega), readWord_writeWords _ 1023 _ _ (by omega),
      readWords_writeWords_of_outside _ _ _ _ _ (by omega), readWords_writeWords _ _ _ _ (by omega)]
    exact ha.2
  · rw [show 4096 * b2n true = 4096 from rfl, readWord_writeWords _ 0 _ _ (by omega), readWord_writeWords _ 1023 _ _ (by omega),
      readWords_writeWords _ _ _ _ (by omega)]
    exact hb.2

/-- What the firmware seals holds MAGIC and FORMAT first and the CRC last. -/
theorem test_sealed_entry (q : Word) : (jnlEmpty q 0).length = 1024 ∧ nthW (jnlEmpty q 0) 0 = wd (0x4A4E + 2 ^ 16) ∧
    nthW (jnlEmpty q 0) 1023 = crc32 ((jnlEmpty q 0).take 1023) := by
  unfold jnlEmpty jnlSeal
  generalize hb : [wd (0x4A4E + 2 ^ 16), q, 0, 0, wd 0] = l
  have hl : l.length = 5 := by rw [← hb]; rfl
  generalize hr : List.replicate (1023 - l.length) (0 : Word) = r
  have hr' : r.length = 1018 := by rw [← hr, List.length_replicate, hl]
  refine ⟨by simp [hl, hr'], ?_, ?_⟩
  · subst hb; rfl
  · have e : (l ++ r).length = 1023 := by simp [hl, hr']
    dsimp only
    rw [List.take_left' e]
    rw [nthW, List.getD_eq_getElem?_getD, List.getElem?_append_right (by omega), e]; rfl

/-- Two journal slots that hold entries as the firmware seals them. -/
theorem test_hyp_BringUpAndService_journal :
    let s : State := { boot id with hearth := { base.hearth with
      lossLatch := false, journal := writeWords (writeWords [] 0 (jnlEmpty 0 0)) 4096 (jnlEmpty 1 0) } }
    jnlValid s false = true ∧ jnlValid s true = true := by
  intro s
  have a := test_sealed_entry 0
  have b := test_sealed_entry 1
  have e : s.hearth.journal = writeWords (writeWords [] 0 (jnlEmpty 0 0)) 4096 (jnlEmpty 1 0) := by simp only [s]
  revert a b e
  generalize jnlEmpty 0 0 = A
  generalize jnlEmpty 1 0 = B
  intro a b e
  exact test_two_valid_slots s A B a b e

theorem test_hyp_BringUpAndService_port :
    (let s := boot fun b => { b with bootFail := true, slot := 2, phase := 6 }
     s.host.fatal = false ∧ s.boot.bootFail = true ∧ 0x3FFFFF < 0x400000 ∧ 0x3FFFFF + [(1 : Byte)].length ≤ 0x400000 ∧
     (List.replicate 1016 (0 : Byte)).length ≤ 1016 ∧ s.boot.slot = 2 ∧ (1 : Byte).toNat < 2 ∧
     imgValid s.prot.keyI (readWords s.fab.sram 0x10000000 66) = false) ∧
    (let s : State := { boot id with fab := { base.fab with sram := writeWord [] 0x10000008 264 } }
     imgLen (readWords s.fab.sram 0x10000000 66) = 264) ∧
    (let q : Proposal := ⟨5, cells 8, {}, false, false, 0⟩
     let s := keyed (fun p => { p with pend := some q }) base
     s.boot.ready = true ∧ s.prot.pend = some q ∧ q.digest.length = 8 ∧ s.nowUs < q.atUs + 60000000 ∧ s.twin.st = .alone ∧ q.f = false ∧
     s.prot.wait = none ∧ s.prot.lockout = none ∧ s.prot.fails < 2 ∧ (hmacSha256 key (q.digest ++ [5, 0, 0x48, 0])).length = 8 ∧
     cells 8 ≠ hmacSha256 key (q.digest ++ [5, 0, 0x48, 0])) ∧
    base.prot.pend = none ∧ base.prot.keyH = none ∧ nthW ([5, 0, 0x48] ++ cells 8) 2 = 0x48 ∧
    ([5, 0, 0x48] ++ cells 8).length = 11 := by decide +kernel

/-- A segment without a body. -/
def segment (kind : Nat) : List Word := [0x5E7A5E60, BitVec.ofNat 32 kind] ++ List.replicate 30 0

/-- An image of a header, a directory and three segments without a body. -/
def image : List Word :=
  [0x5E7A0160, 0x00030001, 664] ++ List.replicate 61 0 ++ [280, 128, 408, 128, 536, 128] ++ segment 1 ++ segment 2 ++ segment 3

/-- Where the verifier accepts the signatures of an image, an image can be valid. -/
theorem test_hyp_valid_image (h : ∀ k m g, Config.ed25519 k m g = true) : imgValid none image = true := by
  have e : imgValid none image = (decide (nthW image 0 = 0x5E7A0160) && decide (fld (nthW image 1) 15 0 = 1) && imgDirOk image &&
      [1, 2, 3].all fun k =>
        let l := (imgSegments image).filter fun g => g.magicOk && g.kind == k
        decide (l.length = 1) && l.all fun g => g.wellFormed (imgSession image)) := by
    simp [imgValid, imgSigned, Segment.signed, h]
  rw [e]; decide +kernel

/-- The words of a calibration page that the CRC covers, for this unit's serial; with the CRC the page is good. -/
theorem test_hyp_good_calibration_page :
    let a : List Word := [0x43414C50, 0x10000001, serialLo, serialHi, 0, 0, 0]
    let ws := a ++ crc32 (a ++ List.replicate 1016 0) :: List.replicate 1016 0
    ws.length = 1024 ∧ calPageOk ws = true := by
  generalize hr : List.replicate 1016 (0 : Word) = r
  have hl : r.length = 1016 := by rw [← hr, List.length_replicate]
  intro a ws
  have h : ws.take 7 ++ (ws.drop 8).take 1016 = a ++ r := by
    have e : ws.drop 8 = r := rfl
    rw [e, List.take_of_length_le (l := r) (by omega)]; rfl
  refine ⟨by simp [ws, a, hl], ?_⟩
  unfold calPageOk
  rw [h]
  simp [ws, a, nthW, wd]

theorem test_hyp_UtilityInterfacesAct :
    (∀ n ∈ [0, 1], ∀ k ∈ [0, 1, 63, 64], let s : State := { base with util := { base.util with
        gnss := { rx := List.replicate k 1, tx := List.replicate k 1 }, svc := { rx := List.replicate k 1, tx := List.replicate k 1 } } }
      s.boot.inReset = false ∧ n < 2 ∧ (s.uart n).rx.length = k ∧ (s.uart n).tx.length = k) ∧
    (let c : Can := { base.util.can with en := true }
     c.busy = false ∧ c.en = true ∧ c.listen = false ∧ c.loop = false ∧ c.busOff = false ∧ c.rxErr ≤ 127 ∧ c.rx.length < 8 ∧ c.txErr + 255 < 256 ∧
     256 ≤ c.txErr + 256 ∧ c.txErr < 256 ∧ (⟨0, 0, []⟩ : CanFrame).hdr.getLsbD 30 = false ∧ (List.replicate 8 (⟨0, 0, []⟩ : CanFrame)).length = 8) ∧
    (∀ i ∈ [0, 15], let k : Util := { base.util with rise := 0xFFFF }
      i < 16 ∧ k.gpioDir.getLsbD i = false ∧ k.gpioPins.getLsbD i ≠ true ∧ k.rise.getLsbD i = true ∧ k.fall.getLsbD i = false) ∧
    ({ base.fe 0 with spiBusy := true } : Fe).spiBusy = true ∧ (base.fe 0).spiBusy = false ∧ base.boot.straps.testMode = false ∧
    (let s : State := { base with boot := { base.boot with straps := ⟨0, 0, false, true⟩ } }
     s.boot.straps.testMode = true ∧ s.boot.inReset = false ∧ ({ s.util.tap with st := .captureDr, instr := .idcode } : Tap).instr = .idcode ∧
     ∀ b ∈ [true, true], b = true) := by decide +kernel

theorem test_hyp_LinkRegistersBreadcrumbs :
    State.reset.boot.inReset = true ∧ base.boot.straps.testMode = false ∧ base.boot.inReset = false ∧ base.host.unsol = [] ∧ base.host.pba = 0 ∧
    (let h : HostP := { base.host with pba := 1#64 <<< 63, msix := [(63, { mask := false })] }
     let s : State := { lit base with host := h }
     h.pba = 1#64 <<< 63 ∧ (tget {} h.msix 63).mask = false ∧ h.msixMask = false ∧ canSend s = true) ∧
    (0x1C % 4 = 0 ∧ 0x1C < 0x20 ∧ 0x28 ≤ 0x28 ∧ 0xFC < 0x100) ∧ (boot id).boot.ready = false ∧ base.boot.ready = true ∧ base.host.fatal = false ∧
    base.host.adminEn = false ∧ ({ base.host with adminEn := true } : HostP).adminEn = true ∧ ring0Stops base = false ∧ base.fab.hbWait = [] ∧
    (let s := running {}
     portTrap s 1 0x8000 true = some (0x02, 0x8000) ∧ ready s 1 = true ∧ portTrap s 1 4 true = none ∧ portTrap s 1 0x204 true = none ∧
     storesVisible s 1 = true ∧ storesVisible (running {} { sbuf := [⟨1, .mem 0x10000000 4 5⟩] }) 1 = false) ∧
    ready (lit base) 1 = false ∧ portTrap (lit base) 65 0x8C00 true = none ∧
    (let s : State := { base with cores := [(15, { trail := [⟨1, 2, false⟩], bcIndex := 1 })] }
     (s.core (63 / 4)).trail[(s.core 15).bcIndex.toNat / 2]? = some ⟨1, 2, false⟩) ∧ (1 : Word).getLsbD 0 = true ∧ (2 : Word).getLsbD 0 = false := by
  decide +kernel

theorem test_hyp_StepRunsFrontCommand : ({ base with pending := [.millTurn] } : State).pending = .millTurn :: [] ∧ base.pending = [] := by decide +kernel

theorem test_hyp_StepKeepsInvariant : StateInv State.reset :=
  ⟨rfl, rfl, fun _ => ⟨rfl, rfl⟩, Nat.zero_le _, fun _ => Nat.zero_le _, Nat.zero_le _, Nat.zero_le _, Nat.zero_le _, Nat.zero_le _, Nat.zero_le _⟩

end Sys2Proof.Tests
end

section
/-! The words of the arithmetic instructions (R102 to R108) as the integers and bits that Tables 4.4 to 4.6 name. -/

namespace Sys2Proof.Machine

open Sys2Proof

/-! ## Shifts, compares and extensions -/

theorem shlWord_eq (a b : Word) : shlWord a b = if 32 ≤ b.toNat then 0 else a <<< b.toNat := by
  simp only [shlWord, ← Nat.not_lt, ite_not]

theorem shrWord_eq (a b : Word) : shrWord a b = if 32 ≤ b.toNat then 0 else a >>> b.toNat := by
  simp only [shrWord, ← Nat.not_lt, ite_not]

theorem sarWord_eq (a b : Word) :
    sarWord a b = if 32 ≤ b.toNat then (if a.toInt < 0 then 0xFFFFFFFF#32 else 0) else a.sshiftRight b.toNat := by
  simp only [sarWord, ← Nat.not_lt, ite_not, BitVec.msb_eq_toInt, decide_eq_true_eq]
  rfl

theorem neWord_eq (a b : Word) : neWord a b = if a = b then 0 else 0xFFFFFFFF#32 := by
  by_cases h : a = b <;> simp [neWord, flagWord, h]

theorem minWord_eq (a b : Word) : minWord a b = if b.toInt < a.toInt then b else a := by
  simp only [minWord, ← Int.not_lt, ite_not]

theorem maxWord_eq (a b : Word) : maxWord a b = if b.toInt < a.toInt then a else b := by
  simp only [maxWord, ← Int.not_lt, ite_not]

theorem flagWord_decide (p : Prop) [Decidable p] : flagWord (decide p) = if p then 0xFFFFFFFF#32 else 0 := by
  simp [flagWord]

theorem zexb_toNat (a : Word) : (zexb a).toNat = a.toNat % 2 ^ 8 := by
  simp [zexb]; omega

theorem zexh_toNat (a : Word) : (zexh a).toNat = a.toNat % 2 ^ 16 := by
  simp [zexh]; omega

/-! ## Bit counts -/

/-- Counted down from a bit above which nothing is set, the leading zeros end at the highest one bit. -/
theorem clzFrom_eq (a : Word) (n : Nat) (h : a.toNat < 2 ^ n) : clzFrom a n = if a.toNat = 0 then n else n - 1 - Nat.log2 a.toNat := by
  induction n with
  | zero => simp [clzFrom]
  | succ n ih =>
    by_cases hn : a.toNat < 2 ^ n
    · have hb : bit a n = false := Nat.testBit_lt_two_pow hn
      have hl : a.toNat ≠ 0 → Nat.log2 a.toNat < n := fun h0 => (Nat.log2_lt h0).2 hn
      simp only [clzFrom, hb, ih hn, Bool.false_eq_true, if_false]
      split_ifs with h0
      · omega
      · have := hl h0; omega
    · have h0 : a.toNat ≠ 0 := by have := Nat.two_pow_pos n; omega
      have hl : Nat.log2 a.toNat = n := (Nat.log2_eq_iff h0).2 ⟨by omega, h⟩
      have hb : bit a n = true := by
        have := Nat.testBit_log2 h0
        rwa [hl] at this
      simp [clzFrom, hb, h0, hl]

theorem clzWord_toNat (a : Word) : (clzWord a).toNat = if a = 0 then 32 else 31 - Nat.log2 a.toNat := by
  have h0 : a.toNat = 0 ↔ a = 0 := BitVec.toNat_inj (y := 0)
  have h := clzFrom_eq a 32 a.isLt
  simp only [h0] at h
  simp only [clzWord, wd, BitVec.toNat_ofNat, h]
  split_ifs <;> omega

theorem popFrom_eq (a : Word) (n : Nat) : popFrom a n = ((List.range n).filter fun i => a.getLsbD i).length := by
  induction n with
  | zero => rfl
  | succ n ih => cases h : a.getLsbD n <;> simp [popFrom, ih, List.range_succ, bit, b2n, h, Nat.add_comm]

theorem popcWord_toNat (a : Word) : (popcWord a).toNat = ((List.range 32).filter fun i => a.getLsbD i).length := by
  have h : ((List.range 32).filter fun i => a.getLsbD i).length ≤ 32 := by
    simpa using List.length_filter_le (fun i => a.getLsbD i) (List.range 32)
  simp only [popcWord, wd, popFrom_eq, BitVec.toNat_ofNat]
  omega

/-! ## Products and quotients -/

theorem ofInt_mulInt (a b : Word) : BitVec.ofInt 32 (mulInt a b) = a * b := by
  rw [mulInt, BitVec.ofInt_mul, BitVec.ofInt_toInt, BitVec.ofInt_toInt]

/-- MOD's a − (a DIV b) × b is the remainder of the truncated division (R105). -/
theorem modWord_eq (a b : Word) : modWord a b = BitVec.ofInt 32 (a.toInt.tmod b.toInt) := by
  rw [modWord, divWord, Int.tmod_def, Int.sub_eq_add_neg, Int.neg_mul_eq_mul_neg, BitVec.ofInt_add, BitVec.ofInt_mul, BitVec.ofInt_neg,
    BitVec.ofInt_toInt, BitVec.ofInt_toInt, BitVec.mul_neg, BitVec.sub_eq_add_neg, BitVec.mul_comm]

end Sys2Proof.Machine
end

section
/-! The instructions of two operands or one that leave C and V alone (R102, R103, R108). -/

namespace Sys2Proof.Machine

open Sys2Proof

/-- Without a second instruction no pair is formed (R74). -/
@[simp] theorem withSecond_none (c : Nat) (first : Nat → State → State) (pairs : Second → Bool) (s : State) :
    withSecond c first pairs none s = first 1 s := rfl

@[simp] theorem unlessExit_none (f : BitVec 4) : unlessExit f none = none := ite_self _

theorem withSecond_unlessExit_none (c : Nat) (f : BitVec 4) (first : Nat → State → State) (pairs : Second → Bool) (s : State) :
    withSecond c first pairs (unlessExit f none) s = first 1 s := by
  rw [unlessExit_none, withSecond_none]

/-! The instructions that may stand first in a pair, without a second. -/

section
variable (s : State) (c : Nat) (f : BitVec 4)

@[simp] theorem exec_dup_none : exec (.dup c f none) s = .next (dupAlone 1 c f s) := congrArg Host.Outcome.next (withSecond_unlessExit_none ..)
@[simp] theorem exec_over_none : exec (.over c f none) s = .next (overAlone 1 c f s) := congrArg Host.Outcome.next (withSecond_unlessExit_none ..)
@[simp] theorem exec_eq_none : exec (.eq c f none) s = .next (eqAlone 1 c f s) := congrArg Host.Outcome.next (withSecond_unlessExit_none ..)
@[simp] theorem exec_lt_none : exec (.lt c f none) s = .next (ltAlone 1 c f s) := congrArg Host.Outcome.next (withSecond_unlessExit_none ..)
@[simp] theorem exec_ltu_none : exec (.ltu c f none) s = .next (ltuAlone 1 c f s) := congrArg Host.Outcome.next (withSecond_unlessExit_none ..)
@[simp] theorem exec_zeq_none : exec (.zeq c f none) s = .next (zeqAlone 1 c f s) := congrArg Host.Outcome.next (withSecond_unlessExit_none ..)

end

section
variable {s : State} {c op : Nat} {f : BitVec 4} {a b r : Word} {t : List Word} {i : Instr}

/-- A command that is an instruction ( a b -- r ) retires with r on top. -/
theorem answersOp_binary (g : Word → Word → Word) (hi : exec i s = .next (binaryOp op g 1 c f s)) (hr : g a b = r) (h : CanIssue s c)
    (hf : FormOk (s.ctx c) f (s.ctx c).rs) (hd : (s.ctx c).ds = b :: a :: t) :
    AnswersOp op c i s fun u => RetiredForm s u c f 1 { s.ctx c with ds := r :: t } := fun hop =>
  ⟨_, hi, stackInstr_retires s op .keeps c f 1 _ _ h hop
    (by rw [stackOp_onChip 2 0 0 0 _ _ (by simp [viewOf, hd]) (Nat.zero_le _) (.inl rfl) (.inl rfl)]; simp [viewOf, hd, hr])
    hf rfl h.trap fun _ => rfl⟩

/-- A command that is an instruction ( a -- r ) retires with r on top. -/
theorem answersOp_unary (g : Word → Word) (hi : exec i s = .next (unaryOp op g 1 c f s)) (h : CanIssue s c)
    (hf : FormOk (s.ctx c) f (s.ctx c).rs) (hd : (s.ctx c).ds = a :: t) :
    AnswersOp op c i s fun u => RetiredForm s u c f 1 { s.ctx c with ds := g a :: t } := fun hop =>
  ⟨_, hi, stackInstr_retires s op .keeps c f 1 _ _ h hop
    (by rw [stackOp_onChip 1 0 0 0 _ _ (by simp [viewOf, hd]) (Nat.zero_le _) (.inl rfl) (.inl rfl)]; simp [viewOf, hd])
    hf rfl h.trap fun _ => rfl⟩

end

/-- Settles O3: each instruction is `binaryOp` or `unaryOp` on the word of its own. -/
theorem arithmeticResults : Obligations.ArithmeticResults := by
  intro s c f h hf a b t
  refine ⟨fun hd _ => ?_, fun hd _ => ?_⟩
  · intro two
    have answers {op : Nat} {i : Instr} {r : Word} (g : Word → Word → Word) (hi : exec i s = .next (binaryOp op g 1 c f s)) (hr : g a b = r) :
        two op i r := answersOp_binary g hi hr h hf hd
    exact ⟨answers (fun a b => a &&& b) rfl rfl, answers (fun a b => a ||| b) rfl rfl, answers (fun a b => a ^^^ b) rfl rfl,
      answers shlWord rfl (shlWord_eq a b), answers shrWord rfl (shrWord_eq a b), answers sarWord rfl (sarWord_eq a b),
      answers rolWord rfl rfl, answers rorWord rfl rfl, answers eqWord (exec_eq_none s c f) (flagWord_decide _), answers neWord rfl (neWord_eq a b),
      answers ltWord (exec_lt_none s c f) (flagWord_decide _), answers ltuWord (exec_ltu_none s c f) (flagWord_decide _),
      answers minWord rfl (minWord_eq a b), answers maxWord rfl (maxWord_eq a b)⟩
  · intro one
    have answers {op : Nat} {i : Instr} {P : Word → Prop} (g : Word → Word) (hi : exec i s = .next (unaryOp op g 1 c f s)) (hP : P (g a)) :
        one op i P := ⟨g a, hP, answersOp_unary g hi h hf hd⟩
    exact ⟨answers (fun a => ~~~a) rfl rfl, answers zeqWord (exec_zeq_none s c f) (flagWord_decide _),
      answers sexb rfl (BitVec.toInt_signExtend_of_le (by decide)), answers sexh rfl (BitVec.toInt_signExtend_of_le (by decide)),
      answers zexb rfl (zexb_toNat a), answers zexh rfl (zexh_toNat a), answers clzWord rfl (clzWord_toNat a),
      answers popcWord rfl (popcWord_toNat a)⟩

end Sys2Proof.Machine
end

section
/-! A basic op's return by EXIT, and the legality that a form which can retire has (R90, R93). -/

namespace Sys2Proof.Machine

open Sys2Proof

theorem legalOp_of_formOk {s : State} {c op : Nat} {f : BitVec 4} {x : Ctx} {rs : List Word} (hf : FormOk x f rs) (hop : opLoaded s c op = true) :
    legalOp s c op f = true := by
  rcases hf with rfl | ⟨rfl, -, -⟩ <;> simp [legalOp, hop]

theorem popReturn_onChip {v : View} {w : Word} {r : List Word} (hw : v.1.rs = w :: r) (hb : badTarget w = false) :
    popReturn v = .ok (({ v.1 with rs := r }, v.2), BitVec.ofNat 24 w.toNat) := by
  unfold popReturn
  rw [need_onChip true 1 v (by simp [stkOf, hw])]
  simp [hw, hb]

/-- An EXIT that can return adds no trap to the operation's own. -/
theorem orReturn_of_formOk {s : State} {c : Nat} {f : BitVec 4} (hf : FormOk (s.ctx c) f (s.ctx c).rs) (e : TrapCA) :
    orReturn (exitBit f) .keeps (viewOf s c) e = e := by
  rcases hf with rfl | ⟨rfl, ⟨w, r, hw, hb⟩, -⟩
  · rfl
  · simp [orReturn, returnTrap, popReturn_onChip (v := viewOf s c) hw hb, firstTrap]

theorem RetiredForm.trap_eq {s t : State} {c slots : Nat} {f : BitVec 4} {x : Ctx} (h : RetiredForm s t c f slots x) :
    (t.ctx c).trap = x.trap := by
  unfold RetiredForm RetiredWith at h
  split_ifs at h <;> rw [h.1] <;> rfl

/-- Work that leaves y on the stacks commits in its form: the next instruction, or the return and its trail entry (R93, R480). -/
theorem withExit_commit_retires {s : State} {c : Nat} {f : BitVec 4} (slots more : Nat) {y : Ctx} (hf : FormOk (s.ctx c) f y.rs)
    (hc : y.cycles = (s.ctx c).cycles) (hs : y.snaps = (s.ctx c).snaps) :
    ∃ r, withExit (exitBit f) .keeps (fun w => .ok w) ((s.ctx c).pc + 2) (y, (s.core (coreOf c)).dlocal, more) = .ok r ∧
      RetiredForm s (if exitBit f then trailFlow c (s.ctx c).pc 4 r.2 (commit c slots r.1 r.2 s) else commit c slots r.1 r.2 s) c f slots y := by
  have ctx (v : View) (pc : BitVec 24) := (commit_ctx c slots v pc s c).trans (if_pos rfl)
  rcases hf with rfl | ⟨rfl, ⟨w, r, hw, hb⟩, hsn⟩
  · refine ⟨_, rfl, ?_⟩
    rw [exitBit_zero, if_neg Bool.false_ne_true, RetiredForm, RetiredWith, if_pos rfl]
    exact ⟨by rw [ctx, hc, retiredCtx], commit_frame c slots _ _ s⟩
  · refine ⟨_, popReturn_onChip (v := (y, (s.core (coreOf c)).dlocal, more)) hw hb, ?_⟩
    rw [exitBit_one, if_pos rfl, RetiredForm, RetiredWith, if_neg (by decide), hw]
    obtain ⟨tc, tf⟩ := retireFrame_trailed s _ c (s.ctx c).pc (BitVec.ofNat 24 w.toNat) 4 (by rw [ctx]; exact hs.trans hsn)
      (commit_frame c slots ({ y with rs := r }, (s.core (coreOf c)).dlocal, more) (BitVec.ofNat 24 w.toNat) s)
    exact ⟨by rw [tc, ctx, hc, retiredCtx]; rfl, tf⟩

/-- An instruction that may be left between two microwords issues when none is (R54). -/
theorem issueOrResume_of_canIssue {spec : Bool} {s : State} {c : Nat} (go : State → State) (more : Mid → State → State) (h : CanIssue s c)
    (hs : spec = true ∨ NotSpeculative s c) : issueOrResume spec c go more s = fetchTrap c (go s) := by
  simp only [issueOrResume, h.mid, issue_of_canIssue spec c go s h hs]

end Sys2Proof.Machine
end

section
/-! Multiplies and divides (R63 to R65, R105 to R107). -/

namespace Sys2Proof.Machine

open Sys2Proof

/-! ## Multiplies -/

/-- In deterministic mode the product stands in its cell at once (R65). -/
theorem lateTop_det (val b : Word) (vf : Option Bool) (x : Ctx) (t : List Word) :
    lateTop true val vf { x with ds := b :: t } = { x with ds := val :: t, vf := vf.getD x.vf } := by
  have hi : ∀ p : Nat, p + (t.length + 1) - 1 - (t.length + 1 + p - 1) = 0 ∧ p ≤ t.length + 1 + p - 1 ∧
      t.length + 1 + p - 1 < p + (t.length + 1) := fun p => by omega
  simp only [lateTop, if_true, applyLand, landInto, dataDepth, spilledCells, List.length_cons, hi, and_self, List.set_cons_zero, Option.getD_none]

/-- Otherwise the cell keeps b, and the product is due in that place (R63, R64). -/
theorem lateTop_late (val b : Word) (vf : Option Bool) (x : Ctx) (t : List Word) :
    lateTop false val vf { x with ds := b :: t } =
      { x with
        ds := b :: t, nextLand := x.nextLand + 1
        lands := x.lands ++ [{ id := x.nextLand, pos := t.length + (x.dspPtr.toNat - x.dspBase.toNat) / 4, val := val, vf := vf }] } := by
  simp [lateTop, dataDepth, spilledCells]

/-! What a multiply leaves of its context beside the cell, its flag and the results due. -/

section
variable (det : Bool) (val : Word) (vf : Option Bool) (x : Ctx)

@[simp] theorem lateTop_rs : (lateTop det val vf x).rs = x.rs := by cases det <;> rfl
@[simp] theorem lateTop_cycles : (lateTop det val vf x).cycles = x.cycles := by cases det <;> rfl
@[simp] theorem lateTop_trap : (lateTop det val vf x).trap = x.trap := by cases det <;> rfl
@[simp] theorem lateTop_snaps : (lateTop det val vf x).snaps = x.snaps := by cases det <;> rfl

end

section
variable {s : State} {c op : Nat} {f : BitVec 4} {a b : Word} {t : List Word} {i : Instr}
  {g : Word → Word → Word} {v : Word → Word → Option Bool}

/-- A command that is a multiply retires, with its product in place in deterministic mode and due otherwise (R65). -/
theorem answersOp_multiply (hi : exec i s = multiplyOp op g v c f s) {r : Word} {vf : Option Bool} (hr : g a b = r) (hv : v a b = vf)
    (h : CanIssue s c) (hf : FormOk (s.ctx c) f (s.ctx c).rs) (hd : (s.ctx c).ds = b :: a :: t) :
    AnswersOp op c i s fun u => RetiredForm s u c f 1 (lateTop (s.core (coreOf c)).det r vf { s.ctx c with ds := b :: t }) := fun hop => by
  refine ⟨_, hi, stackInstr_retires s op .keeps c f 1 _ _ h hop ?_ (by simpa using hf) (by simp) (by simp [h.trap]) (by simp)⟩
  rw [stackOp_onChip 2 0 0 0 _ _ (by simp [viewOf, hd]) (Nat.zero_le _) (.inl rfl) (.inl rfl)]
  simp [viewOf, hd, hr, hv]

/-! ## Divides -/

/-- The last microword of a divide writes the result over both operands (R105, R107). -/
theorem divideFrom_retires (k : Nat) (hf : FormOk (s.ctx c) f (s.ctx c).rs) :
    RetiredForm s (divideFrom op g v c f 0 k a b (viewOf s c) s) c f (9 - k)
      { s.ctx c with mid := none, ds := g a b :: (s.ctx c).ds.drop 2, vf := (v a b).getD (s.ctx c).vf } := by
  obtain ⟨r, hr, ret⟩ := withExit_commit_retires (9 - k) (0 + (divideCycles k 9 - (9 - k)))
    (y := { s.ctx c with mid := none, ds := g a b :: (s.ctx c).ds.drop 2, vf := (v a b).getD (s.ctx c).vf }) hf rfl rfl
  simp only [divideFrom, divideEnd, true_or, if_true, lt_irrefl, if_false, viewOf, hr]
  exact ret

/-- A divide left between two of its microwords has written nothing (R54, R107). -/
theorem divideFrom_stops {n : Nat} (h1 : 1 ≤ n) (h8 : n ≤ 8) :
    (divideFrom op g v c f n 0 a b (viewOf s c) s).ctx c =
      { retiredCtx s c n (s.ctx c).pc (s.ctx c) with mid := some (.divide op f n a b) } ∧
    RetireFrame [] s (divideFrom op g v c f n 0 a b (viewOf s c) s) c (s.core (coreOf c)) none := by
  have he : divideEnd 0 n = n := by unfold divideEnd; split_ifs <;> omega
  simp only [divideFrom, he, if_pos (show n < 9 by omega), Nat.sub_zero]
  exact ⟨(commit_ctx c n _ _ s c).trans (if_pos rfl), commit_frame c n _ _ s⟩

/-- A divide issues with the operands that stand on top; by zero it traps with both in place (R105). -/
theorem divideOp_of_canIssue (stop : Nat) (h : CanIssue s c) (hop : opLoaded s c op = true) (hf : FormOk (s.ctx c) f (s.ctx c).rs)
    (hd : (s.ctx c).ds = b :: a :: t) : divideOp op g v c f stop s =
      .next (fetchTrap c (if b = 0 then raiseTrap c 0x05 0 s else divideFrom op g v c f stop 0 a b (viewOf s c) s)) := by
  have hx : (viewOf s c).1.ds = b :: a :: t := hd
  have hn : need false 2 (viewOf s c) = .ok (viewOf s c) := need_onChip false 2 _ (by simp [stkOf, hx])
  rw [divideOp, issueOrResume_of_canIssue _ _ h (.inl rfl)]
  simp only [legalOp_of_formOk hf hop, withExit, hn, hx, List.headD_cons, List.getD_cons_succ, List.getD_cons_zero,
    stackOp_onChip 2 0 0 0 _ (viewOf s c) (by simp [hx]) (Nat.zero_le _) (.inl rfl) (.inl rfl)]
  by_cases hb : b = 0
  · simp [hb, orReturn_of_formOk hf]
  · rcases hf with rfl | ⟨rfl, ⟨w, r, hw, hbad⟩, -⟩
    · simp only [hb, if_false, exitBit_zero, Bool.true_eq_false, Bool.false_eq_true]
    · simp only [hb, if_false, exitBit_one, if_true, Bool.true_eq_false, popReturn_onChip (v := viewOf s c) hw hbad]

/-- A divide that stands between two of its microwords goes on with the operands that it read (R63, R107). -/
theorem divideOp_resumes {n : Nat} (h : microReady s c = true) (hm : (s.ctx c).mid = some (.divide op f n a b)) :
    divideOp op g v c f 0 s = .next (chargeTrap c (divideFrom op g v c f 0 n a b (viewOf s c) s)) := by
  simp [divideOp, issueOrResume, hm, h]

/-- A trap that was not raised is not charged. -/
theorem chargeTrap_none (h : (s.ctx c).trap = none) : chargeTrap c s = s := by
  simp [chargeTrap, h]

theorem trap_of_microReady (h : microReady s c = true) : (s.ctx c).trap = none := by
  simp only [microReady, Bool.and_eq_true, Option.isNone_iff_eq_none] at h
  obtain ⟨⟨⟨⟨-, ht⟩, -⟩, -⟩, -⟩ := h
  exact ht

/-- A divide that runs to its end occupies nine slots. -/
theorem answersOp_divide {vf : Bool} (hi : exec i s = divideOp op g v c f 0 s) {r : Word} (hr : g a b = r)
    (hv : (v a b).getD (s.ctx c).vf = vf) (h : CanIssue s c) (hf : FormOk (s.ctx c) f (s.ctx c).rs) (hd : (s.ctx c).ds = b :: a :: t)
    (hb : b ≠ 0) : AnswersOp op c i s fun u => RetiredForm s u c f 9 { s.ctx c with ds := r :: t, vf := vf } := fun hop => by
  have ret := divideFrom_retires (op := op) (g := g) (v := v) (a := a) (b := b) 0 hf
  refine ⟨_, hi.trans (divideOp_of_canIssue 0 h hop hf hd), ?_⟩
  rw [if_neg hb, fetchTrap_none _ _ (ret.trap_eq.trans h.trap)]
  simpa [hd, hr, hv, ← h.mid] using ret

theorem answersOp_divide_zero (hi : exec i s = divideOp op g v c f 0 s) (h : CanIssue s c) (hf : FormOk (s.ctx c) f (s.ctx c).rs)
    (hd : (s.ctx c).ds = 0 :: a :: t) : AnswersOp op c i s fun u => RaisesTrap s u c 0x05 0 := fun hop =>
  ⟨_, hi.trans (divideOp_of_canIssue 0 h hop hf hd), raiseTrap_raises _ _ _ _ h.mid⟩

theorem answersOp_divide_stops {n : Nat} (hi : exec i s = divideOp op g v c f n s) (h1 : 1 ≤ n) (h8 : n ≤ 8) (h : CanIssue s c)
    (hf : FormOk (s.ctx c) f (s.ctx c).rs) (hd : (s.ctx c).ds = b :: a :: t) (hb : b ≠ 0) :
    AnswersOp op c i s fun u =>
      u.ctx c = { retiredCtx s c n (s.ctx c).pc (s.ctx c) with mid := some (.divide op f n a b) } ∧
        RetireFrame [] s u c (s.core (coreOf c)) none := fun hop => by
  have st := divideFrom_stops (s := s) (c := c) (op := op) (f := f) (g := g) (v := v) (a := a) (b := b) h1 h8
  refine ⟨_, hi.trans (divideOp_of_canIssue n h hop hf hd), ?_⟩
  rw [if_neg hb, fetchTrap_none _ _ (by rw [st.1]; exact h.trap)]
  exact st

theorem answers_divide_resumes {n : Nat} {vf : Bool} (hi : exec i s = divideOp op g v c f 0 s) {r : Word} (hr : g a b = r)
    (hv : (v a b).getD (s.ctx c).vf = vf) (hf : FormOk (s.ctx c) f (s.ctx c).rs) (h : microReady s c = true)
    (hm : (s.ctx c).mid = some (.divide op f n a b)) :
    Answers i s fun u => RetiredForm s u c f (9 - n) { s.ctx c with mid := none, ds := r :: (s.ctx c).ds.drop 2, vf := vf } := by
  have ret := divideFrom_retires (op := op) (g := g) (v := v) (a := a) (b := b) n hf
  refine ⟨_, hi.trans (divideOp_resumes h hm), ?_⟩
  rw [chargeTrap_none (ret.trap_eq.trans (trap_of_microReady h))]
  rwa [hr, hv] at ret

end

/-- Settles O5: multiplies by where `lateTop` leaves their product, divides by what `divideFrom` leaves at its end and before it. -/
theorem multiplyAndDivide : Obligations.MultiplyAndDivide := by
  refine ⟨fun s c f h hf a b t hd _ => ?_, fun s c f h hf a b t hd _ => ⟨fun hb => ?_, ?_⟩, fun s c n f a b hb h1 h8 hf => ?_⟩
  · intro low v high highU
    have hlow : (mulFlags a b).1 = low := (ofInt_mulInt a b).symm
    have hv : some (mulFlags a b).2 = some v := by
      show some (decide (mulInt a b ≠ (mulFlags a b).1.toInt)) = some v
      rw [hlow]; rfl
    have mul := answersOp_multiply (i := .mul c f) rfl hlow hv h hf hd
    have mulh := answersOp_multiply (i := .mulh c f) (r := high) rfl rfl rfl h hf hd
    have mulhu := answersOp_multiply (i := .mulhu c f) (r := highU) rfl rfl rfl h hf hd
    refine ⟨fun hdet => ?_, fun hdet => ?_⟩
    · rw [hdet, lateTop_det] at mul mulh mulhu
      exact ⟨mul, mulh, mulhu⟩
    · rw [hdet, lateTop_late] at mul mulh mulhu
      exact ⟨mul, mulh, mulhu⟩
  · exact ⟨answersOp_divide rfl rfl rfl h hf hd hb, answersOp_divide rfl (modWord_eq a b) rfl h hf hd hb,
      answersOp_divide rfl rfl rfl h hf hd hb, answersOp_divide rfl rfl rfl h hf hd hb⟩
  · rintro rfl
    simp only [List.forall_mem_cons]
    exact ⟨answersOp_divide_zero rfl h hf hd, answersOp_divide_zero rfl h hf hd, answersOp_divide_zero rfl h hf hd,
      answersOp_divide_zero rfl h hf hd, List.forall_mem_nil _⟩
  · intro x two ovf
    have halves {op : Nat} {i : Nat → Instr} {g : Word → Word → Word} {v : Word → Word → Option Bool} {r : Word} {vf : Bool}
        (hi : ∀ k, exec (i k) s = divideOp op g v c f k s) (hr : g a b = r) (hv : (v a b).getD x.vf = vf) : two op i r vf :=
      ⟨fun _ h hd _ => answersOp_divide_stops (hi n) h1 h8 h hf hd hb, answers_divide_resumes (hi 0) hr hv hf⟩
    exact ⟨halves (fun _ => rfl) rfl rfl, halves (fun _ => rfl) (modWord_eq a b) rfl, halves (fun _ => rfl) rfl rfl,
      halves (fun _ => rfl) rfl rfl⟩

end Sys2Proof.Machine
end

section
/-! The illegal-instruction trap of a basic op that does not pass decode (R90, R169). -/

namespace Sys2Proof.Machine

open Sys2Proof

theorem legalOp_eq_false {s : State} {c op : Nat} {f : BitVec 4} (hl : 2 ≤ f.toNat ∨ opLoaded s c op = false) : legalOp s c op f = false := by
  simpa only [legalOp, Bool.and_eq_false_iff, decide_eq_false_iff_not, Nat.not_lt] using hl

/-- The basic op with this opcode traps as illegal, and does nothing else, where it does not pass decode. -/
def TrapsIllegal (s : State) (c : Nat) (f : BitVec 4) (q : Nat × Instr) : Prop :=
  2 ≤ f.toNat ∨ opLoaded s c q.1 = false → Answers q.2 s fun t => RaisesTrap s t c 0x01 0

section
variable {s : State} {c op : Nat} {f : BitVec 4} {i : Instr} {spec : Bool} {go rest : State → State}

/-- What an issued instruction raises is all that the command does (R147, R148). -/
theorem answers_of_issue {cause addr : Nat} (h : CanIssue s c) (hn : NotSpeculative s c) (hi : exec i s = .next (issue spec c go s))
    (hg : go s = raiseTrap c cause addr s) : Answers i s fun t => RaisesTrap s t c cause addr := by
  refine ⟨_, hi, ?_⟩
  rw [issue_of_canIssue spec c go s h (.inr hn), hg]
  exact raiseTrap_raises c cause addr s h.mid

/-- The same of an instruction that may be left between two of its microwords. -/
theorem answers_of_issueOrResume {more : Mid → State → State} {cause addr : Nat} (h : CanIssue s c) (hn : NotSpeculative s c)
    (hi : exec i s = .next (issueOrResume spec c go more s)) (hg : go s = raiseTrap c cause addr s) :
    Answers i s fun t => RaisesTrap s t c cause addr := by
  refine answers_of_issue (spec := spec) h hn (hi.trans ?_) hg
  simp only [issueOrResume, h.mid]

/-! ## A lemma for each shape of a basic op -/

/-- A basic op that begins with its decode. -/
theorem trapsIllegal_of_decode (h : CanIssue s c) (hn : NotSpeculative s c)
    (hi : exec i s = .next (issue spec c (fun s => if legalOp s c op f = false then raiseTrap c 0x01 0 s else rest s) s)) :
    TrapsIllegal s c f (op, i) := fun hl =>
  answers_of_issue h hn hi (if_pos (legalOp_eq_false hl))

theorem trapsIllegal_stack {use : RetUse} {slots : Nat} {body : Bool → View → Except TrapCA View} (h : CanIssue s c)
    (hi : exec i s = .next (stackInstr op use c f slots body s)) : TrapsIllegal s c f (op, i) := fun hl =>
  ⟨_, hi, stackInstr_illegal s op use c f slots body h (legalOp_eq_false hl)⟩

theorem trapsIllegal_simpleStack {use : RetUse} {nd nr pd pr slots : Nat} {act : Ctx → Ctx} (h : CanIssue s c)
    (hi : exec i s = .next (simpleStack op use nd nr pd pr act slots c f s)) : TrapsIllegal s c f (op, i) := trapsIllegal_stack h hi

theorem trapsIllegal_binary {g : Word → Word → Word} {slots : Nat} (h : CanIssue s c)
    (hi : exec i s = .next (binaryOp op g slots c f s)) : TrapsIllegal s c f (op, i) := trapsIllegal_stack h hi

theorem trapsIllegal_unary {g : Word → Word} {slots : Nat} (h : CanIssue s c)
    (hi : exec i s = .next (unaryOp op g slots c f s)) : TrapsIllegal s c f (op, i) := trapsIllegal_stack h hi

theorem trapsIllegal_divide {g : Word → Word → Word} {v : Word → Word → Option Bool} {stop : Nat} (h : CanIssue s c)
    (hn : NotSpeculative s c) (hi : exec i s = divideOp op g v c f stop s) : TrapsIllegal s c f (op, i) := fun hl =>
  answers_of_issueOrResume h hn hi (if_pos (legalOp_eq_false hl))

/-- A control opcode is legal with f = 0 alone (R93). -/
theorem trapsIllegal_control (h : CanIssue s c) (hn : NotSpeculative s c) (hi : exec i s = .next (controlInstr op spec c f rest s)) :
    TrapsIllegal s c f (op, i) := by
  refine fun hl => answers_of_issue h hn hi (if_neg fun ⟨h0, hop⟩ => ?_)
  rcases hl with hl | hl
  · simp [h0] at hl
  · simp [hop] at hl

/-- On S the privilege check of a supervisor-only instruction passes, and decode is next (R91). -/
theorem trapsIllegal_super {n : Nat} {right : List Word → State → Option TrapCA} {act : List Word → State → State × Word}
    (h : CanIssue s c) (hn : NotSpeculative s c) (hS : isS c = true) (hi : exec i s = .next (superInstr op n c f right act s)) :
    TrapsIllegal s c f (op, i) := fun hl =>
  answers_of_issue h hn hi (by simp only [hS, Bool.true_eq_false, if_false, legalOp_eq_false hl, if_true])

/-- An opcode of no command of its own is checked for privilege, and then for bits [11:9] (R90, R91). -/
theorem answers_illegal_userOp {o : BitVec 8} {bad : Bool} {stop : Nat} (h : CanIssue s c) (hn : NotSpeculative s c) (hf : 2 ≤ f.toNat)
    (hp : o.toNat < 0xF0 ∨ isS c = true) : Answers (.userOp c o f bad stop) s fun t => RaisesTrap s t c 0x01 0 := by
  refine answers_of_issueOrResume h hn rfl ((if_neg fun ⟨ho, hS⟩ => ?_).trans (if_pos hf))
  rcases hp with hp | hp
  · omega
  · simp [hp] at hS

end

/-! ## The rows of chapters 4 and 5 -/

/-- The stack instructions, with their opcodes (Table 4.3). -/
def stackRows (c : Nat) (f : BitVec 4) : List (Nat × Instr) :=
  [(0x00, .nop c f), (0x01, .dup c f none), (0x02, .drop c f), (0x03, .swap c f), (0x04, .over c f none), (0x05, .rot c f),
    (0x06, .nip c f), (0x07, .tuck c f), (0x08, .pick c f), (0x09, .depth c f), (0x0A, .toR c f), (0x0B, .rFrom c f), (0x0C, .rFetch c f),
    (0x0D, .rdrop c f)]

/-- The arithmetic, logic, shift and multiply instructions (Tables 4.4 and 4.5). -/
def arithmeticRows (c : Nat) (f : BitVec 4) : List (Nat × Instr) :=
  [(0x10, .add c f), (0x11, .sub c f), (0x12, .addc c f), (0x13, .subc c f), (0x14, .and c f), (0x15, .or c f), (0x16, .xor c f),
    (0x17, .not c f), (0x18, .neg c f), (0x19, .shl c f), (0x1A, .shr c f), (0x1B, .sar c f), (0x1C, .rol c f), (0x1D, .ror c f),
    (0x20, .mul c f), (0x21, .mulh c f), (0x22, .mulhu c f)]

/-- The divides (Table 4.5). -/
def divideRows (c : Nat) (f : BitVec 4) : List (Nat × Instr) :=
  [(0x23, .div c f 0), (0x24, .divu c f 0), (0x25, .mod c f 0), (0x26, .modu c f 0)]

/-- The compares, extensions and bit counts (Table 4.6). -/
def compareRows (c : Nat) (f : BitVec 4) : List (Nat × Instr) :=
  [(0x28, .eq c f none), (0x29, .ne c f), (0x2A, .lt c f none), (0x2B, .ltu c f none), (0x2C, .zeq c f none), (0x2D, .min c f),
    (0x2E, .max c f), (0x30, .sexb c f), (0x31, .sexh c f), (0x32, .zexb c f), (0x33, .zexh c f), (0x34, .clz c f), (0x35, .popc c f)]

/-- The memory instructions that are basic ops (R110 to R130). -/
def memoryRows (c : Nat) (f : BitVec 4) (u : Upset) : List (Nat × Instr) :=
  [(0x40, .ldb c f u), (0x41, .ldbu c f u), (0x42, .ldh c f u), (0x43, .ldhu c f u), (0x44, .ldw c f u), (0x45, .stb c f), (0x46, .sth c f),
    (0x47, .stw c f), (0x48, .ldtry c f u), (0x49, .afadd c f u), (0x4A, .acas c f u), (0x4B, .lock c f), (0x4C, .unlock c f),
    (0x4D, .fence c f), (0x4E, .dflush c f), (0x4F, .dinval c f), (0x50, .iflush c f), (0x51, .setdb c f), (0x52, .getdb c f),
    (0x53, .setib c f), (0x54, .getib c f)]

/-- The control instructions that are basic ops (R131 to R134). -/
def controlRows (c : Nat) (f : BitVec 4) : List (Nat × Instr) :=
  [(0x60, .jmpx c f), (0x61, .callx c f), (0x62, .ret c f), (0x63, .iret c f), (0x64, .trap c f), (0x65, .brk c f)]

/-- The I/O and thread instructions that are basic ops (R135 to R142). -/
def threadRows (c : Nat) (f : BitVec 4) : List (Nat × Instr) :=
  [(0x70, .inx c f), (0x71, .outx c f), (0x72, .wait c f), (0x73, .send c f), (0x74, .yield c f), (0x75, .timer c f), (0x76, .cswrd c f),
    (0x77, .cswwr c f)]

/-- The supervisor-only instructions (R143 to R146). -/
def superRows (c : Nat) (f : BitVec 4) : List (Nat × Instr) :=
  [(0xF0, .ucwr c f), (0xF0, .ucwrDispatch c f), (0xF1, .ncwr c f), (0xF2, .modesetEnter c f), (0xF2, .modesetLeave c f),
    (0xF3, .ctxctlHalt c f), (0xF3, .ctxctlStart c f), (0xF3, .ctxctlResume c f), (0xF3, .ctxctlSetAcct c f), (0xF3, .ctxctlSetReg c f)]

section
variable {s : State} {c : Nat} {f : BitVec 4}

/-- The instructions that may stand first in a pair have their lemmas; the others are `stackInstr` by definition. -/
theorem stackRows_trapIllegal (h : CanIssue s c) : ∀ q ∈ stackRows c f, TrapsIllegal s c f q := by
  simp only [stackRows, List.forall_mem_cons, List.not_mem_nil, false_implies, implies_true, and_true]
  refine ⟨?_, trapsIllegal_simpleStack h (exec_dup_none ..), ?_, ?_, trapsIllegal_simpleStack h (exec_over_none ..), ?_⟩
  all_goals and_intros
  all_goals exact trapsIllegal_stack h rfl

theorem arithmeticRows_trapIllegal (h : CanIssue s c) : ∀ q ∈ arithmeticRows c f, TrapsIllegal s c f q := by
  simp only [arithmeticRows, List.forall_mem_cons, List.not_mem_nil, false_implies, implies_true, and_true]
  and_intros
  all_goals exact trapsIllegal_stack h rfl

theorem divideRows_trapIllegal (h : CanIssue s c) (hn : NotSpeculative s c) : ∀ q ∈ divideRows c f, TrapsIllegal s c f q := by
  simp only [divideRows, List.forall_mem_cons, List.not_mem_nil, false_implies, implies_true, and_true]
  and_intros
  all_goals exact trapsIllegal_divide h hn rfl

theorem compareRows_trapIllegal (h : CanIssue s c) : ∀ q ∈ compareRows c f, TrapsIllegal s c f q := by
  simp only [compareRows, List.forall_mem_cons, List.not_mem_nil, false_implies, implies_true, and_true]
  refine ⟨trapsIllegal_binary h (exec_eq_none ..), ?_, trapsIllegal_binary h (exec_lt_none ..), trapsIllegal_binary h (exec_ltu_none ..),
    trapsIllegal_unary h (exec_zeq_none ..), ?_⟩
  all_goals and_intros
  all_goals exact trapsIllegal_stack h rfl

theorem memoryRows_trapIllegal (u : Upset) (h : CanIssue s c) (hn : NotSpeculative s c) : ∀ q ∈ memoryRows c f u, TrapsIllegal s c f q := by
  simp only [memoryRows, List.forall_mem_cons, List.not_mem_nil, false_implies, implies_true, and_true]
  and_intros
  all_goals exact trapsIllegal_of_decode h hn rfl

theorem controlRows_trapIllegal (h : CanIssue s c) (hn : NotSpeculative s c) : ∀ q ∈ controlRows c f, TrapsIllegal s c f q := by
  simp only [controlRows, List.forall_mem_cons, List.not_mem_nil, false_implies, implies_true, and_true]
  and_intros
  all_goals exact trapsIllegal_control h hn rfl

theorem threadRows_trapIllegal (h : CanIssue s c) (hn : NotSpeculative s c) : ∀ q ∈ threadRows c f, TrapsIllegal s c f q := by
  simp only [threadRows, List.forall_mem_cons, List.not_mem_nil, false_implies, implies_true, and_true]
  and_intros
  all_goals exact trapsIllegal_of_decode h hn rfl

theorem superRows_trapIllegal (h : CanIssue s c) (hn : NotSpeculative s c) (hS : isS c = true) :
    ∀ q ∈ superRows c f, TrapsIllegal s c f q := by
  simp only [superRows, List.forall_mem_cons, List.not_mem_nil, false_implies, implies_true, and_true]
  and_intros
  all_goals exact trapsIllegal_super h hn hS rfl

end

/-- Settles O6: each command of the tables begins with its decode, after the privilege check where there is one. -/
theorem nonzeroFieldIsIllegal : Obligations.NonzeroFieldIsIllegal := by
  intro s c f u h hn
  have hS (hc : coreOf c = 16) : isS c = true := by simp [isS, hc]
  refine ⟨fun q hq => ?_, fun o bad hf hp => answers_illegal_userOp h hn hf (hp.imp_right hS), fun hc => superRows_trapIllegal h hn (hS hc)⟩
  have rows : q ∈ stackRows c f ++ arithmeticRows c f ++ divideRows c f ++ compareRows c f ++ memoryRows c f u ++ controlRows c f ++
    threadRows c f := hq
  simp only [List.mem_append, or_assoc] at rows
  rcases rows with hq | hq | hq | hq | hq | hq | hq
  · exact stackRows_trapIllegal h q hq
  · exact arithmeticRows_trapIllegal h q hq
  · exact divideRows_trapIllegal h hn q hq
  · exact compareRows_trapIllegal h q hq
  · exact memoryRows_trapIllegal u h hn q hq
  · exact controlRows_trapIllegal h hn q hq
  · exact threadRows_trapIllegal h hn q hq

end Sys2Proof.Machine
end
